-- ==== Sys2Proof/Word.lean ====
section
/-! DEFINITION. The words of the WDU-3106 and the shape of its sparse storage: bytes, 64-bit words, 512-bit rows
(R7, R73, R74), and the association list in which sparse state is held. -/

namespace Sys2Proof

/-- A byte (R7). -/
abbrev Byte := BitVec 8

/-- A 64-bit word: an instruction word (R83), a row word (R74), a register of BAR0 (R334). -/
abbrev Word := BitVec 64

/-- A 512-bit bank row or plane register (R73, R79). -/
abbrev Row := BitVec 512

/-- A 64-byte submission entry (R283), byte `k` at bits `8k` to `8k + 7` (R7). -/
abbrev Entry := BitVec 512

/-- A 128-byte pass descriptor (R154), byte `k` at bits `8k` to `8k + 7`. -/
abbrev Desc := BitVec 1024

/-- A 256-byte flit (R243). -/
abbrev Flit := BitVec 2048

/-- Sparse data by key: strictly rising keys, and no entry that holds what an unlisted key reads as. -/
abbrev Sparse (α : Type) := List (Nat × α)

/-- Bits `lo` to `lo + len - 1` of a word, as a number (R7). -/
def fld {n : Nat} (w : BitVec n) (lo len : Nat) : Nat := (w.extractLsb' lo len).toNat

/-- Bit `i` of a word. -/
def bit {n : Nat} (w : BitVec n) (i : Nat) : Bool := w.getLsbD i

end Sys2Proof
end

