-- ==== Sys2Proof/Syntax.lean ====
section
/-! DEFINITION. The commands of the unit: one constructor for each row of spec/opcode_table.json, with the operands that
the row's rule gives it. A DMA read's answer, a received flit or frame, a sensor reading and the outcome of a test come
from outside the unit, so they are operands. -/

namespace Sys2Proof

/-- The bank units a word goes to: one logical BU, or all 128 of a core (R22, R345). -/
structure BuAt where
  field : Nat
  core : Nat
  bu : Option Nat
deriving DecidableEq, Repr

/-- Who issues a bank instruction: the host through the core's command FIFO (R345), or the core sequencer for pass `p`
of its window, with the event number of the word (R119) and the plane payload that it attaches (R88). -/
inductive Issue where
  | host
  | seq (p : Nat) (event : Nat) (payload : Option Row)
deriving DecidableEq, Repr

/-- The answer to a DMA read: the bytes, a poisoned completion, or an abort, an Unsupported Request or a timeout
(R285). -/
inductive DmaRead where
  | ok (bytes : List Byte)
  | poisoned
  | failed
deriving DecidableEq, Repr

/-- What the codes of a brim link's lanes say of an arriving flit (R240): its number in the flit stream since codeword lock, the symbols
corrected in it, and the codewords that failed to decode, by lane and number on it. -/
structure Fec where
  pos : Nat
  corrected : Nat := 0
  failed : List (Nat × Nat) := []
deriving DecidableEq, Repr

/-- A flit as it arrives on a brim link. -/
structure Arrival where
  bits : BitVec 2048
  fec : Fec
deriving DecidableEq, Repr

/-- A fetched message: its queue pair, or 1,024 for the management channel, and its SQ counter (R286, R292). -/
structure MsgId where
  src : Nat
  ctr : Nat
deriving DecidableEq, Repr

/-- Physical parts that a start-up self-test finds failing: whole fields by (row, column), and BUs by row, column, core
and physical number (R404). -/
structure SelfTest where
  fields : List (Nat × Nat)
  bus : List (Nat × Nat × Nat × Nat)
deriving DecidableEq, Repr

/-- A switched domain that wakes (R378, R379). -/
inductive Domain where
  | core (f c : Nat)
  | edge (f : Nat)
  | service (f : Nat)
deriving DecidableEq, Repr

/-- What trips a takeover by the standby Milliner set (R277). -/
inductive FailoverCause where
  | heartbeat
  | controlState
  | powerDomain
deriving DecidableEq, Repr

/-- Why a BU is declared failed (R426). -/
inductive BuFault where
  | selfTest
  | logic
  | uncorrectable
deriving DecidableEq, Repr

/-- Why a field is declared failed, numbered as FIELD_LOST detail byte 36 (Table 18-3). -/
inductive FieldFault where
  | selfTest
  | buSpares
  | stewardSilent
  | thermal
  | vck
  | cutOff
  | service
deriving DecidableEq, Repr

/-- Which fault stops the whole unit (R436). -/
inductive UnitFault where
  | lastMilliner
  | noTap
  | vckRoot
  | vigilState
deriving DecidableEq, Repr

/-- Why a Hatband link goes down (R235). -/
inductive HbCause where
  | phaseFifo
  | uncorrectable
  | domain
deriving DecidableEq, Repr

/-- Where unheld lanterns return from (R391). -/
inductive LoanLevel where
  | field (f : Nat)
  | row (r : Nat)
deriving DecidableEq, Repr

/-- Which thermal condition a periodic timer follows (R394, Table 16-8). -/
inductive ThermalTimer where
  | shrink
  | ceiling
  | recoverPool
  | recoverCeiling
deriving DecidableEq, Repr

/-- What clears a mask or enables MSI-X on a port (R348). -/
inductive MsixChange where
  | vector (v : Nat)
  | function
  | enable
deriving DecidableEq, Repr

/-- A host access to bulk memory through BAR2 (R264): a read of `len` bytes, or a write of bytes with enables. -/
inductive BulkAccess where
  | read (len tag : Nat)
  | write (bytes : List (Option Byte)) (ep : Bool)
deriving DecidableEq, Repr

/-- A 64-bit word on Hatband with its data as sent, as received, and its poison flag (R227). -/
structure HbWord where
  sent : BitVec 64
  got : BitVec 64
  poison : Bool
deriving DecidableEq, Repr

/-- A traffic class of Hatband (R229). -/
inductive HbClass where
  | c
  | d
  | a
deriving DecidableEq, Repr

/-- The commands. The docstring of each names its row. -/
inductive Instr where
  -- bank unit instructions (R84)
  /-- NOP -/
  | nop (at_ : BuAt) (by_ : Issue) (w : Word)
  /-- PLOGIC -/
  | plogic (at_ : BuAt) (by_ : Issue) (w : Word)
  /-- PADD -/
  | padd (at_ : BuAt) (by_ : Issue) (w : Word)
  /-- PSUB -/
  | psub (at_ : BuAt) (by_ : Issue) (w : Word)
  /-- PCMP -/
  | pcmp (at_ : BuAt) (by_ : Issue) (w : Word)
  /-- PFLAG -/
  | pflag (at_ : BuAt) (by_ : Issue) (w : Word)
  /-- PSEL -/
  | psel (at_ : BuAt) (by_ : Issue) (w : Word)
  /-- PSHE -/
  | pshe (at_ : BuAt) (by_ : Issue) (w : Word)
  /-- PPOP -/
  | ppop (at_ : BuAt) (by_ : Issue) (w : Word)
  /-- ROWCP -/
  | rowcp (at_ : BuAt) (by_ : Issue) (w : Word)
  /-- PBCAST -/
  | pbcast (at_ : BuAt) (by_ : Issue) (w : Word)
  /-- LOOKUP -/
  | lookup (at_ : BuAt) (by_ : Issue) (w : Word)
  /-- LOOKUPS, with the card, window and row that the metadata decoder stands at (R137). -/
  | lookups (at_ : BuAt) (by_ : Issue) (w : Word) (card win row : Nat)
  /-- MAC16 -/
  | mac16 (at_ : BuAt) (by_ : Issue) (w : Word)
  /-- ESCMAC -/
  | escmac (at_ : BuAt) (by_ : Issue) (w : Word)
  /-- PRELOAD -/
  | preload (at_ : BuAt) (by_ : Issue) (w : Word)
  /-- CSEL -/
  | csel (at_ : BuAt) (by_ : Issue) (w : Word)
  /-- TBUILD -/
  | tbuild (at_ : BuAt) (by_ : Issue) (w : Word)
  /-- YIELD -/
  | yield_ (at_ : BuAt) (by_ : Issue) (w : Word)
  /-- GOPEN -/
  | gopen (at_ : BuAt) (by_ : Issue) (w : Word)
  /-- GCLOSE -/
  | gclose (at_ : BuAt) (by_ : Issue) (w : Word)
  /-- DRAIN -/
  | drain (at_ : BuAt) (by_ : Issue) (w : Word)
  /-- SSET -/
  | sset (at_ : BuAt) (by_ : Issue) (w : Word)
  /-- SADD -/
  | sadd (at_ : BuAt) (by_ : Issue) (w : Word)
  /-- YIELD_INTERVAL_EXPIRY -/
  | yieldIntervalExpiry (f c u : Nat)
  /-- IDLE_CYCLE_YIELD -/
  | idleCycleYield (f c u : Nat)
  /-- CORE_SETTLED_SKIP -/
  | coreSettledSkip (f c : Nat)
  /-- DRAIN_PATH_TAKE -/
  | drainPathTake (f c : Nat)
  /-- GROUP_RELEASE, of group register `g`. -/
  | groupRelease (f c g : Nat)
  -- core sequencer, `p` the pass index
  /-- DESCRIPTOR_FETCH -/
  | descriptorFetch (f c : Nat)
  /-- TABLE_PASS -/
  | tablePass (f c p : Nat)
  /-- SPARSE_PASS -/
  | sparsePass (f c p : Nat)
  /-- ESCAPE_PASS -/
  | escapePass (f c p : Nat)
  /-- PLANE_PASS -/
  | planePass (f c p : Nat)
  /-- MAC16_PASS -/
  | mac16Pass (f c p : Nat)
  /-- REDUCE_PASS -/
  | reducePass (f c p : Nat)
  /-- ROUTE_PASS -/
  | routePass (f c p : Nat)
  /-- EDGE_PASS -/
  | edgePass (f c p : Nat)
  /-- MOVE_FIELD -/
  | moveField (f c p : Nat)
  /-- MOVE_FABRIC -/
  | moveFabric (f c p : Nat)
  /-- BULK_COPY -/
  | bulkCopy (f c p : Nat)
  /-- BULK_ENGINE -/
  | bulkEngine (f c p : Nat)
  /-- DRAIN_PASS -/
  | drainPass (f c p : Nat)
  /-- PASS_COMMIT -/
  | passCommit (f c : Nat)
  /-- ROUTE_RESOLVE -/
  | routeResolve (f c : Nat)
  /-- REDUCE_NODE_COMBINE, at the rank-0 participant. -/
  | reduceNodeCombine (f c p : Nat)
  /-- REDUCE_TIMEOUT -/
  | reduceTimeout (f c p : Nat)
  -- edge unit of field `f`; `w` the edge program word
  /-- EDGE_POSTING_RUN -/
  | edgePostingRun (f : Nat)
  /-- EDGE_ADD -/
  | edgeAdd (f : Nat) (w : Word)
  /-- SUB -/
  | edgeSub (f : Nat) (w : Word)
  /-- MUL -/
  | edgeMul (f : Nat) (w : Word)
  /-- FMA -/
  | edgeFma (f : Nat) (w : Word)
  /-- MAX -/
  | edgeMax (f : Nat) (w : Word)
  /-- MIN -/
  | edgeMin (f : Nat) (w : Word)
  /-- ABS -/
  | edgeAbs (f : Nat) (w : Word)
  /-- NEG -/
  | edgeNeg (f : Nat) (w : Word)
  /-- COPY -/
  | edgeCopy (f : Nat) (w : Word)
  /-- DIV -/
  | edgeDiv (f : Nat) (w : Word)
  /-- RECIP -/
  | edgeRecip (f : Nat) (w : Word)
  /-- SQRT -/
  | edgeSqrt (f : Nat) (w : Word)
  /-- RSQRT -/
  | edgeRsqrt (f : Nat) (w : Word)
  /-- EXP -/
  | edgeExp (f : Nat) (w : Word)
  /-- LOG -/
  | edgeLog (f : Nat) (w : Word)
  /-- TANH -/
  | edgeTanh (f : Nat) (w : Word)
  /-- SIGM -/
  | edgeSigm (f : Nat) (w : Word)
  /-- RSUM -/
  | edgeRsum (f : Nat) (w : Word)
  /-- RMAX -/
  | edgeRmax (f : Nat) (w : Word)
  /-- RMIN -/
  | edgeRmin (f : Nat) (w : Word)
  /-- LD -/
  | edgeLd (f : Nat) (w : Word)
  /-- ST -/
  | edgeSt (f : Nat) (w : Word)
  -- lanterns
  /-- LANTERN_GRANT, to pass `p`. -/
  | lanternGrant (f c p : Nat)
  /-- LANTERN_GRANT_TIMEOUT -/
  | lanternGrantTimeout (f c p : Nat)
  /-- LANTERN_LOAN_RETURN -/
  | lanternLoanReturn (l : LoanLevel)
  -- queues of the Milliner
  /-- SQ_TAIL_DOORBELL, by `port` on queue `q`. -/
  | sqTailDoorbell (port q : Nat) (v : BitVec 32)
  /-- CQ_HEAD_DOORBELL -/
  | cqHeadDoorbell (port q : Nat) (v : BitVec 32)
  /-- SQ_ENTRY_FETCH, with what the read of the entry returned. -/
  | sqEntryFetch (q : Nat) (rd : DmaRead)
  /-- INTERRUPT_MODERATION_TIMEOUT -/
  | interruptModerationTimeout (q : Nat)
  /-- MILLINER_FAILOVER -/
  | millinerFailover (cause : FailoverCause)
  -- messages (chapter 13), by the fetched entry that carries them; `rd` is what the read of the descriptor returned
  /-- DEVICE_NOP -/
  | deviceNop (m : MsgId)
  /-- DEVICE_INFO -/
  | deviceInfo (m : MsgId)
  /-- UNIT_RESET, with the self-test of the start that follows. -/
  | unitReset (m : MsgId) (t : SelfTest)
  /-- UNIT_DOWN -/
  | unitDown (m : MsgId)
  /-- QUEUE_CREATE -/
  | queueCreate (m : MsgId)
  /-- QUEUE_DELETE -/
  | queueDelete (m : MsgId)
  /-- QUEUE_ASSIGN -/
  | queueAssign (m : MsgId)
  /-- QUEUE_MODERATE -/
  | queueModerate (m : MsgId)
  /-- QUEUE_QUERY -/
  | queueQuery (m : MsgId)
  /-- CONFIG_STAGE -/
  | configStage (m : MsgId) (rd : DmaRead)
  /-- CONFIG_SEAL -/
  | configSeal (m : MsgId)
  /-- CONFIG_DISCARD -/
  | configDiscard (m : MsgId)
  /-- CONFIG_QUERY -/
  | configQuery (m : MsgId)
  /-- PLAN_LOAD -/
  | planLoad (m : MsgId) (rd : DmaRead)
  /-- PLAN_SEAL -/
  | planSeal (m : MsgId)
  /-- PLAN_UNLOAD -/
  | planUnload (m : MsgId)
  /-- PLAN_QUERY -/
  | planQuery (m : MsgId)
  /-- PLAN_WINDOWS -/
  | planWindows (m : MsgId)
  /-- JOB_SUBMIT -/
  | jobSubmit (m : MsgId) (rd : DmaRead)
  /-- JOB_START, of the job with handle `h`. -/
  | jobStart (h : Word)
  /-- JOB_COMPLETE -/
  | jobComplete (h : Word)
  /-- JOB_LIMIT_EXPIRY -/
  | jobLimitExpiry (h : Word)
  /-- JOB_CANCEL -/
  | jobCancel (m : MsgId)
  /-- JOB_QUERY -/
  | jobQuery (m : MsgId)
  /-- CADENCE_ARM -/
  | cadenceArm (m : MsgId)
  /-- CADENCE_REARM -/
  | cadenceRearm (m : MsgId)
  /-- CADENCE_DISARM -/
  | cadenceDisarm (m : MsgId)
  /-- CADENCE_QUERY -/
  | cadenceQuery (m : MsgId)
  /-- CADENCE_TICK_DISPATCH, of stream `st`. -/
  | cadenceTickDispatch (st : Nat)
  /-- CADENCE_OUTPUT_DELIVER, `late` the QCK periods past the deadline. -/
  | cadenceOutputDeliver (st : Nat) (late : BitVec 32)
  /-- CADENCE_DEADLINE_MISS, of tick `tick`. -/
  | cadenceDeadlineMiss (st tick : Nat)
  /-- IC_PROD_WRITE -/
  | icProdWrite (st : Nat) (v : BitVec 32)
  /-- IC_OREL_WRITE -/
  | icOrelWrite (st : Nat) (v : BitVec 32)
  /-- WINDOW_MODE -/
  | windowMode (m : MsgId)
  /-- WINDOW_BASE -/
  | windowBase (m : MsgId)
  /-- WINDOW_QUERY -/
  | windowQuery (m : MsgId)
  /-- POOL_SET -/
  | poolSet (m : MsgId)
  /-- FCK_CEILING_SET -/
  | fckCeilingSet (m : MsgId)
  /-- POWER_QUERY -/
  | powerQuery (m : MsgId)
  /-- FABRIC_STAGE -/
  | fabricStage (m : MsgId) (rd : DmaRead)
  /-- FABRIC_ROUTES -/
  | fabricRoutes (m : MsgId) (rd : DmaRead)
  /-- FABRIC_APPLY -/
  | fabricApply (m : MsgId)
  /-- LINK_ENABLE -/
  | linkEnable (m : MsgId)
  /-- LINK_STATE -/
  | linkState (m : MsgId)
  /-- BULK_QUERY -/
  | bulkQuery (m : MsgId)
  /-- BULK_ENGINE_RESET -/
  | bulkEngineReset (m : MsgId)
  /-- COUNTER_READ -/
  | counterRead (m : MsgId)
  /-- COUNTER_CLEAR -/
  | counterClear (m : MsgId)
  /-- TELEMETRY_READ -/
  | telemetryRead (m : MsgId)
  /-- FAULT_READ -/
  | faultRead (m : MsgId)
  /-- FAULT_INFO -/
  | faultInfo (m : MsgId)
  /-- FW_WRITE -/
  | fwWrite (m : MsgId) (rd : DmaRead)
  /-- FW_VERIFY -/
  | fwVerify (m : MsgId)
  /-- FW_ACTIVATE, with the self-test of the start that follows. -/
  | fwActivate (m : MsgId) (t : SelfTest)
  /-- FW_QUERY -/
  | fwQuery (m : MsgId)
  /-- FIELD_MAP -/
  | fieldMap (m : MsgId)
  /-- DIAG_RUN -/
  | diagRun (m : MsgId)
  /-- DIAG_RUN_COMPLETE, with the outcome: the first failing test bit, and the failing BUs. -/
  | diagRunComplete (firstFail : Option Nat) (bus : Nat)
  /-- DIAG_INJECT -/
  | diagInject (m : MsgId)
  -- host port
  /-- VIGIL_TIME_LOW_READ -/
  | vigilTimeLowRead (port tag : Nat)
  /-- EVENT_CAUSE_WRITE -/
  | eventCauseWrite (port : Nat) (v : Word)
  /-- EVENT_MASK_WRITE -/
  | eventMaskWrite (port : Nat) (v : Word)
  /-- ADMIN_ENABLE, by an ADMIN_SIZES write of `v`. -/
  | adminEnable (port : Nat) (v : Word)
  /-- ADMIN_DISABLE, by an ADMIN_SIZES write of `v`. -/
  | adminDisable (port : Nat) (v : Word)
  /-- ADMIN_TEARDOWN_COMPLETE -/
  | adminTeardownComplete (port : Nat)
  /-- BAR0_REGISTER_WRITE, of `size` bytes at `off`. -/
  | bar0RegisterWrite (port off size : Nat) (v : Word)
  /-- WINDOW_READ, at BAR2 offset `off`. -/
  | windowRead (port off len tag : Nat)
  /-- WINDOW_WRITE, one byte per element, none where its enable is 0. -/
  | windowWrite (port off : Nat) (bytes : List (Option Byte)) (ep : Bool)
  /-- COMMAND_WORD_WRITE, at BAR2 offset `off`. -/
  | commandWordWrite (port off : Nat) (bytes : List (Option Byte))
  /-- BULK_ENGINE_WORD_WRITE, at unit address `addr`. -/
  | bulkEngineWordWrite (port addr : Nat) (w : Word)
  /-- HOST_BULK_ACCESS, at BAR2 offset `off`. -/
  | hostBulkAccess (port off : Nat) (a : BulkAccess)
  -- near-memory engine `e` of slot `m`; `w` the command word
  /-- ZERO -/
  | engZero (m e : Nat) (w : Word)
  /-- SETI -/
  | engSeti (m e : Nat) (w : Word)
  /-- DOT -/
  | engDot (m e : Nat) (w : Word)
  /-- ENGINE_ADD -/
  | engAdd (m e : Nat) (w : Word)
  /-- SHR -/
  | engShr (m e : Nat) (w : Word)
  /-- STORE -/
  | engStore (m e : Nat) (w : Word)
  /-- PTRX -/
  | engPtrx (m e : Nat) (w : Word)
  /-- PTRY -/
  | engPtry (m e : Nat) (w : Word)
  /-- PTRZ -/
  | engPtrz (m e : Nat) (w : Word)
  -- power, clocks, heat
  /-- CORE_IDLE_HOLD_EXPIRY -/
  | coreIdleHoldExpiry (f c : Nat)
  /-- EDGE_IDLE_HOLD_EXPIRY -/
  | edgeIdleHoldExpiry (f : Nat)
  /-- DOMAIN_WAKE_COMPLETE -/
  | domainWakeComplete (d : Domain)
  /-- FCK_STEP_CHANGE -/
  | fckStepChange
  /-- UNIT_WAKE, with the service tests, and whether the kept image matches its hash (R410). -/
  | unitWake (t : SelfTest) (imageOk : Bool)
  /-- THERMAL_REPORT, in 1/16 degree. -/
  | thermalReport (f : Nat) (t : Int)
  /-- THERMAL_LIMIT_TIMER -/
  | thermalLimitTimer (k : ThermalTimer)
  /-- THERMAL_SWITCH_OFF -/
  | thermalSwitchOff (f : Nat)
  /-- VCK_EDGE_LOSS, at the repeater of physical field (r, c). -/
  | vckEdgeLoss (r c : Nat)
  /-- VCK_TREE_REROOT -/
  | vckTreeReroot
  /-- POWER_GOOD, with the self-test of a cold start. -/
  | powerGood (t : SelfTest)
  /-- BUS_UNDERVOLTAGE, in mV. -/
  | busUndervoltage (mv : Nat)
  /-- POWER_FAIL, in mV. -/
  | powerFail (mv : Nat)
  /-- INPUT_POWER_EXCESS, one millisecond mean in W. -/
  | inputPowerExcess (watts : Nat)
  /-- REGULATOR_FAULT, of field `f`, in mV; none where it is silent. -/
  | regulatorFault (f : Nat) (mv : Option Nat)
  /-- JUNCTION_SENSOR_FAIL -/
  | junctionSensorFail (f c sensor : Nat)
  /-- COOLANT_FLOW_SAMPLE, in 0.1 L/min, none where the sensor is silent; `held` that a higher limit was required for 10 s. -/
  | coolantFlowSample (flow : Option Nat) (slow held : Bool)
  /-- COOLANT_INLET_SAMPLE, in 1/16 degree. -/
  | coolantInletSample (t : Option Int) (held : Bool)
  /-- LEAK_DETECT -/
  | leakDetect
  /-- RESET_L_ASSERT -/
  | resetLAssert
  /-- RESET_L_RELEASE, with the self-test of the start that follows. -/
  | resetLRelease (t : SelfTest)
  /-- PRSNT_CHANGE -/
  | prsntChange (m : Nat) (present : Bool)
  /-- PERST_ASSERT -/
  | perstAssert (port : Nat)
  /-- HOT_RESET -/
  | hotReset (port : Nat)
  /-- PORT_LINK_DOWN -/
  | portLinkDown (port : Nat)
  /-- FUNCTION_LEVEL_RESET -/
  | functionLevelReset (port : Nat)
  /-- D3HOT_ENTRY -/
  | d3hotEntry (port : Nat)
  /-- D0_RETURN -/
  | d0Return (port : Nat)
  /-- DMA_READ_TIMEOUT, of a message's read. -/
  | dmaReadTimeout (m : MsgId)
  -- failures
  /-- BU_FAILURE -/
  | buFailure (f c u : Nat) (cause : BuFault)
  /-- BU_REPLACEMENT, with the image reads of a restore, by plan index (R432). -/
  | buReplacement (f c u : Nat) (rds : List (Nat × DmaRead))
  /-- STEWARD_HEARTBEAT_TIMEOUT -/
  | stewardHeartbeatTimeout (f : Nat)
  /-- FIELD_FAILURE; `drained` that every core reached its commit within 100 ms (R431). -/
  | fieldFailure (f : Nat) (cause : FieldFault) (drained : Bool)
  /-- FIELD_REMAP, with the spares that fail their tests, and the image reads of a restore, by plan index. -/
  | fieldRemap (f : Nat) (bad : List (Nat × Nat)) (rds : List (Nat × DmaRead))
  /-- UNIT_FATAL_FAULT -/
  | unitFatalFault (cause : UnitFault)
  -- Hatband; ports N, E, S, W are 0 to 3 (Table 18-6)
  /-- PHIT_RECEIVE -/
  | phitReceive (f port : Nat) (cls : HbClass) (ws : List HbWord)
  /-- HATBAND_PACKET_ARRIVAL, the oldest of a class from field `src` to field `dst`. -/
  | hatbandPacketArrival (cls : HbClass) (src dst : Nat)
  /-- HATBAND_LINK_DOWN, with the packets in its buffers, by packet number. -/
  | hatbandLinkDown (f port : Nat) (cause : HbCause) (lost : List Nat)
  /-- HATBAND_TABLE_LOAD -/
  | hatbandTableLoad
  /-- UNIT_TIMEOUT, of the Hatband wait of pass `p`. -/
  | unitTimeout (f c p : Nat)
  /-- FABRIC_TIMEOUT, of the fabric wait of pass `p`. -/
  | fabricTimeout (f c p : Nat)
  -- brim link `l`
  /-- SEQUENCED_FLIT_RECEIVE -/
  | sequencedFlitReceive (l : Nat) (flit : Flit) (fec : Fec)
  /-- CREDIT -/
  | creditFlit (l : Nat) (flit : Arrival)
  /-- NAK -/
  | nakFlit (l : Nat) (flit : Arrival)
  /-- POISON -/
  | poisonFlit (l : Nat) (flit : Arrival)
  /-- PARAM -/
  | paramFlit (l : Nat) (flit : Arrival)
  /-- REPLAY_TIMEOUT -/
  | replayTimeout (l : Nat)
  /-- LINK_SIGNAL_DETECT -/
  | linkSignalDetect (l : Nat)
  /-- LINK_EQUALIZE_DONE -/
  | linkEqualizeDone (l : Nat)
  /-- LINK_LOCK_DONE -/
  | linkLockDone (l : Nat)
  /-- LINK_TRAINING_TIMEOUT -/
  | linkTrainingTimeout (l : Nat)
  /-- LINK_LOCK_LOSS -/
  | linkLockLoss (l : Nat)
  /-- LINK_LOST_TIMER -/
  | linkLostTimer (l : Nat)
  /-- MSG_WRITE, the oldest message delivered to this unit. -/
  | msgWrite
  /-- MSG_REDUCE_OPERAND -/
  | msgReduceOperand
  /-- MSG_WRITE_ACK -/
  | msgWriteAck
  /-- MSG_FABRIC_CONTROL -/
  | msgFabricControl
  /-- MESSAGE_HOP, the oldest message at the unit. -/
  | messageHop
  /-- NOT_READY_RESEND, of message number `id` of pass `p`. -/
  | notReadyResend (id : Nat)
  -- module link of slot `m`
  /-- BULK_FRAME_RECEIVE -/
  | bulkFrameReceive (m : Nat) (frame : BitVec 2176)
  /-- BULK_RESEND_TIMER -/
  | bulkResendTimer (m : Nat)
  /-- MODULE_LINK_DETECT -/
  | moduleLinkDetect (m : Nat)
  /-- MODULE_LINK_LOCK -/
  | moduleLinkLock (m : Nat)
  /-- MODULE_PARAMS, with what the module reports. -/
  | moduleParams (m : Nat) (gib channels rev : Nat)
  /-- MODULE_LINK_LOCK_LOSS -/
  | moduleLinkLockLoss (m : Nat)
  /-- MODULE_LINK_TIMEOUT -/
  | moduleLinkTimeout (m : Nat)
  /-- MODULE_LINK_LOST -/
  | moduleLinkLost (m : Nat)
  /-- BULK_COPY_TIMEOUT -/
  | bulkCopyTimeout (f c p : Nat)
  -- SMBus; `pec` that the packet error code holds
  /-- IDENT -/
  | smbIdent
  /-- STATE -/
  | smbState
  /-- UNIT_SENSE -/
  | smbUnitSense
  /-- SMB_STATUS -/
  | smbStatus
  /-- WAKE -/
  | smbWake (pec : Bool)
  /-- SMB_RESET, with the self-test of the start that follows. -/
  | smbReset (key : BitVec 16) (pec : Bool) (t : SelfTest)
  /-- STAGE_WRITE -/
  | stageWrite (off : Nat) (bytes : List Byte) (pec : Bool)
  /-- STAGE_READ -/
  | stageRead (off len : Nat)
  /-- SUBMIT -/
  | smbSubmit (e : Entry) (pec : Bool)
  /-- COMPLETION -/
  | smbCompletion
  /-- COMPLETION_ACK -/
  | smbCompletionAck (pec : Bool)
  /-- SMB_BUS_TIMEOUT -/
  | smbBusTimeout
  -- JTAG; the 97 boundary cells in order from TDI to TDO
  /-- EXTEST, with the cells shifted in. -/
  | extest (cells : BitVec 97)
  /-- SAMPLE_PRELOAD, with the contacts as they stand and the cells shifted in. -/
  | samplePreload (pins cells : BitVec 97)
  /-- BYPASS, by the instruction code loaded and the bit shifted in. -/
  | bypass (code : BitVec 8) (tdi : Bool)
  /-- MSIX_UNMASK -/
  | msixUnmask (port : Nat) (x : MsixChange)
  /-- LEAK_CLEAR -/
  | leakClear
  /-- VIGIL_SUPPLY_LOSS -/
  | vigilSupplyLoss
  /-- HATBAND_CREDIT_RETURN, at the sender on `port` of field `f`. -/
  | hatbandCreditReturn (f port : Nat) (cls : HbClass)
  /-- IDLE_FLIT_RECEIVE -/
  | idleFlitReceive (l : Nat) (flit : Arrival)
  /-- CREDIT_REPORT_TIMER -/
  | creditReportTimer (l : Nat)
  /-- ARM_RESERVATION_TIMEOUT -/
  | armReservationTimeout (m : MsgId)
deriving DecidableEq, Repr

end Sys2Proof
end

