-- ==== Sys2Proof/Decode.lean ====
section
/-! DEFINITION. The commands that words spell by the table's bits. Every row of the opcode table gives its command no bits: an
instruction word of a bank unit, an edge program word or an engine word is an operand of its command, which the hardware takes
at an address, so no word alone spells a command. -/

namespace Sys2Proof

/-- The command that a word spells by the table's bits: none, since no row gives a command bits. -/
def decodeTableWord (_nbits _w : Nat) : Option Instr := none

end Sys2Proof
end

