-- ==== Sys2Proof/Machine/Arith.lean ====
section
/-! DEFINITION. Rounding, saturation, SR-MIX and the number formats (chapters Numbers and Accumulation). -/

namespace Sys2Proof.Machine

/-- Two to a power, as an integer. -/
def pow2 (n : Nat) : Int := (2 ^ n : Nat)

/-- `v` in `[lo, hi]`. -/
def clampInt (lo hi v : Int) : Int := if v < lo then lo else if hi < v then hi else v

/-- The signed value of the low `n` bits of a number. -/
def sext (n c : Nat) : Int :=
  let m := c % 2 ^ n
  if n = 0 then 0 else if m < 2 ^ (n - 1) then (m : Int) else (m : Int) - pow2 n

/-- The low `n` bits of an integer. -/
def lowBits (n : Nat) (v : Int) : Nat := (v % pow2 n).toNat

/-- A bit of a number. -/
def nbit (c i : Nat) : Bool := c / 2 ^ i % 2 = 1

/-- Ceiling of a quotient. -/
def cdiv (a b : Nat) : Nat := (a + b - 1) / b

/-- R117: round(v, d, mode), mode 0 RNE, 1 SR, 2 RTZ; `w` the draw. -/
def roundShift (v : Int) (d mode w : Nat) : Int :=
  if d = 0 then v
  else if mode = 2 then v.tdiv (pow2 d)
  else if mode = 0 then
    let q := v / pow2 d
    let r := v - q * pow2 d
    if r > pow2 (d - 1) ∨ (r = pow2 (d - 1) ∧ q % 2 = 1) then q + 1 else q
  else
    let u : Int := if d ≤ 32 then ((w / 2 ^ (32 - d) : Nat) : Int) else ((w * 2 ^ (d - 32) : Nat) : Int)
    (v + u) / pow2 d

/-- One round of R120. -/
def srRound (k : BitVec 32) (x : BitVec 32 × BitVec 32 × BitVec 32 × BitVec 32) :
    BitVec 32 × BitVec 32 × BitVec 32 × BitVec 32 :=
  let x0 := x.1 + x.2.1 + k
  let x3 := (x.2.2.2 ^^^ x0).rotateLeft 16
  let x2 := x.2.2.1 + x3
  let x1 := (x.2.1 ^^^ x2).rotateLeft 12
  (x0, x1, x2, x3)

/-- R120: a draw of SR-MIX for a seed and a counter. -/
def srMix (seed : Word) (c0 c1 c2 c3 : BitVec 32) : BitVec 32 :=
  let k0 := seed.extractLsb' 0 32
  let k1 := seed.extractLsb' 32 32
  let x := srRound k1 (srRound k0 (srRound k1 (srRound k0 (c0, c1, c2, c3))))
  x.2.1 ^^^ x.2.2.2

/-- Table 5-3: the draw of a rounding event of a slot. -/
def srDraw (seed : Word) (pass event use site field core bu lane slot : Nat) : Nat :=
  (srMix seed (BitVec.ofNat 32 pass)
    (BitVec.ofNat 32 (event % 2 ^ 20 + use % 1024 * 2 ^ 20 + site * 2 ^ 30))
    (BitVec.ofNat 32 (field + core * 2 ^ 7 + bu * 2 ^ 10 + lane * 2 ^ 17 + slot * 2 ^ 21)) 0x53524D58#32).toNat

/-- The range of a slot (Table 2-7). -/
def slotMin (pair : Bool) : Int := if pair then -32768 else -2147483648
/-- The range of a slot (Table 2-7). -/
def slotMax (pair : Bool) : Int := if pair then 32767 else 2147483647

/-- R45: a value saturated to a slot's range, and whether it was clamped. -/
def saturate (pair : Bool) (v : Int) : Int × Bool :=
  let r := clampInt (slotMin pair) (slotMax pair) v
  (r, decide (r ≠ v))

/-! ### Formats -/

/-- A format word's fields (Table 2-2). -/
structure Fmt where
  code : Nat
  width : Nat
  esc : Bool
  group : Nat
  round : Nat
deriving DecidableEq, Repr

/-- Table 2-2. -/
def Fmt.ofWord (w : Nat) : Fmt := ⟨w % 16, w / 16 % 32, nbit w 9, w / 1024 % 4, w / 4096 % 4⟩

/-- A bank-side format (Table 2-1). -/
def Fmt.bank (f : Fmt) : Bool := 1 ≤ f.code && f.code ≤ 5
/-- A floating-point format. -/
def Fmt.float (f : Fmt) : Bool := 8 ≤ f.code && f.code ≤ 10
/-- The format is BIN. -/
def Fmt.isBin (f : Fmt) : Bool := f.code = 1
/-- The format is TERN. -/
def Fmt.isTern (f : Fmt) : Bool := f.code = 2
/-- The format is UINT-n. -/
def Fmt.isUint (f : Fmt) : Bool := f.code = 3
/-- The format is BSF-n. -/
def Fmt.isBsf (f : Fmt) : Bool := f.code = 5
/-- SINT-n, or the mantissas of BSF-n. -/
def Fmt.signed (f : Fmt) : Bool := f.code = 4 || f.code = 5
/-- The BSF group size. -/
def Fmt.groupSize (f : Fmt) : Nat := 32 * 2 ^ f.group

/-- R29, R30: a legal format word. -/
def fmtLegal (w : Nat) : Bool :=
  let f := Fmt.ofWord w
  w < 2 ^ 14 && (f.bank || f.float) &&
  (if f.code = 1 then f.width = 1 else if f.code = 2 then f.width = 2 else if f.code = 3 then 1 ≤ f.width && f.width ≤ 16
   else if f.bank then 2 ≤ f.width && f.width ≤ 16 else f.width = 0) &&
  (!f.esc || (f.signed && 3 ≤ f.width)) && (f.group = 0 || (f.isBsf && f.group ≤ 2)) &&
  (f.round = 0 || (!f.float && f.round ≤ 2))

/-- Bits of a value of the format: n, 16 or 32. -/
def Fmt.bits (f : Fmt) : Nat := if f.code = 10 then 32 else if f.float then 16 else f.width

/-- Ab, the bit-planes of a bank-side format (Table 2-1). -/
def Fmt.planes (f : Fmt) : Nat := f.width

/-- R34: the element-major container. -/
def containerBits (n : Nat) : Nat :=
  if n ≤ 1 then 1 else if n ≤ 2 then 2 else if n ≤ 4 then 4 else if n ≤ 8 then 8 else if n ≤ 16 then 16 else 32

/-- R39: the ESC code. -/
def Fmt.isEsc (f : Fmt) (c : Nat) : Bool := f.esc && f.signed && c % 2 ^ f.width = 2 ^ (f.width - 1)

/-- Table 2-3: the value of a code; ESC counts 0 (R39). -/
def Fmt.value (f : Fmt) (c : Nat) : Int :=
  let c := c % 2 ^ f.width
  if f.isBin then (if c = 1 then 1 else -1)
  else if f.isTern then (if c = 1 then 1 else if c = 2 then -1 else 0)
  else if f.isUint then (c : Int)
  else if f.isEsc c then 0 else sext f.width c

/-- Table 2-9: MIN of a bank-side format, as a value. -/
def Fmt.min (f : Fmt) : Int :=
  if f.isBin || f.isTern then -1 else if f.isUint then 0
  else if f.esc then -(pow2 (f.width - 1)) + 1 else -(pow2 (f.width - 1))

/-- Table 2-9: MAX of a bank-side format, as a value. -/
def Fmt.max (f : Fmt) : Int :=
  if f.isBin || f.isTern then 1 else if f.isUint then pow2 f.width - 1 else pow2 (f.width - 1) - 1

/-- The canonical code of a value in the format's range. -/
def Fmt.code_ (f : Fmt) (v : Int) : Nat :=
  if f.isBin then (if v < 0 then 0 else 1)
  else if f.isTern then (if v = 0 then 0 else if v < 0 then 2 else 1)
  else lowBits f.width v

/-- Table 2-9: ZERO, MIN, MAX or the literal by pad kind (R50), as a code. -/
def Fmt.pad (f : Fmt) (kind lit : Nat) : Nat :=
  if kind = 3 then (if f.code = 10 then lit * 65536 else lit)
  else if f.code = 8 then (if kind = 0 then 0 else if kind = 1 then 0xFC00 else 0x7C00)
  else if f.code = 9 then (if kind = 0 then 0 else if kind = 1 then 0xFF80 else 0x7F80)
  else if f.code = 10 then (if kind = 0 then 0 else if kind = 1 then 0xFF800000 else 0x7F800000)
  else if kind = 0 then 0 else if kind = 1 then f.code_ f.min else f.code_ f.max

/-- R465: a writable code. -/
def Fmt.writable (f : Fmt) (c : Nat) : Bool :=
  if f.float then c < 2 ^ f.bits else c < 2 ^ f.width && !(f.isTern && c = 3) && !f.isEsc c

/-- R34: a code as it is written to its container: sign-extended for SINT and BSF, zero-extended otherwise. -/
def Fmt.contain (f : Fmt) (c : Nat) : Nat :=
  let b := containerBits f.bits
  if f.signed then lowBits b (sext f.width c) else c % 2 ^ b

/-- Table 3-1: the stationary signed width. -/
def Fmt.wb (f : Fmt) : Nat := if f.isBin || f.isTern then 2 else if f.isUint then f.width + 1 else f.width

/-- Table 3-2: the bias multiplier. -/
def Fmt.beta (f : Fmt) : Int :=
  if f.isBin || f.isTern then 0 else if f.isUint then pow2 f.width - 1 else -1

/-- Table 3-2: the table factor. -/
def Fmt.factor (f : Fmt) : Int := if f.isBin then 0 else 1

/-- R55: the bit of plane `p` of a code, as broadcast with the inversions of R54; `none` is code 0. -/
def Fmt.planeBit (f : Fmt) (c : Option Nat) (p : Nat) : Bool :=
  let c := match c with | some c => if f.isEsc c then 0 else c | none => 0
  let b := nbit c p
  if (f.signed && p + 1 = f.width) || (f.isTern && p = 1) then !b else b

/-- R60: the entry-width rule, `e` in bits. -/
def entryWidthOk (g e wb : Nat) : Bool :=
  (g = 1 && wb ≤ e) || (g = 2 && wb + 1 ≤ e) || ((g = 3 || g = 4) && wb + 2 ≤ e)

/-- R63: lanes of a table row. -/
def lanesOf (g e : Nat) : Nat := Min.min 16 (512 / (2 ^ (g - 1) * e))

end Sys2Proof.Machine
end

