-- ==== Sys2Proof/Machine/Operands.lean ====
section
/-! DEFINITION. The instruction formats of a bank unit (R83, R466): fields, the bits each opcode uses, and the limits that do
not depend on a group's state. -/

namespace Sys2Proof.Machine

/-- ins.op. -/
def insOp (w : Word) : Nat := fld w 58 6
/-- ins.h. -/
def insH (w : Word) : Bool := bit w 57
/-- Format A: ins.pd, also PPOP's scalar. -/
def insPd (w : Word) : Nat := fld w 53 4
def insPaA (w : Word) : Nat := fld w 49 4
def insPb (w : Word) : Nat := fld w 45 4
def insRm (w : Word) : Nat := fld w 43 2
/-- The linear row: side and row, in formats A and B and the source of format D. -/
def insRow (w : Word) : Nat := fld w 31 12
def insPp (w : Word) : Nat := fld w 27 4
def insPe (w : Word) : Bool := bit w 26
def insCy (w : Word) : Nat := fld w 24 2
def insImm8 (w : Word) : Nat := fld w 16 8
def insImm16 (w : Word) : Nat := fld w 0 16
/-- Format B. -/
def insGrpB (w : Word) : Nat := fld w 54 3
def insSlot (w : Word) : Nat := fld w 48 6
def insSh (w : Word) : Bool := bit w 47
/-- G. -/
def insG (w : Word) : Nat := fld w 45 2 + 1
/-- e in bits. -/
def insE (w : Word) : Nat := 4 * 2 ^ fld w 43 2
def insPaB (w : Word) : Nat := fld w 27 4
def insX (w : Word) : Nat := fld w 23 4
def insMode (w : Word) : Nat := fld w 17 6
def insLm (w : Word) : Bool := bit w 16
/-- Format C. -/
def insGrpC (w : Word) : Nat := fld w 55 3
def insSd (w : Word) : Nat := fld w 52 3
def insImm32 (w : Word) : Nat := fld w 0 32
/-- Format D: the destination's linear row. -/
def insDrow (w : Word) : Nat := fld w 19 12

/-- A mask of `len` bits from `lo`. -/
def msk (lo len : Nat) : Word := BitVec.ofNat 64 ((2 ^ len - 1) * 2 ^ lo)

/-- Table 4-8a: the bits that an opcode uses, none for a reserved opcode. -/
def usedBits (op : Nat) : Option Word :=
  let o := msk 58 6
  let h := msk 57 1
  let row := msk 31 12
  let aRow := msk 43 2 ||| row
  let pred := msk 26 5
  let pd := msk 53 4
  let pa := msk 49 4
  let pb := msk 45 4
  let gs := msk 48 9
  let ge := msk 43 4
  match op with
  | 0x00 | 0x20 => some o
  | 0x01 | 0x06 => some (o ||| h ||| pd ||| pa ||| pb ||| aRow ||| pred ||| msk 16 4)
  | 0x02 | 0x03 => some (o ||| h ||| pd ||| pa ||| pb ||| aRow ||| pred ||| msk 24 2)
  | 0x04 => some (o ||| pa ||| pb ||| aRow ||| msk 24 2 ||| msk 16 1)
  | 0x05 => some (o ||| h ||| pd ||| aRow ||| pred ||| msk 16 2)
  | 0x07 => some (o ||| h ||| pd ||| pa ||| aRow ||| pred ||| msk 16 8 ||| msk 0 2)
  | 0x08 => some (o ||| pd ||| pa ||| pred ||| msk 16 1)
  | 0x09 => some (o ||| h ||| row ||| msk 19 12)
  | 0x0A => some (o ||| pd)
  | 0x10 => some (o ||| gs ||| msk 47 1 ||| ge ||| row ||| msk 23 4 ||| msk 16 1)
  | 0x11 => some (o ||| gs ||| ge ||| row ||| msk 27 4 ||| msk 16 1)
  | 0x12 => some (o ||| gs ||| msk 47 1 ||| row ||| msk 0 23)
  | 0x13 => some (o ||| gs ||| ge ||| row ||| msk 27 4 ||| msk 0 27)
  | 0x14 => some (o ||| gs ||| row ||| msk 17 2 ||| msk 0 17)
  | 0x15 => some (o ||| gs ||| row ||| msk 17 1 ||| msk 0 17)
  | 0x16 => some (o ||| h ||| ge ||| row ||| msk 27 4 ||| msk 16 2)
  | 0x21 => some (o ||| msk 55 3 ||| msk 0 16)
  | 0x22 => some (o ||| msk 55 3)
  | 0x23 => some (o ||| msk 55 3 ||| msk 0 13)
  | 0x24 | 0x25 => some (o ||| msk 52 3 ||| msk 0 32)
  | _ => none

/-- R96: the parameters of a GOPEN. -/
def goBase (w : Word) : Nat := fld w 0 5
def goCount (w : Word) : Nat := fld w 5 7
def goPair (w : Word) : Bool := bit w 12
def goMsb (w : Word) : Bool := bit w 13
def goSr (w : Word) : Bool := bit w 14
def goProv (w : Word) : Bool := bit w 15

/-- R96: word-rows of a group. -/
def groupRows (count : Nat) (pair : Bool) : Nat := if pair then cdiv count 2 else count

/-- R97: the slots of a DRAIN. -/
def drFirst (w : Word) : Nat := fld w 0 6
def drCount (w : Word) : Nat := fld w 6 7

/-- Table 4-8a: the limits on an opcode's fields that hold whatever the group. -/
def limitsOk (w : Word) : Bool :=
  match insOp w with
  | 0x02 | 0x03 => insCy w ≠ 3
  | 0x04 => insRm w ≤ 1 && insCy w ≠ 3
  | 0x05 | 0x07 => insRm w = 0 || insRm w = 2
  | 0x08 => insPd w < 8
  | 0x10 => insX w < 2 ^ insG w
  | 0x13 => let a := insImm16 w % 32
            insImm16 w / 32 ≤ insRow w % 2048 && 2 ≤ a && a ≤ 16 && insPaB w + a ≤ 16
  | 0x16 => insPaB w + insG w ≤ 16
  | 0x21 => let m := goCount w
            1 ≤ m && m ≤ (if goPair w then 64 else 32) && goBase w + groupRows m (goPair w) ≤ 32
  | 0x23 => 1 ≤ drCount w && drCount w ≤ 64
  | _ => true

/-- R102: a word that is valid whatever the state: a known opcode, no reserved bit, every limit kept. -/
def wordOk (w : Word) : Bool :=
  match usedBits (insOp w) with
  | none => false
  | some m => w &&& ~~~m = 0 && limitsOk w

/-- R102: valid in a PLANE microprogram. -/
def microOk (w : Word) : Bool := wordOk w && insOp w ≠ 0x11 && insOp w ≠ 0x0A && !(insH w && (insOp w < 0x10 || insOp w = 0x16))

/-- R102: valid at a command address. -/
def commandOk (w : Word) : Bool := microOk w && insOp w ≠ 0x23

/-- The instruction writes a row. -/
def writesRow (w : Word) : Option Nat :=
  match insOp w with
  | 0x01 | 0x02 | 0x03 | 0x05 | 0x06 | 0x07 => if 2 ≤ insRm w then some (insRow w) else none
  | 0x09 => some (insDrow w)
  | 0x16 => some (insRow w)
  | _ => none

/-- Table 4-8: the cost of an instruction in FCK cycles. -/
def insCost (w : Word) : Nat :=
  match insOp w with
  | 0x01 | 0x02 | 0x03 | 0x06 => if insRm w = 3 then 2 else 1
  | 0x08 | 0x09 | 0x13 => 2
  | 0x16 => 2 ^ (insG w - 1) + 1
  | _ => 1

/-- A word from its opcode and fields, each a value and its lowest bit. -/
def mkWord (op : Nat) (fs : List (Nat × Nat)) : Word :=
  BitVec.ofNat 64 (op * 2 ^ 58 + (fs.map fun p => p.1 * 2 ^ p.2).sum)

end Sys2Proof.Machine
end

