-- ==== Sys2Proof/Config.lean ====
section
/-! DEFINITION. What an implementation fixes and the spec leaves open: constants without a body, so that nothing can
be proved about their values. Each has a row in the assumption log. -/

namespace Sys2Proof.Config

/-- The contents of a word that the spec calls unspecified (R310, R326): by the number of the event that made it so
and by the word's address. Log entry 3. -/
opaque freeWord : Nat → Nat → BitVec 64

/-- A fresh unspecified value, by the counter `freeCtr` of the state (R220, R339). Log entry 3. -/
opaque freeVal : Nat → BitVec 64

/-- What a (72,64) code makes of a stored word with three or more inverted bits, which R75 does not say: the finding (0 no
error, 1 correctable, else uncorrectable) and the word read. Log entry 12. -/
opaque beyondCode : BitVec 64 → BitVec 64 → Nat × BitVec 64

/-- What a word of accumulator memory holds after a GCLOSE, and after its core left run, until a GOPEN clears it (R104, R106): by
event and word. Log entry 3. -/
opaque freeSlot : Nat → Nat → BitVec 64

/-- The event number of an order step in a PLANE microprogram, where no virtual plane is named (R119): by the pass's index and the
number of words of the pass fetched before it. Log entry 13. -/
opaque planeEvent : Nat → Nat → Nat

/-- The SHIFT of a stationary BSF group of a BU's tile: field, core, BU, pass, group. The spec names no place where a
loaded plan keeps it (R116). Log entry 14. -/
opaque statShift : Nat → Nat → Nat → Nat → Nat → Nat

/-- The four boot keys fixed in the boot ROM, x and y (R401). Log entry 7. -/
opaque bootKey : Nat → Nat × Nat

/-- What the two firmware slots hold on a unit as shipped, by slot and byte (R401). Log entry 7. -/
opaque flashByte : Nat → Nat → BitVec 8

/-- The unit serial number of the Device Serial Number capability (R327). Log entry 15. -/
opaque serial : BitVec 64

/-- The FP32 result of an edge operation that the spec states no result for: a division by zero, Inf ÷ Inf, the logarithm of
zero; by operation and operands a, b (R215, R216). Log entry 16. -/
opaque edgeValue : Nat → BitVec 32 → BitVec 32 → BitVec 32

/-- The sign of an edge operation's zero result where the spec states none: an exact cancellation, a sum of zeros of both
signs, a function of −0; by operation and operands a, b. Log entry 16. -/
opaque edgeZero : Nat → BitVec 32 → BitVec 32 → Bool

/-- The fabric job tag to which a job is bound, by its handle: the spec does not say how a tag is chosen (R249, R250). Log entry
17. -/
opaque jobTag : BitVec 64 → BitVec 32

/-- Whether cfg.r and cfg.s sign a configuration under a key: Table 17-3 does not say which bytes they sign. Log entry 19. -/
opaque cfgSigned : List (BitVec 8) → Nat × Nat → Bool

/-- The tag and payload of a command frame on a module link, whose layout is internal to the unit and the buffer chip (R258). Log
entry 20. -/
opaque frameTag : Nat → BitVec 16
opaque framePayload : Nat → BitVec 2048

/-- Whether the payload of a control frame from a module is a NAK (R258, R259). Log entry 20. -/
opaque frameIsNak : BitVec 2048 → Bool

end Sys2Proof.Config
end

