-- ==== Sys2Proof/Machine/Sparse.lean ====
section
/-! DEFINITION. Operations on sparse data: association lists with strictly rising keys. Every operation keeps that form; `set`
removes an entry that holds what an unlisted key reads as. -/

namespace Sys2Proof.Sparse

variable {α : Type}

/-- The entry at a key. -/
def find : Sparse α → Nat → Option α
  | [], _ => none
  | (j, v) :: m, k => if k = j then some v else find m k

/-- Removes a key's entry. -/
def del (m : Sparse α) (k : Nat) : Sparse α := m.filter fun p => p.1 ≠ k

/-- Puts an entry in order where its key has none. -/
def ins : Sparse α → Nat → α → Sparse α
  | [], k, v => [(k, v)]
  | (j, w) :: m, k, v => if k < j then (k, v) :: (j, w) :: m else (j, w) :: ins m k v

/-- Puts an entry in order, in place of the key's own. -/
def put (m : Sparse α) (k : Nat) (v : α) : Sparse α := ins (del m k) k v

/-- What a key reads as, `d` where it is not listed. -/
def get (d : α) (m : Sparse α) (k : Nat) : α := (find m k).getD d

/-- Writes a key; an entry equal to `d` is removed. -/
def set [DecidableEq α] (d : α) (m : Sparse α) (k : Nat) (v : α) : Sparse α := if v = d then del m k else put m k v

/-- Changes what a key holds. -/
def upd [DecidableEq α] (d : α) (m : Sparse α) (k : Nat) (f : α → α) : Sparse α := set d m k (f (get d m k))

/-- Strictly rising keys, all above `lo`. -/
def sortedFrom : Nat → Sparse α → Bool
  | _, [] => true
  | lo, (j, _) :: m => decide (lo < j) && sortedFrom j m

/-- Strictly rising keys. -/
def sorted : Sparse α → Bool
  | [] => true
  | (j, _) :: m => sortedFrom j m

end Sys2Proof.Sparse
end

