-- ==== Sys2Proof/Machine/Parts.lean ====
section
/-! DEFINITION. The parts of the unit's state: one structure for each kind of part that the spec names, with the value it
holds at reset as its default. -/

namespace Sys2Proof.Machine

/-! ### Stored words (R75, R419) -/

/-- A 64-bit word as a bank, the commons or a bulk module stores it: its data bits, the data that its check bits stand for
(the two differ where bits were inverted), and its poison marker (R75). -/
structure Stored where
  data : Word := 0
  good : Word := 0
  poison : Bool := false
deriving DecidableEq, Repr

/-- What the words of a range hold as a whole after an event. -/
inductive Fill where
  | zero
  | poisonZero
  | unspecified (epoch : Nat)
deriving DecidableEq, Repr

/-- A range of words, by number (unit address ÷ 8), and in banks by linear row. -/
structure Region where
  lo : Nat
  hi : Nat
  rlo : Nat := 0
  rhi : Nat := 4096
  fill : Fill
deriving DecidableEq, Repr

/-- The unit address space (R27): the words that differ from what their range holds as a whole, and those ranges, the newest
first. -/
structure Memory where
  cells : Sparse Stored := []
  regions : List Region := []
deriving DecidableEq, Repr

/-! ### Bank units (R79) -/

/-- A plane register, or the C or Z plane: 512 bits and 8 poison flags (R78). -/
structure Plane where
  bits : Row := 0
  poison : BitVec 8 := 0
deriving DecidableEq, Repr

/-- A row with its poison flags. -/
structure RowData where
  bits : Row := 0
  poison : BitVec 8 := 0
deriving DecidableEq, Repr

/-- A scalar register and its poison flag. -/
structure Scalar where
  val : BitVec 32 := 0
  poison : Bool := false
deriving DecidableEq, Repr

/-- A word of accumulator memory: its bits, what its check bits stand for, and 2 SAT bits and 2 poison flags, of which
INT32 uses the first (R80, R81). -/
structure AccWord where
  data : BitVec 32 := 0
  good : BitVec 32 := 0
  sat : BitVec 2 := 0
  poison : BitVec 2 := 0
deriving DecidableEq, Repr

/-- A group register (R96). `opener` is the pass run that opened it (none: host words), `prior` the word-rows of the GOPENs
of that pass run issued before (R119: base word-row, slots, representation), `csel` the kind of CSEL its words carry: 0 none, 1 maximum, 2 minimum (R123). -/
structure Group where
  isOpen : Bool := false
  base : Nat := 0
  count : Nat := 0
  pair : Bool := false
  msb : Bool := false
  sr : Bool := false
  prov : Bool := false
  csel : Nat := 0
  opener : Option Nat := none
  prior : List (Nat × Nat × Bool) := []
deriving DecidableEq, Repr

/-- A window access waiting at a BU (R100): a piece of at most 64 bytes in one row. -/
structure WinAcc where
  port : Nat
  write : Bool
  row : Nat
  byte : Nat
  bytes : List (Option Byte) := []
  len : Nat := 0
  ep : Bool := false
  /-- The request it belongs to. -/
  req : Nat := 0
deriving DecidableEq, Repr

/-- A bank unit's state beside its banks (Table 4-2). -/
structure Bu where
  /-- Groups that have closed in this BU: their word-rows hold unspecified values (R104). -/
  closes : Nat := 0
  planes : Sparse Plane := []
  c : Plane := {}
  z : Plane := {}
  /-- What unlisted plane and scalar registers hold: 0, or unspecified since this event of this BU (R106). -/
  epoch : Option Nat := none
  scalars : Sparse Scalar := []
  acc : Sparse AccWord := []
  /-- Word-rows that hold unspecified values where `acc` lists nothing, each since its event (R104, R106). -/
  stale : Sparse Nat := []
  groups : Sparse Group := []
  opens : List (Nat × Nat × Bool) := []
  opensOf : Option Nat := none
  settled : BitVec 16 := 0
  executed : BitVec 32 := 0
  invalidSeen : Bool := false
  queue : List WinAcc := []
  /-- Words read correctable and waiting for write-back (R76): word address and the word as read. -/
  scrub : List (Nat × Stored) := []
  /-- Times and rows of uncorrectable words found (R426). -/
  uncRows : List (Nat × Nat) := []
  /-- Distance of the physical number from the logical one: 0 not replaced, else 1 + spare index (R427). -/
  spare : Nat := 0
  failed : Option BuFault := none
deriving DecidableEq, Repr

/-! ### Cores (Table 8-1) -/

/-- An entry of the held-write buffer (R191): a linear row, the pass run that wrote it, and the rows of the BUs. -/
structure HeldEntry where
  row : Nat
  serial : Nat
  data : Sparse RowData := []
deriving DecidableEq, Repr

/-- A fault of a pass: the status code, the detail bytes 36 to 63 of its record, and core, BU it names (R196). -/
structure PassFault where
  code : Nat
  detail : List Byte := []
  bu : Option Nat := none
  /-- The part that its record names (Table 18-2). -/
  part : Nat := 11
deriving DecidableEq, Repr

/-- A step of a pass's instruction stream. -/
inductive Todo where
  /-- A word with its event number, its payload and the poison of its broadcast bits, issued to every BU. -/
  | word (w : Word) (event : Nat) (payload : Option RowData) (xp : Bool)
  /-- A preload of one half of an INT16-pair word: slot offset, row of a row form, ins.mode and ins.imm16 (R93, R109). -/
  | half (slot row mode imm event : Nat)
  /-- A LOOKUPS of a card: card, window and row (R137); `live` marks the groups of the window that take part (R113). -/
  | sparse (w : Word) (card win row live : Nat)
  /-- Decode cycles of a card's window in each BU (R143, R144). -/
  | decode (n : Nat)
  /-- An ESCMAC: each BU takes h from its own entry, by the streaming group (of `size` elements) that holds it (R116); `only` the
  lane-set whose outputs it resolves, none for all. -/
  | escape (w : Word) (size : Nat) (hs : List Int) (only : Option Nat)
  /-- A streaming side-list entry of a vector: its number, element, VALUE, poison, slot block and exponent s − X (R168), and the
  lane-set whose outputs it corrects, none for all. -/
  | correct (no elt : Nat) (value : Int) (poison : Bool) (block : Nat) (sx : Int) (only : Option Nat)
  /-- The settle test after the last lookup of a virtual plane in a slot block (R204). -/
  | settle (v block : Nat)
  /-- The settle flags clear (R206). -/
  | unsettle
  /-- Everything to here is skipped when the core has settled (R207). -/
  | planesEnd
  /-- Checks the plane-0 bias values in this row (R203). -/
  | biasCheck (row : Nat)
  /-- Hands the slots of a vector to the drain path (R162). -/
  | drain (vec : Nat)
  /-- Hands the slots of one card of a vector to the drain path (R139, R162): the lane-sets, and whether they are the vector's
  last. -/
  | drainCard (vec : Nat) (sets : List Nat) (last : Bool)
  /-- A microprogram's DRAIN word. -/
  | drainWord (w : Word)
  /-- A microprogram word that fails its check (R183). -/
  | invalid (w : Word)
  /-- Closes the pass's group. -/
  | close
deriving DecidableEq, Repr

/-- One output taken from a slot: its value, flags and the draw coordinates of its slot (R119). -/
structure Output where
  val : Int
  sat : Bool := false
  poison : Bool := false
  bu : Nat
  lane : Nat
  slot : Nat
  use : Nat := 0
  /-- Output number within the BU's tile. -/
  out : Nat
  idx : Option Nat := none
  idxPoison : Bool := false
  masked : Bool := false
  /-- Its group is INT16-pair. -/
  pair : Bool := false
deriving DecidableEq, Repr

/-- A DRAIN that the drain path is taking (R97): the word-rows still to take and the first of them, the outputs taken, its vector, and
its place in the order in which the DRAINs of the field's cores arrived at the fulling unit (R148). -/
structure DrainTask where
  serial : Nat
  vec : Nat
  align : Int := 0
  /-- The group register whose slots it takes. -/
  grp : Nat := 0
  rows : Nat
  row : Nat := 0
  arrival : Nat := 0
  outs : List Output := []
  /-- The last drain of its tile. -/
  last : Bool := true
deriving DecidableEq, Repr

/-- Where a pass's lantern request stands (R386, R195). -/
inductive LanternReq where
  | none
  | asked
  | row
  | wafer
  | granted
deriving DecidableEq, Repr

/-- A pass in the run-ahead window (R184). -/
structure WinPass where
  serial : Nat
  idx : Nat
  desc : Desc
  job : Word
  /-- The handle that records name: the job's, or the stream's of a tick. -/
  named : Nat := 0
  plan : Nat
  lantern : LanternReq := .none
  /-- Lanterns lent to it beyond the standing allowance. -/
  lent : Nat := 0
  started : Bool := false
  skipped : Bool := false
  issued : Bool := false
  predicted : Option Nat := none
  /-- A ROUTE's word once it is read. -/
  resolved : Option Nat := none
  /-- Its node results and operands are done (REDUCE), its transfer or posting is done (MOVE, EDGE). -/
  done : Bool := false
  fault : Option PassFault := none
  /-- The instructions still to issue; deferred drains are the rest of an issued pass (R193). -/
  todo : List Todo := []
  /-- Every BU reports settled (R207). -/
  atSettle : Bool := false
  /-- The output mask as a number (R165). -/
  mask : Nat := 0
  /-- The alignment exponent M of each vector (R113). -/
  align : List Int := []
  status : BitVec 16 := 0
  /-- Outputs of earlier DRAINs of a tile not yet formed, by vector. -/
  tile : Sparse (List Output) := []
  /-- Its masks select no reduction element: every output is padding (R166). -/
  noElement : Bool := false
  /-- It waits for a held-write entry (R201). -/
  stalled : Bool := false
  /-- It waits for slots that a DRAIN has not taken (R105). -/
  waits : Bool := false
  /-- The vector whose output passed its region while the pass was speculative (R180, R196). -/
  spill : Option Nat := none
  /-- Side-list overflow entries, for R150. -/
  overflow : Nat := 0
  /-- Fabric messages it sent (R249). -/
  msgs : List Nat := []
  /-- Engine words still to send (R273). -/
  words : List Word := []
  /-- When it asked for its lanterns. -/
  asked : Nat := 0
  /-- The pairing round that a REDUCE has reached (R126). -/
  round : Nat := 0
  waitUs : Nat := 0
deriving DecidableEq, Repr

/-- A power level (Table 16-3). -/
inductive Level where
  | off
  | retain
  | run
deriving DecidableEq, Repr

/-- A command word waiting in a core's FIFO: the port that sent it, its target and the word (R345). -/
structure CmdWord where
  port : Nat
  bu : Option Nat
  w : Word
deriving DecidableEq, Repr

/-- A core: its sequencer and its power (R378, R183 to R201). -/
structure Core where
  level : Level := .off
  /-- The level it is changing to (R379). -/
  waking : Bool := false
  /-- Passes to fetch, of the job or tick with this handle (R153). -/
  run : List (Word × Nat) := []
  window : List WinPass := []
  held : List HeldEntry := []
  /-- Route predictor: pass index and word, the most recently written first (R197). -/
  predictor : List (Nat × Nat) := []
  /-- Words that ROUTE passes of the run resolved to, by pass index (R158). -/
  routed : List (Nat × Nat) := []
  drains : List DrainTask := []
  /-- Closed groups whose word-rows a DRAIN still takes: group register and pass run (R105). -/
  closing : List (Nat × Nat) := []
  fifo : List CmdWord := []
  serials : Nat := 0
  /-- Alignment exponents of vectors of open groups, by group register × 65,536 + vector (R467). -/
  aligns : Sparse Int := []
  /-- Lanes of the tiles in open groups, by group register: L of the pass that opened it, 16 unless listed. -/
  lanesOf : Sparse Nat := []
  /-- Command mode, window mode or a cadence stream holds it at run (R381, R346, R364). -/
  pinnedBy : List Nat := []
  allowance : Nat := 2
  /-- The spare BUs, 1 to 4, that took a BU's number or failed a test (R404, R427). -/
  spares : List Nat := []
  /-- Fetch is stopped for a replacement (R427). -/
  stopped : Bool := false
deriving DecidableEq, Repr

end Sys2Proof.Machine
end

