-- ==== Sys2Proof/Machine/Units.lean ====
section
/-! DEFINITION. The remaining parts of the unit's state: fields, edge units, ports, queues, messages, plans, jobs, streams,
power, links, bulk slots, SMBus and JTAG. -/

namespace Sys2Proof.Machine

/-! ### Fields -/

/-- The health of a logical field (R430 to R433). -/
inductive Health where
  | healthy
  /-- Declared failed and waiting for its remap; `readable` that its state can be copied (R431). -/
  | failed (cause : FieldFault) (readable : Bool)
  | lost
deriving DecidableEq, Repr

/-- A Hatband port of a field (R226 to R235): its link's state, the free credits its sender holds and the phits its receiver
buffers, per class C, D, A, and the times of its uncorrectable words. -/
structure HbPort where
  up : Bool := true
  credC : Nat := 16
  credD : Nat := 16
  credA : Nat := 16
  bufC : Nat := 0
  bufD : Nat := 0
  bufA : Nat := 0
  uncTimes : List Nat := []
  /-- The input that its output served last, per class: a port N, E, S, W, or 4 the field itself (R234). -/
  servedC : Nat := 4
  servedD : Nat := 4
  servedA : Nat := 4
deriving DecidableEq, Repr

/-- A logical field (R22, R378, R318, R386, R394). `phys` is none while the field is where the start placed it. -/
structure Field where
  phys : Option (Nat × Nat) := none
  health : Health := .healthy
  service : Level := .run
  serviceWaking : Bool := false
  /-- The queue that set command mode (R318). -/
  cmdMode : Option Nat := none
  /-- Command mode ends once its command words have executed (R350). -/
  cmdEnding : Bool := false
  /-- Lanterns lent into the field allowance, held by grants, and reserved by streams. -/
  lent : Nat := 0
  heldL : Nat := 0
  reserved : Nat := 0
  /-- The last junction temperature reported, in 1/16 degree. -/
  temp : Int := 0
  /-- Its Hatband ports N, E, S, W (0 to 3). -/
  ports : Sparse HbPort := []
  /-- A regulator's last output in mV, none before the first report. -/
  regMv : Option Nat := none
  /-- Tested by DIAG_RUN. -/
  diag : Bool := false
deriving DecidableEq, Repr

/-- An element of an edge register (R217). -/
structure EdgeElt where
  bits : BitVec 32 := 0
  poison : Bool := false
deriving DecidableEq, Repr

/-- An edge unit (R210 to R224): V0 to V15 of 4,096 elements (key register × 4,096 + element), the postings queue, and the
run of the first posting. -/
structure Edge where
  level : Level := .retain
  waking : Bool := false
  v : Sparse EdgeElt := []
  /-- What unlisted elements hold: 0, or unspecified since this event (R220). -/
  epoch : Option Nat := none
  /-- Posted passes: core and pass run (R222). -/
  postings : List (Nat × Nat) := []
  pinnedBy : List Nat := []
deriving DecidableEq, Repr

/-! ### Faults and counters -/

/-- A counter (R423): value, overflow bit, and for _CORRECTED counters the time of the last CORRECTED record (R416). -/
structure Counter where
  val : Nat := 0
  ovf : Bool := false
  last : Option Nat := none
deriving DecidableEq, Repr

/-- The fault log (R323, R418): the records held, oldest first, each with whether it has been read, and the next sequence
number. -/
structure FaultLog where
  recs : List (BitVec 512 × Bool) := []
  next : Nat := 0
deriving DecidableEq, Repr

/-! ### Outputs -/

/-- What the unit sends out (log entry 5). -/
inductive Out where
  /-- A posted write into host memory through a port: address, bytes, EP, Relaxed Ordering (R331, R343). -/
  | dma (port addr : Nat) (bytes : List Byte) (ep relaxed : Bool)
  /-- An MSI-X vector (R348). -/
  | msix (port vector : Nat)
  /-- A completion with data: port, tag, bytes, EP. -/
  | cpl (port tag : Nat) (bytes : List Byte) (ep : Bool)
  /-- An Unsupported Request. -/
  | unsupported (port tag : Nat)
  /-- A Completer Abort. -/
  | abort (port tag : Nat)
  /-- A flit on a brim link. -/
  | flit (link : Nat) (f : Flit)
  /-- A data byte string returned on SMBus. -/
  | smbus (bytes : List Byte)
  /-- A command refused on SMBus. -/
  | nak
  /-- The cells shifted out of the boundary register, or the bypass bit. -/
  | jtag (cells : BitVec 97)
  | bypass (tdo : Bool)
  /-- A contact driven low under EXTEST. -/
  | contacts (cells : BitVec 97)
  /-- A frame on a module link (R258): its sequenced contents are internal. -/
  | frame (slot : Nat) (f : BitVec 2176)
deriving DecidableEq, Repr

/-! ### Host ports (chapter Host ports) -/

/-- A window read in progress (R339, R340): the pieces that are still awaited. -/
structure WinReq where
  id : Nat
  port : Nat
  tag : Nat
  /-- Unit byte address, length, and pieces still to come. -/
  addr : Nat
  len : Nat
  waiting : Nat
  /-- Bytes and poison of the pieces served, by unit address. -/
  got : List (Nat × List Byte × Bool) := []
  /-- The posted writes before it that have not landed (R340). -/
  behind : List Nat := []
deriving DecidableEq, Repr

/-- A window access that PCI Express flow control holds at its port (R345, R347): its unit address, and a read's length and tag or a
write's bytes and EP. -/
structure HostAcc where
  write : Bool
  addr : Nat
  len : Nat := 0
  tag : Nat := 0
  bytes : List (Option Byte) := []
  ep : Bool := false
deriving DecidableEq, Repr

/-- What the host programs in a port's configuration space (R328, R330): payload and read request sizes in bytes, the completion timeout in
µs, ASPM L1, ECRC, and the error reporting registers with the header log. No command of the table writes it; PRESUMED values of the PCI
Express specification at reset (log entry 110). -/
structure PortConf where
  maxPayload : Nat := 128
  maxRead : Nat := 512
  timeoutUs : Nat := 50000
  aspmL1 : Bool := false
  ecrcGen : Bool := false
  ecrcCheck : Bool := false
  uncorrectable : BitVec 32 := 0
  correctable : BitVec 32 := 0
  headerLog : BitVec 128 := 0
deriving DecidableEq, Repr

/-- A host port (Table 14-4, R348, R349). -/
structure Port where
  width : Nat := 16
  speed : Nat := 5
  d3 : Bool := false
  /-- It answers configuration requests with Retry Status (R400). -/
  crs : Bool := false
  eventCause : Word := 0
  eventMask : Word := 0xFFFFFFFFFFFFFFFF
  sqBase : Word := 0
  cqBase : Word := 0
  sqLog2 : Nat := 0
  cqLog2 : Nat := 0
  enable : Bool := false
  err : Bool := false
  bar2 : Word := 0
  timeLatch : BitVec 32 := 0
  msixEnable : Bool := false
  funcMask : Bool := false
  /-- Table entries by vector: 16 bytes, address, data and vector control (bit 0 of [127:96] the mask, set at reset). -/
  msixTable : Sparse (BitVec 128) := []
  /-- Pending bits. -/
  msixPending : List Nat := []
  /-- Writes that wait for D0 (R332). -/
  held : List Out := []
  /-- Window accesses that flow control holds, oldest first. -/
  stalled : List HostAcc := []
  conf : PortConf := {}
deriving DecidableEq, Repr

/-! ### The Milliner (chapters The Milliner and Message reference) -/

/-- The state of a queue pair (R280). -/
inductive QState where
  | uncreated
  | active
  | halted
deriving DecidableEq, Repr

/-- A queue pair (R280, R289, R299). `gen` is its handle's generation; `laps` counts how often W wrapped the CQ. -/
structure Queue where
  st : QState := .uncreated
  gen : Nat := 0
  sqBase : Nat := 0
  cqBase : Nat := 0
  sqLog2 : Nat := 0
  cqLog2 : Nat := 0
  h : Nat := 0
  t : Nat := 0
  w : Nat := 0
  r : Nat := 0
  phase : Bool := true
  m : Nat := 1
  tau : Nat := 0
  unsignalled : Nat := 0
  reserved : Nat := 0
  /-- Wraps of the SQ counter since the pair was created (R312). -/
  wraps : Nat := 0
  /-- The arrival times of its available entries, by counter (R292). -/
  stamps : List (Nat × Nat) := []
  /-- Its QUEUE_DELETE or teardown waits for fetched entries. -/
  deleting : Bool := false
  /-- Entries written and not yet released, for a takeover (R277): slot and bytes. -/
  written : List (Nat × BitVec 256) := []
deriving DecidableEq, Repr

/-- A fetched message not yet completed (R283, R292). -/
structure Msg where
  id : MsgId
  time : Nat
  rank : Nat
  entry : Entry
  /-- Completion slots reserved (R291). -/
  slots : Nat
  /-- Applied, its completion still to come. -/
  applied : Bool := false
  /-- Its handle named a live resource when it was decoded (R294). -/
  live : Bool := false
deriving DecidableEq, Repr

/-- A plan's windows and lists in one field (R174, R177). -/
structure PlanField where
  field : Nat
  rowBase : Nat
  rows : Nat
  comBase : Nat
  comLen : Nat
  done : Nat
  /-- Passes in the field's list. -/
  passes : Nat
  /-- Per core: first pass and count. -/
  cores : List (Nat × Nat)
  /-- Per segment and core: first pass index within the sublist and count. -/
  segs : List (List (Nat × Nat))
  /-- Its pass list as loaded. -/
  descs : List Desc := []
deriving DecidableEq, Repr

/-- A segment (R172). -/
structure Segment where
  inLen : Nat
  outLen : Nat
  inField : Nat
  inOff : Nat
  /-- It drains to ring indices 1 to 63 (R353). -/
  cadence : Bool := false
deriving DecidableEq, Repr

/-- An Almanac entry (R352). -/
structure AlmEntry where
  seg : Nat
  deadline : Nat
  occupy : Nat
  budget : Nat
deriving DecidableEq, Repr

/-- A place of a host drain in the output (R315): ring index, field, pass, vectors, bytes of a region, offset. -/
structure OutRegion where
  seg : Nat
  ring : Nat
  field : Nat
  pass : Nat
  vecs : Nat
  bytes : Nat
  off : Nat
deriving DecidableEq, Repr

/-- A plan's extent, for a restore (R432). -/
structure Extent where
  field : Nat
  commons : Bool
  core : Nat
  bu : Nat
  pos : Nat
  len : Nat
  /-- Where its data lies in the image. -/
  off : Nat
deriving DecidableEq, Repr

/-- A resident plan (R309, R282). -/
structure Plan where
  owner : Nat
  gen : Nat
  sealed : Bool := false
  broken : Bool := false
  flags : Nat
  seed : Word
  segs : List Segment
  fields : List PlanField
  almanacs : List (List AlmEntry) := []
  regions : List OutRegion := []
  extents : List Extent := []
  /-- Bulk slots it names. -/
  slots : List Nat := []
  /-- Its REDUCE passes with their ordinals (R164): segment, field, pass index, ordinal. -/
  reduces : List (Nat × Nat × Nat × Nat) := []
  /-- The image buffer (R432) and its section CRCs by field and type. -/
  addr : Nat
  len : Nat
  sects : List (Nat × Nat × Nat × Nat × Nat) := []
deriving DecidableEq, Repr

/-- Where a job stands (R313 to R316). -/
inductive JobState where
  | waiting
  | running
  /-- Ended by a status at a pass; its completion is still to come. -/
  | ended (status : Nat)
deriving DecidableEq, Repr

/-- A job, or a tick of a stream (R311 to R316, R365). -/
structure Job where
  handle : Word
  /-- The handle that records name. -/
  named : Nat := 0
  msg : Option MsgId
  /-- The stream and tick, for a tick. -/
  tick : Option (Nat × Nat) := none
  plan : Nat
  seg : Nat
  st : JobState := .waiting
  time : Nat
  rank : Nat
  input : List Byte := []
  inPoison : Bool := false
  outAddr : Nat := 0
  outLen : Nat := 0
  limit : Nat := 0
  startTime : Nat := 0
  drain : BitVec 16 := 0
  failField : Option Nat := none
  failCore : Option Nat := none
  failPass : Nat := 0xFFFF
  failCode : Nat := 0
  /-- Lantern wait of its passes in µs (R316). -/
  waitUs : Nat := 0
  cancelled : Bool := false
  /-- Its first passes were handed to their cores (R314). -/
  began : Bool := false
  /-- It ended by its own deadline (R316). -/
  limitExpired : Bool := false
  /-- Passes of it still to commit: field and core and count. -/
  left : Nat := 0
  /-- Passes committed, and passes whose drains have landed, by field and index. -/
  committed : List (Nat × Nat) := []
  landed : List (Nat × Nat) := []
  /-- Output bytes formed by drains of passes: offset, bytes, poisoned 64-byte blocks. -/
  outs : List (Nat × List Byte × Bool) := []
  paused : Bool := false
  /-- Message numbers of fabric messages (R249). -/
  msgNo : Nat := 0
deriving DecidableEq, Repr

/-- A dispatched tick not yet delivered (R365, R360). -/
structure Tick where
  n : Nat
  slot : Nat
  sample : Nat
  noInput : Bool
  entry : Nat
  tn : Nat
  missed : Bool := false
  /-- Ended with this status; none while it runs. -/
  ended : Option Nat := none
  drain : BitVec 16 := 0
deriving DecidableEq, Repr

/-- A cadence stream (chapter Cadence). -/
structure Stream where
  owner : Nat
  gen : Nat
  plan : Nat
  alm : Nat
  tick : Nat
  missLimit : Nat
  seg : Nat
  inBase : Nat
  outBase : Nat
  inLog2 : Nat
  outLog2 : Nat
  halted : Bool := false
  disarming : Bool := false
  prod : BitVec 32 := 0
  orel : BitVec 32 := 0
  cons : BitVec 32 := 0
  acc : BitVec 32 := 0
  outw : BitVec 32 := 0
  refused : BitVec 32 := 0
  t0 : Nat := 0
  nextTick : Nat := 0
  /-- Tick number at which t0 counts. -/
  tickBase : Nat := 0
  ticks : List Tick := []
  misses : Nat := 0
  totalMisses : Nat := 0
  completed : Nat := 0
  /-- Lanterns that it reserves, by field. -/
  reserve : List (Nat × Nat) := []
  /-- Why it halted, for the record that is written once its ticks have delivered: code and detail. -/
  cause : Option (Nat × List Byte) := none
  /-- Its reservation and pins are held. -/
  holds : Bool := true
  /-- The message that arms it, while its parts wake (R364): it counts as halted so long. -/
  arming : Option MsgId := none
  /-- Ticks that missed before their dispatch. -/
  missedAhead : List Nat := []
  /-- The entries of its Almanac (R352), as its plan held them. -/
  entries : List AlmEntry := []
  /-- Order of arming, for R371. -/
  armedAt : Nat := 0
deriving DecidableEq, Repr

/-- A device configuration image (R405 to R408). -/
structure Config where
  owner : Nat
  /-- h.index and h.gen of its handle (R286). -/
  index : Nat
  gen : Nat
  image : List Byte
deriving DecidableEq, Repr

/-- The unit record in flash, beside the maps and the preferred slot (R403, R405): the persisted configuration, and the copy
whose writing was interrupted. -/
structure Record where
  persisted : Option (List Byte) := none
  torn : Option Nat := none
  /-- The write in progress: the message that it belongs to, and what persists once it ends. -/
  writing : Option (MsgId × Option (List Byte)) := none
deriving DecidableEq, Repr

/-- A fabric configuration (R320). -/
structure Fabric where
  owner : Nat
  gen : Nat
  domain : Nat := 0
  ordinal : Nat := 0
  /-- In 100 µs units. -/
  timeout : Nat := 20
  /-- Per link: peer ordinal, peer link, check. -/
  neighbours : Sparse (BitVec 32) := []
  /-- Route table entries, 16 bytes each (R251). -/
  routes : Sparse (BitVec 128) := []
deriving DecidableEq, Repr

/-- A source's requests for the shared limits (R293), by source: 0 management, 1 to 4 ports. -/
structure Request where
  pool : Option Nat := none
  fck : Option Nat := none
  /-- Links it disables and enables. -/
  linksOff : Word := 0
  linksOn : Word := 0
deriving DecidableEq, Repr

/-- A firmware slot (R324, R401): bytes written over what it shipped with, whether all erased, and the last verdict. -/
structure FwSlot where
  bytes : Sparse Byte := []
  verdict : Nat := 0xFF
  build : Nat := 0
  ifMajor : Nat := 0
  ifMinor : Nat := 0
deriving DecidableEq, Repr

/-! ### Power and the unit -/

/-- A lantern request in the wafer queue (R388): stamp, field, core, pass run, lanterns. -/
structure WaferReq where
  time : Nat
  field : Nat
  core : Nat
  /-- None: the request that the Milliner enters at a job start (R389). -/
  serial : Option Nat
  amount : Nat
deriving DecidableEq, Repr

/-- Lantern accounts (R384 to R392). -/
structure Lanterns where
  /-- Lent to row pools and not on to fields, by physical row. -/
  rows : Sparse Nat := []
  queue : List WaferReq := []
deriving DecidableEq, Repr

/-- Limits that the unit imposes itself (R394, R440): none is no limit. -/
structure Limits where
  heatPool : Option Nat := none
  heatFck : Option Nat := none
  busPool : Option Nat := none
  busFck : Option Nat := none
  powerPool : Option Nat := none
  flowPool : Option Nat := none
  flowFck : Option Nat := none
  inletPool : Option Nat := none
deriving DecidableEq, Repr

/-- Filtered readings and what is out of range (R438, R439). -/
structure Sensors where
  busMv : Nat := 50000
  watts : Nat := 0
  flow : Nat := 0
  inlet : Int := 0
  /-- Numbers of Table 19-1 out of range, with field and core for rows 3 and 4. -/
  out : List (Nat × Nat × Nat) := []
  /-- Junction sensors that failed: field, core, sensor. -/
  failed : List (Nat × Nat × Nat) := []
  leak : Bool := false
deriving DecidableEq, Repr

/-- A DIAG_RUN that runs (R326): its message, none once a port reset has taken it, and the logical field, none for a spare. -/
structure DiagRun where
  msg : Option MsgId
  field : Option Nat
deriving DecidableEq, Repr

/-- What the unit is doing between resets (R397, R411). -/
inductive Phase where
  /-- Powered down, Vigil domain unpowered. -/
  | off
  | vigil
  | waking
  | up
deriving DecidableEq, Repr

/-- The unit and its Vigil domain. -/
structure Unit_ where
  phase : Phase := .up
  /-- The unit waits in step 3 of a reset for RESET_L, or for good power (R443, R449). -/
  holdReset : Bool := false
  holdPower : Bool := false
  resetLow : Bool := false
  /-- RESET_L in VIGIL discarded the retention state (R449). -/
  retention : Bool := false
  /-- Reasons of Table 17-4 that hold beside what configurations and plans give, with their details. -/
  noFirmware : Option Nat := none
  faultHold : Option Nat := none
  cfgRefused : Option Nat := none
  cfgTorn : Option Nat := none
  degraded : Bool := false
  replace : Bool := false
  faulted : Bool := false
  standby : Bool := true
  /-- The standby set serves. -/
  mset : Bool := false
  /-- The boot ROM's service answers (R402, R436). -/
  bootRom : Bool := false
  vigilTime : Word := 0
  fckStep : Nat := 4
  fwRun : Nat := 0
  fwPref : Nat := 0
  fwBuild : Nat := 1
  fwMinor : Nat := 2
  /-- Doorbells latched while VIGIL or WAKING (R288, R382): time, queue (1,024 more for a CQ head), value. -/
  latched : List (Nat × Nat × BitVec 32) := []
  spares : List (Nat × Nat) := []
  retired : List (Nat × Nat) := []
  /-- Fields waiting for a remap, in order of detection (R434). -/
  remaps : List Nat := []
  /-- The tests that run, in order of their start (R326). -/
  diag : List DiagRun := []
  wasReady : Bool := false
  /-- The queue pair whose round-robin turn it is, and the entries it has had (R296). -/
  turn : Nat := 0
  taken : Nat := 0
  vckFailed : List (Nat × Nat) := []
  vckHoldover : List (Nat × Nat) := []
  vckRoot : Option (Nat × Nat) := some (5, 5)
  /-- Physical fields that a self-test failed. -/
  bad : List (Nat × Nat) := []
  /-- The bank units that the last full self-test found failing: physical row and column, core, physical BU. -/
  badBus : List (Nat × Nat × Nat × Nat) := []
deriving DecidableEq, Repr

/-! ### Hatband, brim links, fabric -/

/-- The state of a brim link (R241) or module link (R261). -/
inductive LinkState where
  | disabled
  | detect
  | equalize
  | lock
  | params
  | active
deriving DecidableEq, Repr

/-- The message that a VC of a link is receiving (R249): its number at this unit, its flits received, and its flits in all, 0 where the
VC waits for a head flit. -/
structure RxMsg where
  no : Nat := 0
  got : Nat := 0
  total : Nat := 0
deriving DecidableEq, Repr

/-- A brim link (R239 to R248). -/
structure Brim where
  st : LinkState := .detect
  attempts : Nat := 0
  lost : Bool := false
  miswired : Bool := false
  everActive : Bool := false
  /-- Next sequence number to send and to expect, resends of the oldest flit. -/
  txSeq : Nat := 0
  rxSeq : Nat := 0
  resends : Nat := 0
  nakSent : Bool := false
  /-- A sequenced flit has been received in order. -/
  rxAny : Bool := false
  /-- Sequenced flits sent and not acknowledged: the flit and the fabric message they carry. -/
  replay : List (Flit × Nat) := []
  /-- Credits to send, per VC, and what the peer has freed. -/
  credits : List Nat := [64, 64, 64, 64, 64, 64, 64, 64]
  freedSeen : List Nat := [0, 0, 0, 0, 0, 0, 0, 0]
  freed : List Nat := [0, 0, 0, 0, 0, 0, 0, 0]
  freedSent : List Nat := [0, 0, 0, 0, 0, 0, 0, 0]
  /-- The messages that come in, and the mask of the next data flit, per VC. -/
  rx : Sparse RxMsg := []
  poisonMask : Sparse (BitVec 32) := []
deriving DecidableEq, Repr

/-- A fabric message at this unit (R249): header fields, data words with poison, and where it came from. -/
structure FabMsg where
  no : Nat
  kind : Nat
  hops : Nat := 0
  ptr : Nat := 0
  tag : BitVec 32 := 0
  addr : Word := 0
  src : Nat := 0
  id : Nat := 0
  pass : Nat := 0
  rank : Nat := 0
  round : Nat := 0
  route : BitVec 112 := 0
  words : List (Word × Bool) := []
  plane : Bool := false
  /-- The link it came in on; none for a message of this unit. -/
  from_ : Option Nat := none
  /-- It is delivered to this unit. -/
  here : Bool := false
  /-- Flits of it sent on its next link. -/
  sent : Nat := 0
  /-- Data words of it still to come in. -/
  short : Nat := 0
  /-- Its flits in the receiver's buffer, and the VC they came in on (R248). -/
  buf : Nat := 0
  inVc : Nat := 0
deriving DecidableEq, Repr

/-- A fabric message of a pass of this unit that is not acknowledged (R252). -/
structure Awaited where
  no : Nat
  field : Nat
  core : Nat
  serial : Nat
  id : Nat
  job : Word := 0
  idx : Nat := 0
  notReady : Bool := false
  msg : FabMsg
deriving DecidableEq, Repr

/-- A REDUCE operand that reached its node (R126): the receiver's field and core, level, ordinal and participants of the tree,
the pairing round, and its words by BU with SAT and poison. -/
structure Operand where
  job : Word
  field : Nat
  core : Nat
  level : Nat
  ordinal : Nat
  parts : Nat
  round : Nat
  words : List (Nat × List AccWord)
deriving DecidableEq, Repr

/-- A Hatband packet in flight (R228): number, class, source and destination fields, its load, and how far it has come. -/
structure Packet where
  no : Nat
  cls : HbClass
  src : Nat
  dst : Nat
  /-- Words to write: word address, data, poison. -/
  writes : List (Nat × Word × Bool) := []
  /-- Slot words of a REDUCE operand: core, pass run, and words with SAT and poison. -/
  operand : Option Operand := none
  /-- The pass whose drain it carries: field, core, pass run. -/
  who : Option (Nat × Nat × Nat) := none
  job : Word := 0
  /-- That pass's index. -/
  idx : Nat := 0
  /-- The writer waits for a write acknowledgement (R229, R252). -/
  acked : Bool := false
  /-- Phits of it that have crossed each link of its route, first link first. -/
  crossed : List Nat := []
deriving DecidableEq, Repr

/-- What the routing tables that are loaded follow from (R230): each routing field with its physical row and column, and the
ports (physical row, column and port) whose links are down. -/
structure Topo where
  fields : List (Nat × Nat × Nat)
  down : List (Nat × Nat × Nat)
deriving DecidableEq, Repr

/-- Hatband and fabric state. -/
structure Mesh where
  packets : List Packet := []
  packetNo : Nat := 0
  /-- The topology of the routing tables loaded; none: every field where the start places it, and no link down (R230). -/
  tables : Option Topo := none
  msgs : List FabMsg := []
  msgNo : Nat := 0
  awaited : List Awaited := []
  operands : List Operand := []
  /-- Fabric tags of jobs that have ended: operands under them are late (R129, R255). -/
  late : List (BitVec 32) := []
deriving DecidableEq, Repr

/-! ### Bulk (chapter Bulk modules) -/

/-- An engine register (R269). -/
structure EngReg where
  val : BitVec 48 := 0
  sat : Bool := false
  poison : Bool := false
deriving DecidableEq, Repr

/-- A near-memory engine (R269, Table 11-6). -/
structure Engine where
  regs : Sparse EngReg := []
  px : BitVec 28 := 0
  py : BitVec 28 := 0
  pz : BitVec 28 := 0
  /-- The vector buffer: first channel-local line, lines, and bytes with poison by line (R270). -/
  bufLine : Nat := 0
  bufLen : Nat := 0
  buf : Sparse (BitVec 512 × BitVec 8) := []
  queue : List (Word × Option (Nat × Nat × Nat)) := []
  done : BitVec 32 := 0
  err : Bool := false
deriving DecidableEq, Repr

/-- A sequenced frame for a module (R258): its channel, a command or 256 bytes of data with their poison, and for data of a pass the
pass's field, core, run, job and index. -/
structure BulkItem where
  chan : Nat
  data : Option (BitVec 2048 × BitVec 32) := none
  who : Option (Nat × Nat × Nat) := none
  job : Word := 0
  idx : Nat := 0
deriving DecidableEq, Repr

/-- A bulk slot (R257 to R275). -/
structure Slot where
  present : Bool := false
  fenced : Bool := false
  st : LinkState := .detect
  attempts : Nat := 0
  everActive : Bool := false
  txSeq : Nat := 0
  rxSeq : Nat := 0
  resends : Nat := 0
  nakSent : Bool := false
  /-- A sequenced frame has been received in order. -/
  rxAny : Bool := false
  /-- Frames that wait for credit or for room in the replay buffer. -/
  waiting : List BulkItem := []
  /-- Frames sent and not acknowledged, with what they carry. -/
  replay : List (BitVec 2176 × BulkItem) := []
  credits : Nat := 128
  freedSeen : Nat := 0
  freed : Nat := 0
  engines : Sparse Engine := []
  /-- The pass that holds its engines: field, core, pass run (R273). -/
  holder : Option (Nat × Nat × Nat) := none
deriving DecidableEq, Repr

/-! ### SMBus and JTAG (R456 to R459) -/

/-- The management endpoint. -/
structure Smbus where
  last : Nat := 0
  staging : Sparse Byte := []
  /-- Entries submitted, by counter, and not yet fetched. -/
  waiting : List (Nat × Nat × Entry) := []
  ctr : Nat := 0
  /-- Completion entries waiting, per message. -/
  completions : List (List (BitVec 256)) := []
  reserved : Nat := 0
  /-- COMPLETION returned the oldest message's entries. -/
  returned : Bool := false
deriving DecidableEq, Repr

/-- The test access port: instruction code and cells. -/
structure Jtag where
  code : BitVec 8 := 0xFF
  cells : BitVec 97 := 0
  bypassBit : Bool := false
deriving DecidableEq, Repr

end Sys2Proof.Machine
end

