-- ==== Sys2Proof/Machine/State.lean ====
section
/-! DEFINITION. The state of the unit as plain data, the reasons a step can stop, and the state after reset. -/

namespace Sys2Proof.Machine

/-- Why the machine stops with a fault. -/
inductive Fault where
  /-- Raised by a command whose operands are not well formed: it names a part that the unit does not have, such as field 96 or host
  port 4 (R17 to R27), or carries a word or value that another row carries. Safe: the hardware has no such part or command. -/
  | noSuchPart
deriving DecidableEq, Repr

/-- Why a command has no meaning. -/
inductive Refusal where
  /-- Raised by the dispatcher for a command without a meaning. Safe: nothing is claimed of it. -/
  | notModelled (mnemonic : String)
deriving DecidableEq, Repr

/-- The unit: its commands waiting, and every part that the spec names. -/
structure State where
  pending : List Instr
  freeCtr : Nat
  out : List Out
  mem : Memory
  bus : Sparse Bu
  cores : Sparse Core
  fields : Sparse Field
  edges : Sparse Edge
  ports : Sparse Port
  winReqs : List WinReq
  reqNo : Nat
  owner : Sparse Nat
  queues : Sparse Queue
  msgs : List Msg
  plans : Sparse Plan
  planGens : Sparse Nat
  jobs : List Job
  streams : Sparse Stream
  streamGens : Sparse Nat
  staged : Option Config
  active : Option Config
  record : Record
  cfgGens : Sparse Nat
  fabStaged : Option Fabric
  fabActive : Option Fabric
  fabGen : Nat
  requests : Sparse Request
  fw : Sparse FwSlot
  lanterns : Lanterns
  limits : Limits
  sensors : Sensors
  vigil : Unit_
  log : FaultLog
  counters : Sparse Counter
  mesh : Mesh
  brims : Sparse Brim
  slots : Sparse Slot
  smb : Smbus
  jtag : Jtag
deriving DecidableEq, Repr

/-- R17: columns of each physical row. -/
def rowLengths : List Nat := [3, 7, 9, 11, 11, 12, 12, 11, 11, 9, 7, 3]

/-- Table 1-1: every physical field, by row and column. -/
def physFields : List (Nat × Nat) :=
  (rowLengths.zipIdx.map fun p => (List.range p.1).map fun c => (p.2, c)).flatten

/-- The ten spares of the unit as shipped: inner fields, none of them the tap of a segment (log entry 6). -/
def startSpares : List (Nat × Nat) := [(1, 3), (2, 4), (3, 3), (4, 4), (5, 3), (6, 4), (7, 3), (8, 4), (9, 3), (10, 4)]

/-- The physical fields that logical fields 0 to 95 stand on as shipped (log entry 6). -/
def startFields : List (Nat × Nat) := physFields.filter fun q => !startSpares.contains q

/-- The state right after reset: a unit that a cold start of a healthy unit leaves HELD with NO_CONFIG (R399, R409), with
nothing stored, no queue created, no message, plan, job or stream, every brim link in DETECT (R398) and every bulk slot
empty. Log entries 1, 2, 6 to 10 name the values the spec does not give. -/
def State.reset : State where
  pending := []
  freeCtr := 0
  out := []
  mem := {}
  bus := []
  cores := []
  fields := []
  edges := []
  ports := []
  winReqs := []
  reqNo := 0
  owner := []
  queues := []
  msgs := []
  plans := []
  planGens := []
  jobs := []
  streams := []
  streamGens := []
  staged := none
  active := none
  record := {}
  cfgGens := []
  fabStaged := none
  fabActive := none
  fabGen := 0
  requests := []
  fw := [(0, { verdict := 0, build := 1, ifMajor := 3, ifMinor := 2 })]
  lanterns := {}
  limits := {}
  sensors := {}
  vigil := { spares := startSpares }
  log := {}
  counters := []
  mesh := {}
  brims := []
  slots := []
  smb := {}
  jtag := {}

end Sys2Proof.Machine
end

