-- ==== Sys2Proof/Machine/Ops.lean ====
section
/-! DEFINITION. The named operations over the state: the parts that a command may change, reading and changing a part, outputs and
vectors, events, counters,
fault records, and stored words with their check bits and poison. -/

namespace Sys2Proof.Machine

/-! ### What a command may change -/

/-- The parts of the state that a command can change: all but the queue. -/
inductive Part where
  | freeCtr
  | out
  | mem
  | bus
  | cores
  | fields
  | edges
  | ports
  | winReqs
  | reqNo
  | owner
  | queues
  | msgs
  | plans
  | planGens
  | jobs
  | streams
  | streamGens
  | staged
  | active
  | record
  | cfgGens
  | fabStaged
  | fabActive
  | fabGen
  | requests
  | fw
  | lanterns
  | limits
  | sensors
  | vigil
  | log
  | counters
  | mesh
  | brims
  | slots
  | smb
  | jtag
deriving DecidableEq, Repr

/-- `s` with one part of `t`. -/
def State.take (t s : State) (p : Part) : State :=
  match p with
  | .freeCtr => { s with freeCtr := t.freeCtr }
  | .out => { s with out := t.out }
  | .mem => { s with mem := t.mem }
  | .bus => { s with bus := t.bus }
  | .cores => { s with cores := t.cores }
  | .fields => { s with fields := t.fields }
  | .edges => { s with edges := t.edges }
  | .ports => { s with ports := t.ports }
  | .winReqs => { s with winReqs := t.winReqs }
  | .reqNo => { s with reqNo := t.reqNo }
  | .owner => { s with owner := t.owner }
  | .queues => { s with queues := t.queues }
  | .msgs => { s with msgs := t.msgs }
  | .plans => { s with plans := t.plans }
  | .planGens => { s with planGens := t.planGens }
  | .jobs => { s with jobs := t.jobs }
  | .streams => { s with streams := t.streams }
  | .streamGens => { s with streamGens := t.streamGens }
  | .staged => { s with staged := t.staged }
  | .active => { s with active := t.active }
  | .record => { s with record := t.record }
  | .cfgGens => { s with cfgGens := t.cfgGens }
  | .fabStaged => { s with fabStaged := t.fabStaged }
  | .fabActive => { s with fabActive := t.fabActive }
  | .fabGen => { s with fabGen := t.fabGen }
  | .requests => { s with requests := t.requests }
  | .fw => { s with fw := t.fw }
  | .lanterns => { s with lanterns := t.lanterns }
  | .limits => { s with limits := t.limits }
  | .sensors => { s with sensors := t.sensors }
  | .vigil => { s with vigil := t.vigil }
  | .log => { s with log := t.log }
  | .counters => { s with counters := t.counters }
  | .mesh => { s with mesh := t.mesh }
  | .brims => { s with brims := t.brims }
  | .slots => { s with slots := t.slots }
  | .smb => { s with smb := t.smb }
  | .jtag => { s with jtag := t.jtag }

/-- `s` with some parts of `t`: a command that changes these parts, and nothing else. -/
def State.within (s : State) (ps : List Part) (t : State) : State := ps.foldl (State.take t) s

/-- A command's meaning on parts that exist, with the parts of the state that it may change; a fault where it names a part the unit
does not have. -/
def onPart (ps : List Part) (ok : Bool) (s : State) (f : State → State) : Host.Outcome State Fault Refusal :=
  if ok then .next (s.within ps (f s)) else .fault .noSuchPart

/-- What a reset of the unit changes beside its lifecycle. -/
def resetParts : List Part :=
  [.freeCtr, .mem, .bus, .cores, .fields, .edges, .winReqs, .owner, .queues, .msgs, .plans, .planGens, .jobs, .streams,
   .streamGens, .staged, .active, .cfgGens, .fabStaged, .fabActive, .requests, .fw, .lanterns, .limits, .log, .counters, .mesh,
   .brims, .slots, .smb, .record]

/-- What a failed field or bank unit, and its repair, change. -/
def repairParts : List Part :=
  [.freeCtr, .mem, .bus, .cores, .fields, .edges, .winReqs, .queues, .msgs, .plans, .jobs, .streams, .streamGens, .staged, .active,
   .fabStaged, .fabActive, .lanterns, .log, .counters, .mesh, .slots, .smb]

/-- What a change of the lantern pool changes: streams may halt. -/
def poolParts : List Part :=
  [.cores, .fields, .edges, .queues, .msgs, .plans, .streams, .streamGens, .staged, .active, .fabStaged, .fabActive, .lanterns,
   .log, .counters, .smb]

/-- What the completion of a message changes: entries, ownership, counters. -/
def finishParts : List Part :=
  [.fields, .queues, .msgs, .plans, .streams, .staged, .active, .fabStaged, .fabActive, .counters, .smb]

/-- What the end of a job changes. -/
def endParts : List Part :=
  [.freeCtr, .mem, .bus, .cores, .fields, .edges, .jobs, .lanterns, .log, .counters, .mesh, .slots]

/-! ### Parts -/

/-- Where BU `u` of core `c` of field `f` stands. -/
def buKey (f c u : Nat) : Nat := (f * 8 + c) * 128 + u

def State.bu (s : State) (f c u : Nat) : Bu := Sparse.get {} s.bus (buKey f c u)
def State.setBu (s : State) (f c u : Nat) (b : Bu) : State := { s with bus := Sparse.set {} s.bus (buKey f c u) b }
def State.updBu (s : State) (f c u : Nat) (g : Bu → Bu) : State := s.setBu f c u (g (s.bu f c u))
def State.core (s : State) (f c : Nat) : Core := Sparse.get {} s.cores (f * 8 + c)
def State.setCore (s : State) (f c : Nat) (x : Core) : State := { s with cores := Sparse.set {} s.cores (f * 8 + c) x }
def State.updCore (s : State) (f c : Nat) (g : Core → Core) : State := s.setCore f c (g (s.core f c))
def State.field (s : State) (f : Nat) : Field := Sparse.get {} s.fields f
def State.setField (s : State) (f : Nat) (x : Field) : State := { s with fields := Sparse.set {} s.fields f x }
def State.updField (s : State) (f : Nat) (g : Field → Field) : State := s.setField f (g (s.field f))
def State.edge (s : State) (f : Nat) : Edge := Sparse.get {} s.edges f
def State.setEdge (s : State) (f : Nat) (x : Edge) : State := { s with edges := Sparse.set {} s.edges f x }
def State.updEdge (s : State) (f : Nat) (g : Edge → Edge) : State := s.setEdge f (g (s.edge f))
def State.port (s : State) (p : Nat) : Port := Sparse.get {} s.ports p
def State.setPort (s : State) (p : Nat) (x : Port) : State := { s with ports := Sparse.set {} s.ports p x }
def State.updPort (s : State) (p : Nat) (g : Port → Port) : State := s.setPort p (g (s.port p))
def State.queue (s : State) (q : Nat) : Queue := Sparse.get {} s.queues q
def State.setQueue (s : State) (q : Nat) (x : Queue) : State := { s with queues := Sparse.set {} s.queues q x }
def State.updQueue (s : State) (q : Nat) (g : Queue → Queue) : State := s.setQueue q (g (s.queue q))
def State.brim (s : State) (l : Nat) : Brim := Sparse.get {} s.brims l
def State.setBrim (s : State) (l : Nat) (x : Brim) : State := { s with brims := Sparse.set {} s.brims l x }
def State.updBrim (s : State) (l : Nat) (g : Brim → Brim) : State := s.setBrim l (g (s.brim l))
def State.slot (s : State) (m : Nat) : Slot := Sparse.get {} s.slots m
def State.setSlot (s : State) (m : Nat) (x : Slot) : State := { s with slots := Sparse.set {} s.slots m x }
def State.updSlot (s : State) (m : Nat) (g : Slot → Slot) : State := s.setSlot m (g (s.slot m))

/-- The port that owns queue pair `q` (R279): port q mod 4 until QUEUE_ASSIGN moves it. -/
def State.ownerOf (s : State) (q : Nat) : Nat := (Sparse.find s.owner q).getD (q % 4)

/-- Moves a queue pair to a port. -/
def State.setOwner (s : State) (q p : Nat) : State :=
  { s with owner := if p = q % 4 then Sparse.del s.owner q else Sparse.put s.owner q p }

/-- R22: physical coordinates of a logical field. -/
def State.physOf (s : State) (f : Nat) : Nat × Nat := ((s.field f).phys).getD (startFields.getD f (0xFF, 0xFF))

/-- R427: the physical number of a logical BU. -/
def Bu.phys (b : Bu) (u : Nat) : Nat := if b.spare = 0 then u else 127 + b.spare

/-- The logical fields. -/
def allFields : List Nat := List.range 96
/-- The logical cores of a field. -/
def allCores : List Nat := List.range 8
/-- The logical BUs of a core. -/
def allBus : List Nat := List.range 128
/-- Every core of the unit, by field and core. -/
def allUnitCores : List (Nat × Nat) := (allFields.map fun f => allCores.map fun c => (f, c)).flatten

/-- A fresh unspecified value (log entry 3). -/
def State.fresh (s : State) : State × Word := ({ s with freeCtr := s.freeCtr + 1 }, Config.freeVal s.freeCtr)

/-- VIGIL_TIME as a number (R335). -/
def State.now (s : State) : Nat := s.vigil.vigilTime.toNat

/-! ### Outputs, vectors, events -/

/-- Sends something through a port: at once, or after the return to D0 (R332). -/
def State.emit (s : State) (p : Nat) (o : Out) : State :=
  if (s.port p).d3 then s.updPort p fun x => { x with held := x.held ++ [o] } else { s with out := s.out ++ [o] }

/-- An entry of a port's MSI-X table; its mask bit is set at reset. -/
def Port.msix (x : Port) (v : Nat) : BitVec 128 := (Sparse.find x.msixTable v).getD (1#128 <<< 96)

/-- R348: a vector falls due: sent, or pending while it is masked or MSI-X is disabled. -/
def State.sendMsix (s : State) (p v : Nat) : State :=
  let x := s.port p
  if !x.msixEnable || x.funcMask || bit (x.msix v) 96 then
    (if x.msixPending.contains v then s else s.setPort p { x with msixPending := x.msixPending ++ [v] })
  else s.emit p (.msix p v)

/-- R337: event `i` on port `p`. -/
def State.raise (s : State) (p i : Nat) : State :=
  let x := s.port p
  if bit x.eventCause i then s
  else
    let t := s.setPort p { x with eventCause := x.eventCause ||| (1#64 <<< i) }
    if bit x.eventMask i then t else t.sendMsix p (1024 + i)

/-- An event on every port. -/
def State.raiseAll (s : State) (i : Nat) : State := (((s.raise 0 i).raise 1 i).raise 2 i).raise 3 i

/-! ### Counters (R423, Table 18-6) -/

/-- Event counters of a block kind. -/
def eventCounters (kind : Nat) : Nat :=
  match kind with
  | 1 => 13 | 2 => 6 | 3 => 6 | 4 => 3 | 5 => 3 | 6 => 13 | 7 => 2 | 8 => 4 | 9 => 3 | _ => 0

/-- Error counters of a block kind. -/
def errorCounters (kind : Nat) : Nat :=
  match kind with
  | 1 => 5 | 2 => 3 | 3 => 3 | 4 => 3 | 5 => 1 | 6 => 3 | 7 => 2 | 8 => 4 | 9 => 1 | _ => 0

/-- Indices of a block kind. -/
def blockIndices (kind : Nat) : Nat :=
  match kind with
  | 1 => 768 | 2 => 96 | 3 => 1 | 4 => 4 | 5 => 1024 | 6 => 64 | 7 => 384 | 8 => 16 | 9 => 64 | _ => 0

/-- R425: a block identifier. -/
def blockId (kind idx : Nat) : Nat := kind * 2 ^ 24 + idx
def coreBlock (f c : Nat) : Nat := blockId 1 (f * 8 + c)
def fieldBlock (f : Nat) : Nat := blockId 2 f
def unitBlock : Nat := blockId 3 0
def portBlock (p : Nat) : Nat := blockId 4 p
def queueBlock (q : Nat) : Nat := blockId 5 q
def brimBlock (l : Nat) : Nat := blockId 6 l
def hbBlock (f p : Nat) : Nat := blockId 7 (f * 4 + p)
def slotBlock (m : Nat) : Nat := blockId 8 m
def streamBlock (st : Nat) : Nat := blockId 9 st

/-- Where a counter stands. -/
def counterKey (blk pos : Nat) : Nat := blk * 64 + pos
def State.counter (s : State) (blk pos : Nat) : Counter := Sparse.get {} s.counters (counterKey blk pos)
def State.setCounter (s : State) (blk pos : Nat) (x : Counter) : State :=
  { s with counters := Sparse.set {} s.counters (counterKey blk pos) x }

/-- The maximum of a counter: 48 bits, error counters 16. -/
def counterMax (blk pos : Nat) : Nat := if pos < eventCounters (blk / 2 ^ 24) then 2 ^ 48 - 1 else 2 ^ 16 - 1

/-- R423: counts `n`; a counter that reaches its maximum stays there, and its first overflow raises COUNTER_OVERFLOW. -/
def State.count (s : State) (blk pos n : Nat) : State :=
  let x := s.counter blk pos
  if n = 0 then s
  else if x.val + n < counterMax blk pos then s.setCounter blk pos { x with val := x.val + n }
  else
    let t := s.setCounter blk pos { x with val := counterMax blk pos, ovf := true }
    if x.ovf then t else t.raiseAll 8

/-! ### Fault records (R415 to R418) -/

/-- What a fault record says besides its number and time (Table 18-2). -/
structure Rec where
  code : Nat
  cls : Nat
  part : Nat
  field : Nat := 0xFF
  core : Nat := 0xFF
  bu : Nat := 0xFFFF
  pbu : Nat := 0xFF
  /-- Physical coordinates, where no logical field gives them. -/
  phys : Option (Nat × Nat) := none
  handle : Nat := 0
  pass : Nat := 0xFFFF
  detail : List Byte := []

/-- The 64 bytes of a record. -/
def Rec.bytes (r : Rec) (seq time : Nat) (phys : Nat × Nat) : BitVec 512 :=
  BitVec.ofNat 512 (leNat (leBytes 4 seq ++ leBytes 2 r.code ++ leBytes 1 r.cls ++ leBytes 1 r.part ++ leBytes 1 r.field ++
    leBytes 1 r.core ++ leBytes 2 r.bu ++ leBytes 1 phys.1 ++ leBytes 1 phys.2 ++ leBytes 1 r.pbu ++ leBytes 1 0 ++
    leBytes 8 time ++ leBytes 8 r.handle ++ leBytes 2 r.pass ++ leBytes 2 0 ++ r.detail.take 28))

/-- R323, R418: writes a record; the oldest of 4,096 is overwritten, and one not read is counted lost. -/
def State.logFault (s : State) (r : Rec) : State :=
  let phys := r.phys.getD (if r.field < 96 then s.physOf r.field else (0xFF, 0xFF))
  let w := r.bytes (s.log.next % 2 ^ 32) s.now phys
  let full := decide (4096 ≤ s.log.recs.length)
  let lost := full && (match s.log.recs with | [] => false | x :: _ => !x.2)
  let t := { s with log := { s.log with
    recs := (if full then s.log.recs.drop 1 else s.log.recs) ++ [(w, false)], next := s.log.next + 1 } }
  let t := if lost then t.count unitBlock 6 1 else t
  if 2 ≤ r.cls then t.raiseAll 1 else t

/-- Detail of a TIMEOUT or LINK_LOST record (Table 18-3). -/
def waitDetail (path link peer level : Nat) : List Byte :=
  leBytes 1 path ++ leBytes 1 link ++ leBytes 2 peer ++ leBytes 1 level

/-- Codes of Table 13-1. -/
def stOK : Nat := 0x0000
def stACCEPTED : Nat := 0x0001
def stNOT_OWNER : Nat := 0x0101
def stSUPERSEDED : Nat := 0x0102
def stMALFORMED : Nat := 0x0201
def stOUT_OF_RANGE : Nat := 0x0202
def stSHAPE_MISMATCH : Nat := 0x0203
def stCAPACITY : Nat := 0x0204
def stSEAL_REQUIRED : Nat := 0x0205
def stHELD : Nat := 0x0206
def stIN_USE : Nat := 0x0207
def stLANTERN_DENIED : Nat := 0x0301
def stCADENCE_MISS : Nat := 0x0302
def stINPUT_OVERRUN : Nat := 0x0303
def stDATA_POISON : Nat := 0x0401
def stMETADATA_FAULT : Nat := 0x0402
def stUNCORRECTABLE : Nat := 0x0403
def stPAYLOAD_CRC : Nat := 0x0404
def stTIMEOUT : Nat := 0x0501
def stLINK_LOST : Nat := 0x0502
def stFIELD_LOST : Nat := 0x0601
def stINTERNAL : Nat := 0x0FFF

/-- The part of a _CORRECTED counter (R416), none for another counter. -/
def correctedPart (kind pos : Nat) : Option Nat :=
  if kind = 1 && pos = 13 then some 0 else if kind = 1 && pos = 15 then some 1 else if kind = 2 && pos = 6 then some 2
  else if kind = 3 && pos = 7 then some 14 else if kind = 7 && pos = 2 then some 4 else if kind = 8 && pos = 4 then some 3
  else none

/-- R416: counts one correction, and writes a CORRECTED record when the counter wrote none in the preceding second. -/
def State.countCorrected (s : State) (blk pos : Nat) : State :=
  let t := s.count blk pos 1
  let x := t.counter blk pos
  match correctedPart (blk / 2 ^ 24) pos, (match x.last with | some l => decide (l + 10000000 ≤ s.now) | none => true) with
  | some part, true =>
    let idx := blk % 2 ^ 24
    let kind := blk / 2 ^ 24
    let t := t.setCounter blk pos { x with last := some s.now }
    t.logFault {
      code := stOK, cls := 1, part,
      field := if kind = 1 then idx / 8 else if kind = 2 then idx else if kind = 7 then idx / 4 else 0xFF,
      core := if kind = 1 then idx % 8 else 0xFF,
      detail := leBytes 4 blk ++ leBytes 1 pos ++ leBytes 7 0 ++ leBytes 8 x.val }
  | _, _ => t

/-! ### Stored words (R75 to R77, R419, R420) -/

/-- The words of a range: in it, and for banks in its rows. -/
def Region.has (r : Region) (a : Nat) : Bool := r.lo ≤ a && a < r.hi && r.rlo ≤ a / 8 % 4096 && a / 8 % 4096 < r.rhi

/-- What an unlisted word holds. -/
def Memory.base (m : Memory) (a : Nat) : Stored :=
  match m.regions.find? (·.has a) with
  | none => {}
  | some r => match r.fill with
    | .zero => {}
    | .poisonZero => { poison := true }
    | .unspecified e => let w := Config.freeWord e a; { data := w, good := w }

def Memory.get (m : Memory) (a : Nat) : Stored := (Sparse.find m.cells a).getD (m.base a)
def Memory.set (m : Memory) (a : Nat) (v : Stored) : Memory :=
  { m with cells := if v = m.base a then Sparse.del m.cells a else Sparse.put m.cells a v }

/-- A range that lies in another. -/
def Region.inside (q r : Region) : Bool := r.lo ≤ q.lo && q.hi ≤ r.hi && r.rlo ≤ q.rlo && q.rhi ≤ r.rhi

/-- Ranges that may share a word. -/
def Region.meets (q r : Region) : Bool := q.lo < r.hi && r.lo < q.hi

/-- Gives a whole range its contents. Ranges inside it are gone, and zeros that no older range shows through need none. -/
def Memory.fill (m : Memory) (r : Region) : Memory :=
  let rest := m.regions.filter fun q => !q.inside r
  { cells := m.cells.filter fun p => !r.has p.1
    regions := if r.fill = .zero && rest.all (fun q => !q.meets r) then rest else r :: rest }

/-- The canonical form: strictly rising addresses, and no entry equal to what an unlisted address holds. -/
def Memory.wf (m : Memory) : Bool := Sparse.sorted m.cells && m.cells.all fun p => decide (p.2 ≠ m.base p.1)

def State.fillMem (s : State) (r : Region) : State := { s with mem := s.mem.fill r }

/-- The first word of a bank row, by linear row (Table 4-1). -/
def rowAddr (f c u row : Nat) : Nat := f * 0x2000000 + c * 0x400000 + u * 0x8000 + row * 8
/-- The first word of a field's commons (Table 1-6a). -/
def commonsAddr (f : Nat) : Nat := 0x100000000 + f * 0x400000
/-- The first word of a bulk module. -/
def bulkAddr (m : Nat) : Nat := 0x2000000000 + m * 0x400000000

/-- Where a word lies. -/
inductive Place where
  | bank (f c u row w : Nat)
  | commons (f off : Nat)
  | bulk (m off : Nat)
  | nowhere
deriving DecidableEq, Repr

/-- The place of a word address (R27, Table 4-1, R262). -/
def placeOf (a : Nat) : Place :=
  if a < 96 * 0x2000000 then
    .bank (a / 0x2000000) (a / 0x400000 % 8) (a / 0x8000 % 128) (a / 8 % 4096) (a % 8)
  else if 0x100000000 ≤ a && a < 0x100000000 + 96 * 0x400000 && (a - 0x100000000) % 0x400000 < 0x300000 then
    .commons ((a - 0x100000000) / 0x400000) ((a - 0x100000000) % 0x400000)
  else if 0x2000000000 ≤ a && a < 0x2000000000 + 16 * 0x400000000 then
    .bulk ((a - 0x2000000000) / 0x400000000) ((a - 0x2000000000) % 0x400000000)
  else .nowhere

/-- R76: what a read finds. -/
inductive Finding where
  | clean
  | poisoned
  | corrected
  | uncorrectable
deriving DecidableEq, Repr

/-- The number of 1 bits. -/
def popcount {n : Nat} (x : BitVec n) : Nat := (List.range n).foldl (fun k i => if x.getLsbD i then k + 1 else k) 0

/-- R75, R76: judges a stored word: the finding, and the word used. -/
def Stored.judge (x : Stored) : Finding × Word :=
  if x.poison then (.poisoned, x.data)
  else if x.data = x.good then (.clean, x.data)
  else
    let n := popcount (x.data ^^^ x.good)
    if n = 1 then (.corrected, x.good)
    else if n = 2 then (.uncorrectable, x.data)
    else
      let b := Config.beyondCode x.data x.good
      if b.1 = 0 then (.clean, b.2) else if b.1 = 1 then (.corrected, b.2) else (.uncorrectable, x.data)

/-- Who reads a word: the access of Table 18-3, and the job and pass that a record names. -/
structure Who where
  acc : Nat
  handle : Nat := 0
  pass : Nat := 0xFFFF
deriving DecidableEq, Repr

/-- Detail of an UNCORRECTABLE or DATA_POISON record (Table 18-3). Where the word has no side, row or address, those hold all ones, as
location fields do (R417). -/
def wordDetail (sideOrChan acc row w a : Nat) : List Byte :=
  leBytes 1 sideOrChan ++ leBytes 1 acc ++ leBytes 2 row ++ leBytes 1 w ++ leBytes 7 0 ++ leBytes 8 (a * 8)

/-- The record of a word, by its place. -/
def State.wordRec (s : State) (a code : Nat) (who : Who) : Rec :=
  match placeOf a with
  | .bank f c u row w => {
      code, cls := 2, part := 0, field := f, core := c, bu := u, pbu := (s.bu f c u).phys u,
      handle := who.handle, pass := who.pass, detail := wordDetail (row / 2048) who.acc (row % 2048) w a }
  | .commons f _ => {
      code, cls := 2, part := 2, field := f, handle := who.handle, pass := who.pass,
      detail := wordDetail 0xFF who.acc 0xFFFF 0xFF a }
  | .bulk _ off => {
      code, cls := 2, part := 3, handle := who.handle, pass := who.pass,
      detail := wordDetail (off / 32 % 8) who.acc 0xFFFF 0xFF a }
  | .nowhere => { code, cls := 2, part := 7 }

/-- R76, R419, R275: reads a stored word with its checks, counts, records and queued write-back. -/
def State.readWord (s : State) (a : Nat) (who : Who) : State × Word × Bool :=
  let x := s.mem.get a
  match x.judge with
  | (.clean, w) => (s, w, false)
  | (.poisoned, w) =>
    ((match placeOf a with | .bank f c _ _ _ => s.count (coreBlock f c) 11 1 | _ => s), w, true)
  | (.corrected, w) =>
    ((match placeOf a with
      | .bank f c u _ _ => (s.countCorrected (coreBlock f c) 13).updBu f c u fun b =>
          { b with scrub := if b.scrub.contains (a, x) then b.scrub else b.scrub ++ [(a, x)] }
      | .commons f _ => { s.countCorrected (fieldBlock f) 6 with mem := s.mem.set a { data := w, good := w } }
      | .bulk m _ => s.countCorrected (slotBlock m) 4
      | .nowhere => s), w, false)
  | (.uncorrectable, w) =>
    let t := { s with mem := s.mem.set a { x with poison := true } }
    let t := match placeOf a with
      | .bank f c u row _ => (t.count (coreBlock f c) 14 1).updBu f c u fun b => { b with uncRows := b.uncRows ++ [(s.now, row)] }
      | .commons f _ => t.count (fieldBlock f) 7 1
      | .bulk m _ => t.count (slotBlock m) 5 1
      | .nowhere => t
    (t.logFault (s.wordRec a stUNCORRECTABLE who), w, true)

/-- R77: a write of a whole word. -/
def State.writeWord (s : State) (a : Nat) (w : Word) (poison : Bool) : State :=
  { s with mem := s.mem.set a { data := w, good := w, poison } }

/-- The bytes of a word that a write gives, merged into another. -/
def mergeBytes (w : Word) (bs : List (Option Byte)) : Word :=
  (bs.zipIdx.take 8).foldl (fun w p => match p.1 with
    | none => w
    | some b => (w &&& ~~~(0xFF#64 <<< (8 * p.2))) ||| (b.setWidth 64 <<< (8 * p.2))) w

/-- A write covers a word whole. -/
def wholeWord (bs : List (Option Byte)) : Bool := bs.length = 8 && bs.all (·.isSome)

/-- R420, Table 18-4: a partial write is refused, and PARTIAL_WRITE_REFUSED of the word's field counts it. -/
def State.refuseMerge (s : State) (a : Nat) : State :=
  match placeOf a with
  | .bank f _ _ _ _ => s.count (fieldBlock f) 8 1
  | .commons f _ => s.count (fieldBlock f) 8 1
  | _ => s

/-- R420, Table 18-4: merges bytes into a word that was read, `was` whether its marker was set before the read. -/
def State.mergeRead (s : State) (a : Nat) (bs : List (Option Byte)) (ep was : Bool) (r : Word × Bool) : State :=
  if r.2 then (if was then s.logFault (s.wordRec a stDATA_POISON { acc := 2 }) else s).refuseMerge a
  else s.writeWord a (mergeBytes r.1 bs) ep

/-- R420, Table 18-4: a write of some bytes of a word. -/
def State.mergeWord (s : State) (a : Nat) (bs : List (Option Byte)) (ep : Bool) : State :=
  if bs.all (·.isNone) then s
  else if wholeWord bs then s.writeWord a (mergeBytes 0 bs) ep
  else
    let r := s.readWord a { acc := 2 }
    r.1.mergeRead a bs ep (s.mem.get a).poison r.2

/-- Reads `n` consecutive words. -/
def State.readWords (s : State) (a : Nat) (who : Who) : Nat → State × List (Word × Bool)
  | 0 => (s, [])
  | n + 1 =>
    let r := s.readWord a who
    let t := State.readWords r.1 (a + 1) who n
    (t.1, (r.2.1, r.2.2) :: t.2)

/-- Reads one more word of a line, where an uncorrectable word of it may have been recorded already. -/
def State.readNext (a : Nat) (who : Who) (r : State × List (Word × Bool) × Bool) (i : Nat) : State × List (Word × Bool) × Bool :=
  let x := r.1.mem.get (a + i)
  if x.judge.1 = .uncorrectable && r.2.2 then
    ({ r.1 with mem := r.1.mem.set (a + i) { x with poison := true } }, r.2.1 ++ [(x.judge.2, true)], true)
  else
    let w := r.1.readWord (a + i) who
    (w.1, r.2.1 ++ [w.2], r.2.2 || x.judge.1 = .uncorrectable)

/-- R275: reads the words of a line of a bulk module: each is judged, and one record and one count stand for all its uncorrectable
words. -/
def State.readLine (s : State) (a : Nat) (who : Who) : State × List (Word × Bool) :=
  let r := (List.range 8).foldl (State.readNext a who) (s, [], false)
  (r.1, r.2.1)

/-- Writes consecutive words with their poison. -/
def State.writeWords (s : State) (a : Nat) : List (Word × Bool) → State
  | [] => s
  | (w, p) :: ws => State.writeWords (s.writeWord a w p) (a + 1) ws

/-- The words of a row, as a row with its poison flags. -/
def rowOfWords (ws : List (Word × Bool)) : RowData :=
  { bits := ws.zipIdx.foldl (fun (r : Row) (p : (Word × Bool) × Nat) => r ||| (p.1.1.setWidth 512 <<< (64 * p.2))) 0,
    poison := ws.zipIdx.foldl (fun (r : BitVec 8) (p : (Word × Bool) × Nat) => if p.1.2 then r ||| (1#8 <<< p.2) else r) 0 }

/-- The words of a row. -/
def wordsOfRow (r : RowData) : List (Word × Bool) :=
  (List.range 8).map fun i => (r.bits.extractLsb' (64 * i) 64, r.poison.getLsbD i)

/-- Reads a bank row, R76 on each word. -/
def State.bankRow (s : State) (f c u row : Nat) (who : Who) : State × RowData :=
  let r := s.readWords (rowAddr f c u row) who 8
  (r.1, rowOfWords r.2)

/-- Writes a bank row (R77). -/
def State.setBankRow (s : State) (f c u row : Nat) (d : RowData) : State :=
  s.writeWords (rowAddr f c u row) (wordsOfRow d)

/-- Bytes of the commons of a field, `n` words from byte offset `off`, a multiple of 8. -/
def State.comWords (s : State) (f off n : Nat) (who : Who) : State × List (Word × Bool) :=
  s.readWords (commonsAddr f + off / 8) who n

end Sys2Proof.Machine
end

