-- ==== Sys2Proof/Machine/Flags.lean ====
section
/-! DEFINITION. Slots with their SAT and poison flags, order steps, settle flags and the poison of planes (R45, R78 to R82,
R107, R122, R206). -/

namespace Sys2Proof.Machine

/-! ### Registers of a BU -/

/-- What a plane register, or C or Z as 16 and 17, holds where it is not listed. -/
def Bu.plane0 (b : Bu) (i : Nat) : Plane :=
  match b.epoch with
  | none => {}
  | some e => {
      bits := (List.range 8).foldl (fun (r : Row) k => r ||| ((Config.freeWord e (8 * i + k)).setWidth 512 <<< (64 * k))) 0,
      poison := (Config.freeWord e (1000 + i)).setWidth 8 }
/-- What a scalar register holds where it is not listed. -/
def Bu.scalar0 (b : Bu) (i : Nat) : Scalar :=
  match b.epoch with
  | none => {}
  | some e => let w := Config.freeWord e (2000 + i); { val := w.setWidth 32, poison := bit w 32 }
/-- What a word of accumulator memory holds where it is not listed: 0, or in a word-row that a GCLOSE released, or a sleep lost,
an unspecified value (R104, R106). -/
def Bu.acc0 (b : Bu) (i : Nat) : AccWord :=
  match Sparse.find b.stale (i / 16) with
  | none => {}
  | some e =>
    let w := Config.freeSlot e i
    { data := w.setWidth 32, good := w.setWidth 32, sat := w.extractLsb' 32 2, poison := w.extractLsb' 34 2 }

def Bu.plane (b : Bu) (i : Nat) : Plane := Sparse.get (b.plane0 i) b.planes i
def Bu.setPlane (b : Bu) (i : Nat) (p : Plane) : Bu := { b with planes := Sparse.set (b.plane0 i) b.planes i p }
def Bu.scalar (b : Bu) (i : Nat) : Scalar := Sparse.get (b.scalar0 i) b.scalars i
def Bu.setScalar (b : Bu) (i : Nat) (x : Scalar) : Bu := { b with scalars := Sparse.set (b.scalar0 i) b.scalars i x }
def Bu.group (b : Bu) (g : Nat) : Group := Sparse.get {} b.groups g
def Bu.setGroup (b : Bu) (g : Nat) (x : Group) : Bu := { b with groups := Sparse.set {} b.groups g x }
def Bu.accWord (b : Bu) (i : Nat) : AccWord := Sparse.get (b.acc0 i) b.acc i
def Bu.setAccWord (b : Bu) (i : Nat) (x : AccWord) : Bu := { b with acc := Sparse.set (b.acc0 i) b.acc i x }

/-- R106, R378: a BU whose core leaves run: every register is lost. `e` tells the events of BUs apart. -/
def Bu.lose (b : Bu) (e : Nat) : Bu :=
  let n : Bu := { b with
    epoch := some e, planes := [], scalars := [], acc := [], stale := (List.range 32).map fun r => (r, 2 * e), groups := [],
    settled := 0, opens := [], opensOf := none }
  { n with c := n.plane0 16, z := n.plane0 17, executed := (Config.freeWord e 5000).setWidth 32 }

/-! ### Slots (R80) -/

/-- What a slot holds. -/
structure SlotVal where
  val : Int
  sat : Bool := false
  poison : Bool := false
deriving DecidableEq, Repr

/-- R80: the absolute slot of a group's slot offset. -/
def Group.abs (g : Group) (t : Nat) : Nat := if g.pair then 2 * g.base + t else g.base + t

/-- R80: the accumulator word of an absolute slot and lane. -/
def slotWord (pair : Bool) (abs lane : Nat) : Nat := (if pair then abs / 2 else abs) * 16 + lane
/-- R80: the half of the word, 0 in INT32. -/
def slotHalf (pair : Bool) (abs : Nat) : Nat := if pair then abs % 2 else 0

/-- A slot read from its word. -/
def AccWord.slot (x : AccWord) (pair : Bool) (half : Nat) : SlotVal :=
  { val := if pair then sext 16 (x.data.toNat / 65536 ^ half) else x.data.toInt, sat := x.sat.getLsbD half,
    poison := x.poison.getLsbD half }

/-- A bit of a bit vector set to a value. -/
def putBit {n : Nat} (x : BitVec n) (i : Nat) (v : Bool) : BitVec n :=
  if v then x ||| (1#n <<< i) else x &&& ~~~(1#n <<< i)

/-- A slot written into its word, with fresh check bits. -/
def AccWord.put (x : AccWord) (pair : Bool) (half : Nat) (v : SlotVal) : AccWord :=
  let d : BitVec 32 := if pair then
      (x.data &&& ~~~(0xFFFF#32 <<< (16 * half))) ||| (BitVec.ofNat 32 (lowBits 16 v.val) <<< (16 * half))
    else BitVec.ofInt 32 v.val
  { data := d, good := d, sat := putBit x.sat half v.sat, poison := putBit x.poison half v.poison }

def Bu.slot (b : Bu) (pair : Bool) (abs lane : Nat) : SlotVal := (b.accWord (slotWord pair abs lane)).slot pair (slotHalf pair abs)
def Bu.setSlot (b : Bu) (pair : Bool) (abs lane : Nat) (v : SlotVal) : Bu :=
  let i := slotWord pair abs lane
  b.setAccWord i ((b.accWord i).put pair (slotHalf pair abs) v)

/-- R122: a saturating add into a slot. -/
def SlotVal.add (v : SlotVal) (pair : Bool) (c : Int) (poison : Bool) : SlotVal :=
  let r := saturate pair (v.val + c)
  { val := r.1, sat := v.sat || r.2, poison := v.poison || poison }

/-- The word-rows of a group, first and end (R96). -/
def Group.rows (g : Group) : Nat × Nat := (g.base, g.base + groupRows g.count g.pair)

/-- R96: word-rows that an open group takes hold 0. -/
def Bu.freshRows (b : Bu) (lo hi : Nat) : Bu :=
  { b with acc := b.acc.filter fun p => p.1 / 16 < lo || hi ≤ p.1 / 16, stale := b.stale.filter fun p => p.1 < lo || hi ≤ p.1 }

/-- R104: word-rows that a closed group leaves hold unspecified values, since an event. -/
def Bu.staleRows (b : Bu) (lo hi e : Nat) : Bu :=
  let n := b.freshRows lo hi
  { n with stale := (List.range (hi - lo)).foldl (fun m i => Sparse.put m (lo + i) e) n.stale }

/-- R96, R104: a group closes; `key` tells the BUs apart. A closed group is left as it is. -/
def Bu.closeGroup (b : Bu) (key k : Nat) : Bu :=
  let g := b.group k
  if g.isOpen then
    { (b.staleRows g.rows.1 g.rows.2 (2 * (key + 98304 * b.closes) + 1)).setGroup k { g with isOpen := false, prov := false } with
      closes := b.closes + 1 }
  else b

/-- Closes the groups of a BU that meet a condition. -/
def Bu.closeGroups (b : Bu) (key : Nat) (p : Group → Bool) : Bu :=
  (List.range 8).foldl (fun b k => if p (b.group k) then b.closeGroup key k else b) b

/-- Who issues an instruction, and what its draws are keyed by (R119). -/
structure Ctx where
  f : Nat
  c : Nat
  /-- The pass run; none for host words. -/
  serial : Option Nat := none
  pass : Nat := 0xFFFFFFFF
  seed : Word := 0
  event : Nat := 0
  /-- The pass is speculative: its row writes are held (R187). -/
  held : Bool := false
  /-- Its GOPENs are provisional (R194). -/
  prov : Bool := false
  handle : Nat := 0
  payload : Option RowData := none
  /-- The broadcast bits came from a poisoned word. -/
  xp : Bool := false
  /-- Lanes that PRELOAD and a pure step address: those of a pass with a table whose L is below 16 (R63). -/
  lanes : Nat := 16
deriving DecidableEq, Repr

/-- R119: a group of base `p.1` and `p.2.1` slots in representation `p.2.2` covered a slot, or one of its halves. -/
def coversSlot (p : Nat × Nat × Bool) (pair : Bool) (abs : Nat) : Bool :=
  if p.2.2 then
    let lo := if pair then abs else 2 * abs
    2 * p.1 ≤ lo && lo < 2 * p.1 + p.2.1
  else
    let row := if pair then abs / 2 else abs
    p.1 ≤ row && row < p.1 + p.2.1

/-- R119: earlier GOPENs of this pass run whose groups covered a slot. -/
def Group.use (g : Group) (serial : Option Nat) (abs : Nat) : Nat :=
  if g.opener = serial then (g.prior.filter fun p => coversSlot p g.pair abs).length else 0

/-- A rounding draw of a slot in this context. -/
def Ctx.draw (x : Ctx) (g : Group) (u lane abs site event : Nat) : Nat :=
  srDraw x.seed x.pass event (g.use x.serial abs) site x.f x.c u lane abs

/-- R107: the order step on a slot. -/
def stepSlot (x : Ctx) (g : Group) (u lane abs : Nat) (v : SlotVal) : SlotVal :=
  if g.msb then
    let r := saturate g.pair (2 * v.val)
    { v with val := r.1, sat := v.sat || r.2 }
  else { v with val := roundShift v.val 1 (if g.sr then 1 else 0) (if g.sr then x.draw g u lane abs 0 x.event else 0) }

/-- Folds an operation over lanes 0 to `n` − 1. -/
def Bu.lanes (b : Bu) (n : Nat) (f : Nat → Bu → Bu) : Bu := (List.range n).foldl (fun b l => f l b) b

/-- R82: a lane takes part, under the mask in S0. -/
def Bu.enabled (b : Bu) (lm : Bool) (lane : Nat) : Bool := !lm || (b.scalar 0).val.getLsbD lane
/-- The mask in S0 is read and poisoned (R78). -/
def Bu.maskPoison (b : Bu) (lm : Bool) : Bool := lm && (b.scalar 0).poison
/-- R206: a lane's settle flag. -/
def Bu.isSettled (b : Bu) (lane : Nat) : Bool := b.settled.getLsbD lane

/-- Poisons a slot. -/
def Bu.poisonSlot (b : Bu) (g : Group) (t lane : Nat) : Bu :=
  let v := b.slot g.pair (g.abs t) lane
  b.setSlot g.pair (g.abs t) lane { v with poison := true }

/-- The change of one slot in each lane addressed: a settled lane ignores it (R206), an enabled one takes `f`, and a poisoned
mask poisons it whether enabled or not (R78). -/
def Bu.eachSlot (b : Bu) (g : Group) (t n : Nat) (lm : Bool) (f : Nat → SlotVal → SlotVal) : Bu :=
  b.lanes n fun l b =>
    if b.isSettled l then b
    else
      let v := b.slot g.pair (g.abs t) l
      let v := if b.enabled lm l then f l v else v
      if b.enabled lm l || b.maskPoison lm then
        b.setSlot g.pair (g.abs t) l { v with poison := v.poison || b.maskPoison lm } else b

/-! ### Poison of rows (R78) -/

/-- A run of row bits overlaps a poisoned word. -/
def RowData.poisoned (r : RowData) (lo len : Nat) : Bool :=
  (List.range 8).any fun w => r.poison.getLsbD w && lo < 64 * w + 64 && 64 * w < lo + len

/-- A row lane word with its poison (R74). -/
def RowData.laneWord (r : RowData) (l : Nat) : BitVec 32 × Bool := (r.bits.extractLsb' (32 * l) 32, r.poison.getLsbD (l / 2))

/-- The flags of an element-wise result: flags of those sources that reach it. -/
def reach (ps : List (Bool × BitVec 8)) : BitVec 8 := ps.foldl (fun a p => if p.1 then a ||| p.2 else a) 0

/-- R205, R206: bits of a drain status (Table 7-5a). -/
def dsAccSat : Nat := 0
def dsOutClamp : Nat := 1
def dsPoison : Nat := 2
def dsEscOverflow : Nat := 3
def dsNot2of4 : Nat := 4
def dsNan : Nat := 5
def dsLate : Nat := 6

/-- A drain status with a bit set where a condition holds. -/
def flagIf (st : BitVec 16) (b : Nat) (c : Bool) : BitVec 16 := if c then st ||| (1#16 <<< b) else st

/-! ### Accumulator check bits (R81) -/

/-- R81: checks an accumulator word before it is used. -/
def State.checkAcc (s : State) (f c u i : Nat) : State :=
  let b := s.bu f c u
  let x := b.accWord i
  if x.data = x.good then s
  else if popcount (x.data ^^^ x.good) = 1 then
    (s.setBu f c u (b.setAccWord i { x with data := x.good })).countCorrected (coreBlock f c) 15
  else
    ((s.setBu f c u (b.setAccWord i { x with good := x.data, poison := 3 })).count (coreBlock f c) 16 1).logFault {
      code := stUNCORRECTABLE, cls := 2, part := 1, field := f, core := c, bu := u, pbu := b.phys u,
      detail := leBytes 1 0xFF ++ leBytes 1 0 ++ leBytes 2 0xFFFF ++ leBytes 1 0xFF ++ leBytes 7 0 ++ leBytes 8 (2 ^ 64 - 1) }

/-- R81 over the words of a slot in lanes 0 to `n` − 1. -/
def State.checkSlot (s : State) (f c u : Nat) (g : Group) (t n : Nat) : State :=
  (List.range n).foldl (fun s l => s.checkAcc f c u (slotWord g.pair (g.abs t) l)) s

end Sys2Proof.Machine
end

