-- ==== Sys2Proof/Machine/Yield.lean ====
section
/-! DEFINITION. Yield points: the service of window accesses and scrub write-backs (R99, R100), and the completion of window
reads in order (R340). -/

namespace Sys2Proof.Machine

/-- Bytes of consecutive words. -/
def bytesOfWords (ws : List (Word × Bool)) : List Byte := (ws.map fun p => leBytes 8 p.1.toNat).flatten

/-- Bytes `byte` to `byte + len − 1` of a run of words from `a`, and whether a word of them is poisoned. -/
def State.readBytes (s : State) (a byte len : Nat) (who : Who) : State × List Byte × Bool :=
  if len = 0 then (s, [], false)
  else
    let r := s.readWords (a + byte / 8) who (cdiv (byte % 8 + len) 8)
    (r.1, ((bytesOfWords r.2).drop (byte % 8)).take len, r.2.any (·.2))

/-- A write of bytes with enables from byte `byte` of a run of words, word by word (R339, R420). -/
def State.writeBytes (s : State) (a byte : Nat) (bs : List (Option Byte)) (ep : Bool) : State :=
  let padded := List.replicate (byte % 8) none ++ bs
  (List.range (cdiv padded.length 8)).foldl (fun s i =>
    let w := (padded.drop (8 * i)).take 8
    s.mergeWord (a + byte / 8 + i) (w ++ List.replicate (8 - w.length) none) ep) s

/-- A read of bytes in one bank row: the BU reads the whole row, and R76 judges each of its words (R76, R100). -/
def State.readRowBytes (s : State) (a byte len : Nat) (who : Who) : State × List Byte × Bool :=
  let r := s.readWords a who 8
  (r.1, ((bytesOfWords r.2).drop byte).take len, ((r.2.drop (byte / 8)).take (cdiv (byte % 8 + len) 8)).any (·.2))

/-- The bytes that a write from byte `byte` of a row gives its word `i`. -/
def rowWordBytes (byte : Nat) (bs : List (Option Byte)) (i : Nat) : List (Option Byte) :=
  let w := ((List.replicate byte none ++ bs).drop (8 * i)).take 8
  w ++ List.replicate (8 - w.length) none

/-- A write of bytes in one bank row (R100): one that covers a word only partly reads the row once, merges every such word, and
writes the row (R420). -/
def State.writeRowBytes (s : State) (a byte : Nat) (bs : List (Option Byte)) (ep : Bool) : State :=
  let parts := (List.range 8).map (rowWordBytes byte bs)
  if parts.all fun w => w.all (·.isNone) || wholeWord w then s.writeBytes a byte bs ep
  else
    let was := (List.range 8).map fun i => (s.mem.get (a + i)).poison
    let r := s.readWords a { acc := 2 } 8
    parts.zipIdx.foldl (fun s p =>
      if p.1.all (·.isNone) then s
      else if wholeWord p.1 then s.writeWord (a + p.2) (mergeBytes 0 p.1) ep
      else s.mergeRead (a + p.2) p.1 ep (was.getD p.2 false) (r.2.getD p.2 (0, false))) r.1

/-- Inserts a piece in address order. -/
def insertPiece (p : Nat × List Byte × Bool) : List (Nat × List Byte × Bool) → List (Nat × List Byte × Bool)
  | [] => [p]
  | q :: qs => if p.1 < q.1 then p :: q :: qs else q :: insertPiece p qs

/-- Sends the completions of a window read, in ascending address order, each piece with its own EP (R339, R343). -/
def State.sendPieces (s : State) (port tag : Nat) (ps : List (Nat × List Byte × Bool)) : State :=
  ps.foldl (fun s p => s.emit port (.cpl port tag p.2.1 p.2.2)) s

/-- R340: completes every read whose pieces are served and whose earlier posted writes have landed. -/
def State.completeReads (s : State) : State :=
  let ready (q : WinReq) : Bool := q.waiting = 0 && q.behind.isEmpty
  let done := s.winReqs.filter ready
  done.foldl (fun s q => s.sendPieces q.port q.tag (q.got.foldl (fun l p => insertPiece p l) []))
    { s with winReqs := s.winReqs.filter fun q => !ready q }

/-- A piece of a read is served. -/
def State.pieceServed (s : State) (id addr : Nat) (bs : List Byte) (poison : Bool) : State :=
  State.completeReads { s with winReqs := s.winReqs.map fun q =>
    if q.id = id then { q with waiting := q.waiting - 1, got := q.got ++ [(addr, bs, poison)] } else q }

/-- A posted write lands. -/
def State.writeLanded (s : State) (id : Nat) : State :=
  State.completeReads { s with winReqs := s.winReqs.map fun q => { q with behind := q.behind.filter (· ≠ id) } }

/-- R100: serves one access of a BU. -/
def State.serveAccess (s : State) (f c u : Nat) (x : WinAcc) : State :=
  let a := rowAddr f c u x.row
  if x.write then (s.writeRowBytes a x.byte x.bytes x.ep).writeLanded x.req
  else
    let r := s.readRowBytes a x.byte x.len { acc := 1 }
    r.1.pieceServed x.req (a * 8 + x.byte) r.2.1 r.2.2

/-- R76, R100, R421: writes back a corrected word, unless it was rewritten in the meantime. -/
def State.scrubWord (s : State) (p : Nat × Stored) : State :=
  if s.mem.get p.1 = p.2 then
    let w := p.2.judge
    if w.1 = .corrected then s.writeWord p.1 w.2 false else s
  else s

/-- R99, R100: a yield point of a BU: the accesses that wait, at most 8, then the scrub write-backs. -/
def State.yieldPoint (s : State) (f c u : Nat) : State :=
  let b := s.bu f c u
  let t := s.setBu f c u { b with queue := b.queue.drop 8 }
  let t := (b.queue.take 8).foldl (fun s x => s.serveAccess f c u x) t
  let scr := (t.bu f c u).scrub
  scr.foldl State.scrubWord (t.updBu f c u fun b => { b with scrub := [] })

end Sys2Proof.Machine
end

