-- ==== Sys2Proof/Machine/Bank.lean ====
section
/-! DEFINITION. The operations of a bank unit's instructions on one BU (R84 to R98), each over the shared operand forms,
slots and flags. -/

namespace Sys2Proof.Machine

/-! ### Rows under run-ahead (R101, R191, R192) -/

/-- R192: the entry of the youngest pass no younger than this one that holds the row for this BU. -/
def heldFor (es : List HeldEntry) (serial : Option Nat) (row u : Nat) : Option RowData :=
  match serial with
  | none => none
  | some p => (es.foldl (fun (best : Option (Nat × RowData)) e =>
      if e.row = row && e.serial ≤ p then
        match Sparse.find e.data u with
        | none => best
        | some d => if (match best with | some q => decide (q.1 ≤ e.serial) | none => true) then some (e.serial, d) else best
      else best) none).map (·.2)

/-- R192: the row that a context reads. -/
def State.readRow (s : State) (x : Ctx) (u row : Nat) : State × RowData :=
  match heldFor (s.core x.f x.c).held x.serial row u with
  | some d => (s, d)
  | none => s.bankRow x.f x.c u row { acc := 0, handle := x.handle, pass := if x.serial.isSome then x.pass else 0xFFFF }

/-- R191: a held-write entry for this row and pass exists, or one is free. -/
def heldRoom (es : List HeldEntry) (serial row : Nat) : Bool :=
  es.any (fun e => e.row = row && e.serial = serial) || es.length < 64

/-- R191: writes a row into the held-write buffer. Entries stand in the order of their passes. -/
def holdRow (es : List HeldEntry) (serial row u : Nat) (d : RowData) : List HeldEntry :=
  if es.any (fun e => e.row = row && e.serial = serial) then
    es.map fun e => if e.row = row && e.serial = serial then { e with data := Sparse.put e.data u d } else e
  else if es.length < 64 then es ++ [{ row, serial, data := [(u, d)] }] else es

/-- The row that a context would read, without the read's checks taking effect. -/
def State.peekRow (s : State) (x : Ctx) (u row : Nat) : RowData := (s.readRow x u row).2

/-- R101, R187: a row write of a context: to the held-write buffer under speculation, else to the bank. -/
def State.putRow (s : State) (x : Ctx) (u row : Nat) (d : RowData) : State :=
  match x.held, x.serial with
  | true, some p => s.updCore x.f x.c fun k => { k with held := holdRow k.held p row u d }
  | _, _ => s.setBankRow x.f x.c u row d

/-! ### Validity in a state (R98, R102) -/

/-- R98, R93, R94, R96, R97: the limits that depend on a group register. -/
def groupOk (b : Bu) (w : Word) : Bool :=
  let inB := let g := b.group (insGrpB w); g.isOpen && insSlot w < g.count
  let pairEven := let g := b.group (insGrpB w); !g.pair || insSlot w % 2 = 0
  match insOp w with
  | 0x10 | 0x11 | 0x12 | 0x13 => inB
  | 0x14 => inB && pairEven
  | 0x15 => inB && pairEven && ((b.group (insGrpB w)).pair || insSlot w + 1 < (b.group (insGrpB w)).count)
  | 0x21 =>
    !(b.group (insGrpC w)).isOpen && (List.range 8).all fun i =>
      let g := b.group i
      !g.isOpen || goBase w + groupRows (goCount w) (goPair w) ≤ g.base || g.base + groupRows g.count g.pair ≤ goBase w
  | 0x22 => (b.group (insGrpC w)).isOpen
  | 0x23 => let g := b.group (insGrpC w); g.isOpen && drFirst w + drCount w ≤ g.count
  | _ => true

/-! ### Plane datapath (R85 to R88) -/

/-- Majority of three planes. -/
def maj3 (a b c : Row) : Row := (a &&& b) ||| (a &&& c) ||| (b &&& c)

/-- Operand B of a format A word (R85): the row, or P[ins.pb]. -/
def State.operandB (s : State) (x : Ctx) (u : Nat) (w : Word) : State × Plane :=
  if insRm w = 1 || insRm w = 3 then
    let r := s.readRow x u (insRow w)
    (r.1, { bits := r.2.bits, poison := r.2.poison })
  else (s, (s.bu x.f x.c u).plane (insPb w))

/-- R85: the predicate, the write of P[ins.pd] and the write of the row. -/
def State.planeResult (s : State) (x : Ctx) (u : Nat) (w : Word) (r : Plane) : State :=
  let b := s.bu x.f x.c u
  let p := b.plane (insPp w)
  let old := b.plane (insPd w)
  let r : Plane := if insPe w then
      { bits := (p.bits &&& r.bits) ||| (~~~p.bits &&& old.bits), poison := r.poison ||| p.poison ||| old.poison }
    else r
  let t := s.setBu x.f x.c u (b.setPlane (insPd w) r)
  if 2 ≤ insRm w then t.putRow x u (insRow w) { bits := r.bits, poison := r.poison } else t

/-- Chain input (Table 4-4): carry-in 0, C or 1. -/
def chainIn (b : Bu) (w : Word) : Plane :=
  match insCy w with
  | 1 => b.c
  | 2 => { bits := BitVec.allOnes 512 }
  | _ => {}

/-- Table 4-9: any two-input logic function by its table; which operands reach the result. -/
def opPlogic (x : Ctx) (u : Nat) (w : Word) (s : State) : State :=
  let r := s.operandB x u w
  let a := (r.1.bu x.f x.c u).plane (insPaA w)
  let b := r.2
  let m := insImm8 w
  let t (i : Nat) (p : Row) : Row := if nbit m i then p else 0
  let bits := t 0 (~~~a.bits &&& ~~~b.bits) ||| t 1 (~~~a.bits &&& b.bits) ||| t 2 (a.bits &&& ~~~b.bits) ||| t 3 (a.bits &&& b.bits)
  let usesA := nbit m 0 != nbit m 2 || nbit m 1 != nbit m 3
  let usesB := nbit m 0 != nbit m 1 || nbit m 2 != nbit m 3
  r.1.planeResult x u w { bits, poison := reach [(usesA, a.poison), (usesB, b.poison)] }

/-- PADD (Table 4-9). -/
def opPadd (x : Ctx) (u : Nat) (w : Word) (s : State) : State :=
  let r := s.operandB x u w
  let bu := r.1.bu x.f x.c u
  let a := bu.plane (insPaA w)
  let b := r.2
  let k := chainIn bu w
  let po := a.poison ||| b.poison ||| k.poison
  (r.1.setBu x.f x.c u { bu with c := { bits := maj3 a.bits b.bits k.bits, poison := po } }).planeResult x u w
    { bits := a.bits ^^^ b.bits ^^^ k.bits, poison := po }

/-- R86: C and Z after a compare or subtract step. -/
def compareStep (bu : Bu) (w : Word) (a b : Plane) : Bu :=
  let k := chainIn bu w
  let z : Plane := if insCy w = 1 then bu.z else { bits := BitVec.allOnes 512 }
  { bu with
    c := { bits := maj3 a.bits (~~~b.bits) k.bits, poison := a.poison ||| b.poison ||| k.poison }
    z := { bits := z.bits &&& ~~~(a.bits ^^^ b.bits), poison := z.poison ||| a.poison ||| b.poison } }

/-- PSUB (Table 4-9). -/
def opPsub (x : Ctx) (u : Nat) (w : Word) (s : State) : State :=
  let r := s.operandB x u w
  let bu := r.1.bu x.f x.c u
  let a := bu.plane (insPaA w)
  let b := r.2
  let k := chainIn bu w
  (r.1.setBu x.f x.c u (compareStep bu w a b)).planeResult x u w
    { bits := a.bits ^^^ ~~~b.bits ^^^ k.bits, poison := a.poison ||| b.poison ||| k.poison }

/-- PCMP (R86). -/
def opPcmp (x : Ctx) (u : Nat) (w : Word) (s : State) : State :=
  let r := s.operandB x u w
  let bu := r.1.bu x.f x.c u
  let inv (p : Plane) : Plane := if nbit (insImm8 w) 0 then { p with bits := ~~~p.bits } else p
  r.1.setBu x.f x.c u (compareStep bu w (inv (bu.plane (insPaA w))) (inv r.2))

/-- PFLAG (Table 4-9). -/
def opPflag (x : Ctx) (u : Nat) (w : Word) (s : State) : State :=
  let b := s.bu x.f x.c u
  let r : Plane := match insImm8 w % 4 with
    | 0 => b.c
    | 1 => b.z
    | 2 => { bits := b.c.bits &&& ~~~b.z.bits, poison := b.c.poison ||| b.z.poison }
    | _ => { b.c with bits := ~~~b.c.bits }
  s.planeResult x u w r

/-- PSEL (Table 4-9). -/
def opPsel (x : Ctx) (u : Nat) (w : Word) (s : State) : State :=
  let r := s.operandB x u w
  let b := r.1.bu x.f x.c u
  let a := b.plane (insPaA w)
  let p := b.plane (insImm8 w % 16)
  r.1.planeResult x u w { bits := (p.bits &&& a.bits) ||| (~~~p.bits &&& r.2.bits), poison := p.poison ||| a.poison ||| r.2.poison }

/-- PSHE (Table 4-9): element j of the result is A[j − s], with fill or wrap at the ends. -/
def shiftPlane (a : Plane) (sh : Int) (fill wrap : Bool) : Plane :=
  let src (j : Nat) : Option Nat :=
    let k : Int := (j : Int) - sh
    if 0 ≤ k ∧ k < 512 then some k.toNat else if wrap then some (k % 512).toNat else none
  { bits := (List.range 512).foldl (fun (r : Row) j =>
      if (match src j with | some k => a.bits.getLsbD k | none => fill) then r ||| (1#512 <<< j) else r) 0
    poison := (List.range 512).foldl (fun (r : BitVec 8) j =>
      if (match src j with | some k => a.poison.getLsbD (k / 64) | none => false) then r ||| (1#8 <<< (j / 64)) else r) 0 }

/-- PSHE. -/
def opPshe (x : Ctx) (u : Nat) (w : Word) (s : State) : State :=
  s.planeResult x u w (shiftPlane ((s.bu x.f x.c u).plane (insPaA w)) (sext 8 (insImm8 w)) (bit w 0) (bit w 1))

/-- PPOP (R87). -/
def opPpop (x : Ctx) (u : Nat) (w : Word) (s : State) : State :=
  let b := s.bu x.f x.c u
  let a := b.plane (insPaA w)
  let p := b.plane (insPp w)
  let n := popcount (if insPe w then a.bits &&& p.bits else a.bits)
  let po := a.poison ≠ 0 || (insPe w && p.poison ≠ 0)
  let old := b.scalar (insPd w % 8)
  let add := nbit (insImm8 w) 0
  s.setBu x.f x.c u (b.setScalar (insPd w % 8)
    { val := (if add then old.val else 0) + BitVec.ofNat 32 n, poison := po || (add && old.poison) })

/-- ROWCP. -/
def opRowcp (x : Ctx) (u : Nat) (w : Word) (s : State) : State :=
  let r := s.readRow x u (insRow w)
  r.1.putRow x u (insDrow w) r.2

/-- PBCAST (R88). -/
def opPbcast (x : Ctx) (u : Nat) (w : Word) (s : State) : State :=
  match x.payload with
  | some p => s.updBu x.f x.c u fun b => b.setPlane (insPd w) { bits := p.bits, poison := p.poison }
  | none => s

/-! ### Lookups (R59, R63, R89, R90) -/

/-- R59: the contribution of a table word for the broadcast bits of its group. -/
def lookupValue (g e word bits : Nat) : Int :=
  let entry (k : Nat) : Int := sext e (word / 2 ^ (k * e))
  let low := bits % 2 ^ (g - 1)
  if nbit bits (g - 1) then entry low else -(entry (2 ^ (g - 1) - 1 - low))

/-- The table word of a lane: its value, and whether it overlaps a poisoned word (R63, R78). -/
def tableWord (r : RowData) (g e lane : Nat) : Nat × Bool :=
  let n := 2 ^ (g - 1) * e
  (fld r.bits (lane * n) n, r.poisoned (lane * n) n)

/-- A group's slots in these lanes pass their check bits (R81); the BU after that. -/
def State.withSlot (s : State) (x : Ctx) (u : Nat) (w : Word) (n : Nat) : State :=
  s.checkSlot x.f x.c u ((s.bu x.f x.c u).group (insGrpB w)) (insSlot w) n

/-- LOOKUP (R89). -/
def opLookup (x : Ctx) (u : Nat) (w : Word) (s : State) : State :=
  let n := lanesOf (insG w) (insE w)
  let r := (s.withSlot x u w n).readRow x u (insRow w)
  let b := r.1.bu x.f x.c u
  let g := b.group (insGrpB w)
  let abs := g.abs (insSlot w)
  r.1.setBu x.f x.c u (b.eachSlot g (insSlot w) n (insLm w) fun l v =>
    let tw := tableWord r.2 (insG w) (insE w) l
    let v := if insSh w then stepSlot x g u l abs v else v
    v.add g.pair (lookupValue (insG w) (insE w) tw.1 (insX w)) (tw.2 || x.xp))

/-- LOOKUPS (R90, R137): `q` gives each enabled lane the place of its bits in P[ins.pa]. -/
def opLookups (x : Ctx) (u : Nat) (w : Word) (q : Nat → Option Nat) (s : State) : State :=
  let n := lanesOf (insG w) (insE w)
  let r := (s.withSlot x u w n).readRow x u (insRow w)
  let b := r.1.bu x.f x.c u
  let g := b.group (insGrpB w)
  let p := b.plane (insPaB w)
  r.1.setBu x.f x.c u (b.eachSlot g (insSlot w) n (insLm w) fun l v =>
    match q l with
    | none => v
    | some k =>
      let tw := tableWord r.2 (insG w) (insE w) l
      let lo := insG w * k
      let src : RowData := { bits := p.bits, poison := p.poison }
      v.add g.pair (lookupValue (insG w) (insE w) tw.1 (fld p.bits lo (insG w))) (tw.2 || src.poisoned lo (insG w)))

/-! ### MAC16, escapes, preload, compare-select, table build (R91 to R95) -/

/-- R91: a pure step reads no row. -/
def pureStep (w : Word) : Bool := !nbit (insMode w) 2 && insImm16 w = 0

/-- MAC16 (R91). -/
def opMac16 (x : Ctx) (u : Nat) (w : Word) (s : State) : State :=
  let s := s.withSlot x u w x.lanes
  let r := if pureStep w then (s, ({} : RowData)) else s.readRow x u (insRow w)
  let b := r.1.bu x.f x.c u
  let g := b.group (insGrpB w)
  let abs := g.abs (insSlot w)
  let m := insMode w
  let sc := b.scalar (insImm16 w % 8)
  let bRaw := if nbit m 2 then sc.val.toNat % 65536 else insImm16 w
  let bVal : Int := if nbit m 3 then sext 16 bRaw else bRaw
  let bPoison := (nbit m 2 && sc.poison) || x.xp
  let half := if nbit m 0 then 256 else 0
  r.1.setBu x.f x.c u (b.eachSlot g (insSlot w) x.lanes (insLm w) fun l v =>
    let v := if insSh w then stepSlot x g u l abs v else v
    if pureStep w then v
    else
      let aRaw := fld r.2.bits (half + 16 * l) 16
      let aVal : Int := if nbit m 1 then sext 16 aRaw else aRaw
      let p := saturate g.pair (aVal * bVal * pow2 (8 * (m / 16 % 4)))
      let v := v.add g.pair p.1 (r.2.poisoned (half + 16 * l) 16 || bPoison)
      { v with sat := v.sat || p.2 })

/-- R92: the product of an entry scaled by 2^h: saturated to the slot's range, and whether it was clamped, for h of at least 0; rounded
for a negative h. -/
def escapeTerm (g : Group) (h : Int) (v : Int) (draw : Nat) : Int × Bool :=
  if 0 ≤ h then saturate g.pair (v * pow2 h.toNat) else (roundShift v h.natAbs (if g.sr then 1 else 0) draw, false)

/-- The value of the streaming window at element `q` (R92), and its poison. -/
def windowValue (b : Bu) (pa n : Nat) (unsigned : Bool) (q : Nat) : Int × Bool :=
  let c : Nat := (List.range n).foldl (fun (k p : Nat) => if (b.plane (pa + p)).bits.getLsbD q then k + 2 ^ p else k) 0
  (if unsigned then (c : Int) else sext n c, (List.range n).any fun p => (b.plane (pa + p)).poison.getLsbD (q / 64))

/-- ESCMAC (R92). A settled lane ignores it (R206). -/
def opEscmac (x : Ctx) (u : Nat) (w : Word) (s : State) : State :=
  let r := s.readRow x u (insRow w)
  let b := r.1.bu x.f x.c u
  let g := b.group (insGrpB w)
  let i := insX w / 2
  let n := 8 * (insRow w % 2048 - insImm16 w / 32) + i
  let entry := fld r.2.bits (64 * i) 64
  let k := (b.scalar 4).val.toNat
  let nLanes := lanesOf (insG w) (insE w)
  -- R78: poisoned geometry registers poison every slot of the group in every enabled lane
  let geo := (b.scalar 4).poison || (b.scalar 5).poison || (b.scalar 6).poison || (b.scalar 7).poison
  let b := if geo then b.lanes nLanes fun l b =>
      if b.enabled (insLm w) l && !b.isSettled l then (List.range g.count).foldl (fun b t => b.poisonSlot g t l) b else b else b
  let b := if b.maskPoison (insLm w) then b.lanes nLanes fun l b => if b.isSettled l then b else b.poisonSlot g (insSlot w) l else b
  let t0 := r.1.setBu x.f x.c u b
  if (b.scalar 7).val.toNat ≤ n || k = 0 then t0
  else
    let pos := entry % 2 ^ 32
    let q : Int := (pos % k : Nat) - (b.scalar 5).val.toNat
    let t : Int := (pos / k : Nat) - (b.scalar 6).val.toNat
    if q < 0 ∨ 511 < q ∨ t < 0 then t0
    else
      let lane := t.toNat % nLanes
      let slot := insSlot w + t.toNat / nLanes
      if g.count ≤ slot || !b.enabled (insLm w) lane || b.isSettled lane then t0
      else
        let t1 := t0.checkAcc x.f x.c u (slotWord g.pair (g.abs slot) lane)
        let b := t1.bu x.f x.c u
        let xv := windowValue b (insPaB w) (insImm16 w % 32) (nbit (insX w) 0) q.toNat
        let term := escapeTerm g (sext 6 (insMode w)) (sext 16 (entry / 2 ^ 32) * xv.1)
          (x.draw g u lane (g.abs slot) 1 (n % 2 ^ 20))
        let v := (b.slot g.pair (g.abs slot) lane).add g.pair term.1 (xv.2 || r.2.poison.getLsbD i)
        t1.setBu x.f x.c u (b.setSlot g.pair (g.abs slot) lane { v with sat := v.sat || term.2 })

/-- PRELOAD (R93): a write or an add of one 32-bit value per lane; in INT16-pair it covers both halves. -/
def preloadLane (b : Bu) (g : Group) (t l : Nat) (add : Bool) (val : BitVec 32) (poison : Bool) : Bu :=
  let one (b : Bu) (t : Nat) (c : Int) : Bu :=
    let v := b.slot g.pair (g.abs t) l
    b.setSlot g.pair (g.abs t) l (if add then v.add g.pair c poison else { val := c, sat := v.sat, poison })
  if g.pair then one (one b t (sext 16 val.toNat)) (t + 1) (sext 16 (val.toNat / 65536)) else one b t val.toInt

/-- PRELOAD (R93). -/
def opPreload (x : Ctx) (u : Nat) (w : Word) (s : State) : State :=
  let s := s.withSlot x u w x.lanes
  let m := insMode w % 4
  let r := if m = 0 || m = 3 then s.readRow x u (insRow w) else (s, ({} : RowData))
  let b := r.1.bu x.f x.c u
  let g := b.group (insGrpB w)
  let sc := b.scalar (insImm16 w % 8)
  r.1.setBu x.f x.c u (b.lanes x.lanes fun l b =>
    if b.isSettled l then b
    else
      let src : BitVec 32 × Bool := if m = 1 then (BitVec.ofInt 32 (sext 16 (insImm16 w)), false)
        else if m = 2 then (sc.val, sc.poison) else r.2.laneWord l
      let b := if b.enabled (insLm w) l then preloadLane b g (insSlot w) l (m = 3) src.1 src.2 else b
      if b.maskPoison (insLm w) then b.poisonSlot g (insSlot w) l else b)

/-- R93, R109: a preload of the slot of one lane-set in an INT16-pair group, whose word holds the slot of another: each lane of the pass
that is not settled takes the low half of its row lane word, or the immediate, written, or with ins.mode 3 added with saturation. The
other half of the word stays. -/
def opHalf (x : Ctx) (u grp slot row mode imm : Nat) (s : State) : State :=
  let s := s.checkSlot x.f x.c u ((s.bu x.f x.c u).group grp) slot x.lanes
  let r := if mode = 0 || mode = 3 then s.readRow x u row else (s, ({} : RowData))
  let b := r.1.bu x.f x.c u
  let g := b.group grp
  r.1.setBu x.f x.c u (b.lanes x.lanes fun l b =>
    if b.isSettled l then b
    else
      let lw := r.2.laneWord l
      let c : Int × Bool := if mode = 1 then (sext 16 imm, false) else (sext 16 lw.1.toNat, lw.2)
      let v := b.slot g.pair (g.abs slot) l
      b.setSlot g.pair (g.abs slot) l (if mode = 3 then v.add g.pair c.1 c.2 else { val := c.1, sat := v.sat, poison := c.2 }))

/-- R94: the value slot and the index slot of a pair. -/
def cselSlots (g : Group) (t : Nat) : Nat × Nat := if g.pair then (t / 2 * 2, t / 2 * 2 + 1) else (t, t + 1)

/-- The index that a slot holds: unsigned. -/
def slotIndex (pair : Bool) (v : Int) : Nat := lowBits (if pair then 16 else 32) v

/-- CSEL (R94, R123). -/
def opCsel (x : Ctx) (u : Nat) (w : Word) (s : State) : State :=
  let s := s.withSlot x u w 16
  let g := (s.bu x.f x.c u).group (insGrpB w)
  let s := if g.pair then s else s.checkSlot x.f x.c u g (insSlot w + 1) 16
  let r := s.readRow x u (insRow w)
  let b := r.1.bu x.f x.c u
  let g := b.group (insGrpB w)
  let isMin := nbit (insMode w) 0
  let s3 := b.scalar 3
  let idx : Nat := (s3.val + BitVec.ofNat 32 (insImm16 w)).toNat % (if g.pair then 65536 else 2 ^ 32)
  let st := cselSlots g (insSlot w)
  let b := b.setGroup (insGrpB w) { g with csel := if isMin then 2 else 1 }
  r.1.setBu x.f x.c u (b.lanes 16 fun l b =>
    if b.isSettled l then b
    else
      let lw := r.2.laneWord l
      let cand : Int := if g.pair then sext 16 lw.1.toNat else lw.1.toInt
      let v := b.slot g.pair (g.abs st.1) l
      let i := b.slot g.pair (g.abs st.2) l
      let better := (if isMin then cand < v.val else v.val < cand) || (cand = v.val && idx < slotIndex g.pair i.val)
      let po := lw.2 || s3.poison
      let b := if b.enabled (insLm w) l then
          (b.setSlot g.pair (g.abs st.1) l { v with val := if better then cand else v.val, poison := v.poison || po }).setSlot
            g.pair (g.abs st.2) l
            { i with val := if better then sext (if g.pair then 16 else 32) idx else i.val, poison := i.poison || v.poison || po }
        else b
      if b.maskPoison (insLm w) then b.poisonSlot g (insSlot w) l else b)

/-- R58: entry k of a half-table. -/
def halfTableEntry (ws : List Int) (k : Nat) : Int :=
  let g := ws.length
  ((List.range (g - 1)).map fun i => ws.getD i 0 * (if nbit k i then 1 else -1)).sum + ws.getD (g - 1) 0

/-- R58, R63, R95: a table word from its values. -/
def buildWord (e : Nat) (ws : List Int) : Nat :=
  ((List.range (2 ^ (ws.length - 1))).map fun k => lowBits e (halfTableEntry ws k) * 2 ^ (k * e)).sum

/-- TBUILD (R95). -/
def opTbuild (x : Ctx) (u : Nat) (w : Word) (s : State) : State :=
  let g := insG w
  let e := insE w
  let n := lanesOf g e
  let wb := 2 ^ (g - 1) * e
  let r := if insLm w then s.readRow x u (insRow w) else (s, ({} : RowData))
  let b := r.1.bu x.f x.c u
  let src (l i : Nat) : Int :=
    let c := fld (b.plane (insPaB w + i)).bits (16 * l) 16
    if nbit (insMode w) 0 then (c : Int) else sext 16 c
  let word (l : Nat) : Nat := if b.enabled (insLm w) l then buildWord e ((List.range g).map (src l)) else fld r.2.bits (l * wb) wb
  -- a built word is poisoned by its sources and a poisoned mask; a kept one passes on the poison of the row word it stands in
  let poisons (l k : Nat) : Bool := b.maskPoison (insLm w) ||
    (if b.enabled (insLm w) l then (List.range g).any fun i => (b.plane (insPaB w + i)).poison.getLsbD (l / 4)
     else r.2.poison.getLsbD k)
  let bits := (List.range n).foldl (fun (a : Row) l => a ||| (BitVec.ofNat 512 (word l) <<< (l * wb))) 0
  let poison := (List.range 8).foldl (fun (a : BitVec 8) k =>
    if (List.range n).any (fun l => poisons l k && l * wb < 64 * k + 64 && 64 * k < l * wb + wb) then a ||| (1#8 <<< k) else a) 0
  r.1.putRow x u (insRow w) { bits, poison }

/-! ### Groups and scalars (R96, R103, SSET, SADD) -/

/-- GOPEN (R96, R103, R119, R194, R206). -/
def opGopen (x : Ctx) (u : Nat) (w : Word) (s : State) : State :=
  let b := s.bu x.f x.c u
  let prior := if b.opensOf = x.serial then b.opens else []
  let rows := groupRows (goCount w) (goPair w)
  let b := b.freshRows (goBase w) (goBase w + rows)
  s.setBu x.f x.c u { b.setGroup (insGrpC w)
    { isOpen := true, base := goBase w, count := goCount w, pair := goPair w, msb := goMsb w, sr := goSr w,
      prov := goProv w || x.prov, opener := x.serial, prior } with
    opens := prior ++ [(goBase w, goCount w, goPair w)], opensOf := x.serial, settled := 0 }

/-- GCLOSE (R96, R104). -/
def opGclose (x : Ctx) (u : Nat) (w : Word) (s : State) : State :=
  s.updBu x.f x.c u fun b => b.closeGroup (buKey x.f x.c u) (insGrpC w)

/-- SSET (Table 4-8). -/
def opSset (x : Ctx) (u : Nat) (w : Word) (s : State) : State :=
  s.updBu x.f x.c u fun b => b.setScalar (insSd w) { val := BitVec.ofNat 32 (insImm32 w) }

/-- SADD (Table 4-8). -/
def opSadd (x : Ctx) (u : Nat) (w : Word) (s : State) : State :=
  s.updBu x.f x.c u fun b =>
    let v := b.scalar (insSd w)
    b.setScalar (insSd w) { v with val := v.val + BitVec.ofNat 32 (insImm32 w) }

/-- NOP. -/
def opNop (_ : Ctx) (_ : Nat) (_ : Word) (s : State) : State := s

/-- YIELD (R99, R100). -/
def opYield (x : Ctx) (u : Nat) (_ : Word) (s : State) : State := s.yieldPoint x.f x.c u

/-- The operation of an opcode on one BU; LOOKUPS takes its places from the decoder, and DRAIN acts on the core. -/
def opOf (op : Nat) : Ctx → Nat → Word → State → State :=
  match op with
  | 0x01 => opPlogic | 0x02 => opPadd | 0x03 => opPsub | 0x04 => opPcmp | 0x05 => opPflag | 0x06 => opPsel | 0x07 => opPshe
  | 0x08 => opPpop | 0x09 => opRowcp | 0x0A => opPbcast | 0x10 => opLookup | 0x12 => opMac16 | 0x13 => opEscmac
  | 0x14 => opPreload | 0x15 => opCsel | 0x16 => opTbuild | 0x20 => opYield | 0x21 => opGopen | 0x22 => opGclose
  | 0x24 => opSset | 0x25 => opSadd | _ => opNop

end Sys2Proof.Machine
end

