-- ==== Sys2Proof/Machine/Descriptor.lean ====
section
/-! DEFINITION. The fields of a pass descriptor (Tables 7-1, 7-3, 7-4, 7-6, 9-1, 10-10). -/

namespace Sys2Proof.Machine

def Desc.kind (d : Desc) : Nat := fld d 0 4
def Desc.grp (d : Desc) : Nat := fld d 9 3
def Desc.base (d : Desc) : Nat := fld d 12 5
def Desc.gm1 (d : Desc) : Nat := fld d 18 2
def Desc.ec (d : Desc) : Nat := fld d 20 2
def Desc.ab (d : Desc) : Nat := fld d 22 5
def Desc.vx (d : Desc) : Nat := fld d 27 5
def Desc.settle (d : Desc) : Nat := fld d 7 2
def Desc.fmtS (d : Desc) : Nat := fld d 32 16
def Desc.fmtX (d : Desc) : Nat := fld d 48 16
def Desc.fmtO (d : Desc) : Nat := fld d 64 16
def Desc.rs (d : Desc) : Nat := fld d 80 5
def Desc.lantern (d : Desc) : Nat := fld d 88 8
def Desc.lto (d : Desc) : Nat := fld d 96 16
def Desc.back (d : Desc) : Nat := fld d 112 8
def Desc.arm (d : Desc) : Nat := fld d 120 4
def Desc.n (d : Desc) : Nat := fld d 128 16
def Desc.o (d : Desc) : Nat := fld d 144 16
def Desc.k (d : Desc) : Nat := fld d 160 24
def Desc.kbase (d : Desc) : Nat := fld d 192 32
def Desc.trow (d : Desc) : Nat := fld d 224 12
def Desc.m (d : Desc) : Nat := fld d 240 7
def Desc.xbase (d : Desc) : Nat := fld d 256 32
def Desc.xstride (d : Desc) : Nat := fld d 288 32
def Desc.erow (d : Desc) : Nat := fld d 320 12
def Desc.en (d : Desc) : Nat := fld d 336 16
def Desc.ftabOff (d : Desc) : Nat := fld d 352 32
def Desc.maskO (d : Desc) : Nat := fld d 384 32
def Desc.maskK (d : Desc) : Nat := fld d 416 32
def Desc.pad (d : Desc) : Nat := fld d 448 2
def Desc.padlit (d : Desc) : Nat := fld d 464 16
def Desc.settleT (d : Desc) : Nat := fld d 480 32
def Desc.dest (d : Desc) : Nat := fld d 640 3
def Desc.form (d : Desc) : Nat := fld d 643 2
def Desc.escAllow (d : Desc) : Nat := fld d 648 3
def Desc.dg (d : Desc) : Nat := fld d 651 2
def Desc.idxMode (d : Desc) : Nat := fld d 653 2
def Desc.shiftRaw (d : Desc) : Nat := fld d 656 8
def Desc.ifmt (d : Desc) : Nat := fld d 664 4
def Desc.iwidth (d : Desc) : Nat := fld d 668 4
def Desc.addr (d : Desc) : Nat := fld d 672 48
def Desc.dfield (d : Desc) : Nat := fld d 720 7
def Desc.vstride (d : Desc) : Nat := fld d 736 16
def Desc.limitRaw (d : Desc) : Nat := fld d 752 16
def Desc.spCtab (d : Desc) : Nat := fld d 768 32
def Desc.spNcard (d : Desc) : Nat := fld d 800 16
def Desc.spForm (d : Desc) : Nat := fld d 816 2
def Desc.xsOff (d : Desc) : Nat := fld d 832 32
def Desc.xsN (d : Desc) : Nat := fld d 864 32
def Desc.xshOff (d : Desc) : Nat := fld d 896 32
def Desc.xsKtot (d : Desc) : Nat := fld d 928 32
def Desc.plOff (d : Desc) : Nat := fld d 832 32
def Desc.plLen (d : Desc) : Nat := fld d 864 16
def Desc.plRep (d : Desc) : Nat := fld d 880 16
def Desc.rdLevel (d : Desc) : Nat := fld d 832 8
def Desc.rdCores (d : Desc) : Nat := fld d 840 8
def Desc.rdFields (d : Desc) : Nat := fld d 848 96
def Desc.rdFirst (d : Desc) : Nat := fld d 960 16
def Desc.rdUnits (d : Desc) : Nat := fld d 976 16
def Desc.rtOff (d : Desc) : Nat := fld d 832 32
def Desc.rtArms (d : Desc) : Nat := fld d 864 8
def Desc.edProg (d : Desc) : Nat := fld d 832 32
def Desc.edLen (d : Desc) : Nat := fld d 864 16
def Desc.edPro (d : Desc) : Nat := fld d 880 16
def Desc.edKinRaw (d : Desc) : Nat := fld d 896 8
def Desc.edKoutRaw (d : Desc) : Nat := fld d 904 8
def Desc.edNscr (d : Desc) : Nat := fld d 912 7
def Desc.edScr (d : Desc) : Nat := fld d 928 32
def Desc.edOut (d : Desc) : Nat := fld d 960 32
def Desc.edOstride (d : Desc) : Nat := fld d 992 32
def Desc.mvKind (d : Desc) : Nat := fld d 832 4
def Desc.mvLen (d : Desc) : Nat := fld d 864 32
def Desc.mvSrc (d : Desc) : Nat := fld d 896 64
def Desc.mvDst (d : Desc) : Nat := fld d 960 64
def Desc.msb (d : Desc) : Bool := bit d 4
def Desc.sr (d : Desc) : Bool := bit d 5
def Desc.pair (d : Desc) : Bool := bit d 6
def Desc.opens (d : Desc) : Bool := bit d 17
def Desc.xlay (d : Desc) : Bool := bit d 85
def Desc.mo (d : Desc) : Bool := bit d 86
def Desc.mk (d : Desc) : Bool := bit d 87
def Desc.fence (d : Desc) : Bool := bit d 124
def Desc.dbuf (d : Desc) : Bool := bit d 125
def Desc.xsrc (d : Desc) : Bool := bit d 126
def Desc.layout (d : Desc) : Bool := bit d 645
def Desc.escFatal (d : Desc) : Bool := bit d 646
def Desc.ftab (d : Desc) : Bool := bit d 647
def Desc.tcom (d : Desc) : Bool := bit d 727

/-- G of a pass. -/
def Desc.g (d : Desc) : Nat := Desc.gm1 d + 1
/-- e of a pass in bits. -/
def Desc.e (d : Desc) : Nat := 4 * 2 ^ Desc.ec d
/-- V, the virtual planes. -/
def Desc.v (d : Desc) : Nat := Desc.ab d + Desc.vx d
/-- L of a pass: R63 for table passes, 16 otherwise. -/
def Desc.lanes (d : Desc) : Nat := if Desc.kind d ≤ 3 then lanesOf (Desc.g d) (Desc.e d) else 16
/-- Lane-sets of a pass's tile. -/
def Desc.laneSets (d : Desc) : Nat := cdiv (Desc.o d) (Desc.lanes d)
/-- The signed drain shift. -/
def Desc.shift (d : Desc) : Int := sext 8 (Desc.shiftRaw d)
/-- The destination region in 64-byte units; 0 means 65,536 (Table 7-4). -/
def Desc.limit (d : Desc) : Nat := if Desc.limitRaw d = 0 then 65536 else Desc.limitRaw d
/-- pass.settle_t, INT32. -/
def Desc.threshold (d : Desc) : Int := sext 32 (Desc.settleT d)
/-- The signed edge exponents. -/
def Desc.edKin (d : Desc) : Int := sext 8 (Desc.edKinRaw d)
def Desc.edKout (d : Desc) : Int := sext 8 (Desc.edKoutRaw d)
/-- A dependency entry (Table 7-3). -/
def Desc.dep (d : Desc) (i : Nat) : Nat := fld d (512 + 32 * i) 32
/-- The valid dependencies: field and pass. -/
def Desc.deps (d : Desc) : List (Nat × Nat) :=
  ((List.range 4).filter fun i => nbit (Desc.dep d i) 23).map fun i => (Desc.dep d i / 65536 % 128, Desc.dep d i % 65536)
/-- The GOPEN word of a pass's group, as R96 lays it out. -/
def Desc.gopenImm (d : Desc) : Nat :=
  Desc.base d + Desc.m d * 32 + (if Desc.pair d then 4096 else 0) + (if Desc.msb d then 8192 else 0) + (if Desc.sr d then 16384 else 0)

/-- Table 5-1: the scale of the finished slot, for a streaming alignment exponent `m`. -/
def Desc.scale (d : Desc) (m : Int) : Int :=
  (Desc.rs d : Int) + m + Desc.ab d - (if Desc.msb d then (Desc.v d : Int) else 1) - (Fmt.ofWord (Desc.fmtX d)).factor

end Sys2Proof.Machine
end

