-- ==== Sys2Proof/Machine/Frames.lean ====
section
/-! DEFINITION. Frames of module links (R258, R259): their layout, the command and data frames of the unit's requests, credits and the
replay buffer. -/

namespace Sys2Proof.Machine

/-- A frame (Table 11-1). -/
abbrev Frame := BitVec 2176

def bfSeq (f : Frame) : Nat := fld f 0 10
def bfType (f : Frame) : Nat := fld f 10 2
def bfAck (f : Frame) : Nat := fld f 16 10
def bfAckv (f : Frame) : Bool := bit f 26
def bfCredit (f : Frame) : Nat := fld f 32 8
def bfChan (f : Frame) : Nat := fld f 40 3
def bfPoison (f : Frame) : BitVec 32 := f.extractLsb' 2112 32
def bfPayload (f : Frame) : BitVec 2048 := f.extractLsb' 64 2048
/-- The bits of a frame that Table 11-1 gives as 0. -/
def bfReservedOk (f : Frame) : Bool := fld f 12 4 = 0 && fld f 27 5 = 0 && fld f 43 5 = 0 && (bfType f ≤ 1 || bfSeq f = 0)
/-- Bytes 0 to 267. -/
def frameBytes (f : Frame) : List Byte := leBytes 268 (f.toNat % 2 ^ 2144)
/-- The CRC of a frame holds. -/
def frameCrc (f : Frame) : Bool := (crc32c (frameBytes f)).toNat = fld f 2144 32

/-- A frame without acknowledgement, credit and CRC. -/
def mkFrame (seq type chan : Nat) (tag : BitVec 16) (payload : BitVec 2048) (poison : BitVec 32) : Frame :=
  BitVec.ofNat 2176 (seq + type * 2 ^ 10 + chan % 8 * 2 ^ 40 + tag.toNat * 2 ^ 48 + payload.toNat * 2 ^ 64 + poison.toNat * 2 ^ 2112)

/-- A frame as a link sends it: with the last number received in order, the frames freed, and the CRC. -/
def Slot.finish (x : Slot) (f : Frame) : Frame :=
  let g : Frame := f ||| BitVec.ofNat 2176 ((if x.rxAny then (x.rxSeq + 1023) % 1024 * 2 ^ 16 + 2 ^ 26 else 0) + x.freed % 256 * 2 ^ 32)
  g ||| BitVec.ofNat 2176 ((crc32c (frameBytes g)).toNat * 2 ^ 2144)

/-- Sends a frame on a module link. -/
def State.sendFrame (s : State) (m : Nat) (f : Frame) : State := { s with out := s.out ++ [Out.frame m ((s.slot m).finish f)] }

/-- The link may send one more sequenced frame. -/
def Slot.frameRoom (x : Slot) : Bool := x.st = .active && 0 < x.credits && x.replay.length < 256

/-- The frame that carries an item: a data frame with its bytes, or a command frame, whose payload is internal. -/
def itemFrame (seq n : Nat) (x : BulkItem) : Frame :=
  match x.data with
  | some d => mkFrame seq 0 x.chan (Config.frameTag n) d.1 d.2
  | none => mkFrame seq 1 x.chan (Config.frameTag n) (Config.framePayload n) 0

/-- Sends the frames that wait, while credit and the replay buffer allow. -/
def State.sendFrames (s : State) (m : Nat) : Nat → State
  | 0 => s
  | n + 1 => match (s.slot m).waiting with
    | [] => s
    | i :: rest =>
      if (s.slot m).frameRoom then
        let x := s.slot m
        let f := itemFrame x.txSeq s.freeCtr i
        let t := ({ s with freeCtr := s.freeCtr + 1 }.setSlot m { x with
          waiting := rest, txSeq := (x.txSeq + 1) % 1024, replay := x.replay ++ [(f, i)], credits := x.credits - 1 }).sendFrame m f
        State.sendFrames t m n
      else s

/-- A request to a module: its frames join those that wait. The request's own effect on the module is at once (log entry 20). -/
def State.bulkRequest (s : State) (m : Nat) (items : List BulkItem) : State :=
  let t := s.updSlot m fun x => { x with waiting := x.waiting ++ items }
  t.sendFrames m ((t.slot m).waiting.length)

/-- Words as the payload of a data frame, with the poison mask of Table 11-1. -/
def framePayload (ws : List (Word × Bool)) : BitVec 2048 × BitVec 32 :=
  (ws.zipIdx.foldl (fun (a : BitVec 2048) (p : (Word × Bool) × Nat) => a ||| (p.1.1.setWidth 2048 <<< (64 * p.2))) 0,
   ws.zipIdx.foldl (fun (a : BitVec 32) (p : (Word × Bool) × Nat) => if p.1.2 then a ||| (1#32 <<< p.2) else a) 0)

/-- The data frames of words from word `off` of a module on: one for each 256-byte block, which lies in one channel (R262; log entry
20). -/
def dataItems (tmpl : BulkItem) : Nat → Nat → List (Word × Bool) → List BulkItem
  | 0, _, _ => []
  | fuel + 1, off, ws =>
    if ws.isEmpty then []
    else
      let n := 32 - off % 32
      { tmpl with chan := off / 32 % 8, data := some (framePayload (ws.take n)) } :: dataItems tmpl fuel (off + n) (ws.drop n)

/-- The frames of a write of words to a module: a command, and the data. -/
def writeItems (tmpl : BulkItem) (off : Nat) (ws : List (Word × Bool)) : List BulkItem :=
  { tmpl with chan := off / 32 % 8, data := none } :: dataItems tmpl ws.length off ws

/-- Frames of a slot that are not sent, or not acknowledged. -/
def Slot.unacked (x : Slot) : List BulkItem := x.waiting ++ x.replay.map (·.2)

/-- R267: a frame of a pass run is not acknowledged by a buffer chip. -/
def State.bulkBusy (s : State) (f c serial : Nat) : Bool := s.slots.any fun p => p.2.unacked.any (·.who = some (f, c, serial))

/-- R157: a bulk drain or copy of a pass has not landed: a frame of it is not acknowledged. -/
def State.bulkPending (s : State) (job : Word) (f idx : Nat) : Bool :=
  s.slots.any fun p => p.2.unacked.any fun i => i.job = job && i.idx = idx && (match i.who with | some w => w.1 = f | none => false)

end Sys2Proof.Machine
end

