-- ==== Sys2Proof/Machine/Drain.lean ====
section
/-! DEFINITION. The drain path and the fulling unit (R97, R104, R124, R125, R148 to R152, R159, R468): capture of slots, the
drain steps, output forms, layout of a vector's region and its delivery. -/

namespace Sys2Proof.Machine

/-! ### Plans, passes and jobs -/

def State.plan (s : State) (i : Nat) : Option Plan := Sparse.find s.plans i
/-- A plan's part of a field. -/
def Plan.inField (p : Plan) (f : Nat) : Option PlanField := p.fields.find? (·.field = f)
/-- The part of a plan in a field. -/
def State.planField (s : State) (plan f : Nat) : Option PlanField := (s.plan plan).bind (·.inField f)
def State.job (s : State) (h : Word) : Option Job := s.jobs.find? (·.handle = h)
def State.updJob (s : State) (h : Word) (g : Job → Job) : State :=
  { s with jobs := s.jobs.map fun j => if j.handle = h then g j else j }
/-- A pass of a core's window, by its run number. -/
def Core.pass (k : Core) (serial : Nat) : Option WinPass := k.window.find? (·.serial = serial)
def State.updPass (s : State) (f c serial : Nat) (g : WinPass → WinPass) : State :=
  s.updCore f c fun k => { k with window := k.window.map fun w => if w.serial = serial then g w else w }
/-- R196: a fault held with its pass; the first one stands, and the pass issues nothing more. -/
def State.passFault (s : State) (f c serial : Nat) (e : PassFault) : State :=
  s.updPass f c serial fun w => { w with fault := some (w.fault.getD e), todo := [], issued := true }
/-- Bytes of a plan's commons window (R169). -/
def State.comBytes (s : State) (pf : PlanField) (off len : Nat) (who : Who) : State × List Byte × Bool :=
  s.readBytes (commonsAddr pf.field) (pf.comBase + off) len who
/-- Table 7-11. -/
def capDetail (res field core bu need have_ : Nat) : List Byte :=
  leBytes 1 res ++ leBytes 1 field ++ leBytes 1 core ++ leBytes 1 bu ++ leBytes 4 need ++ leBytes 4 have_ ++
    leBytes 4 (need - have_)

/-! ### Capture (R97, R104) -/

/-- A slot as an output. -/
def captureSlot (b : Bu) (g : Group) (serial : Option Nat) (u t lane out : Nat) (pairs masked : Bool) : Output :=
  let v := b.slot g.pair (g.abs t) lane
  let i := b.slot g.pair (g.abs (t + 1)) lane
  { val := v.val, sat := v.sat, poison := v.poison, bu := u, lane, slot := g.abs t, use := g.use serial (g.abs t), out, masked, pair := g.pair,
    idx := if pairs then some (slotIndex g.pair i.val) else none, idxPoison := pairs && i.poison }

/-- R81 on every word of a group that a DRAIN reads. -/
def State.checkGroup (s : State) (f c grp first count : Nat) : State :=
  allBus.foldl (fun s u => (List.range count).foldl (fun s t => s.checkSlot f c u ((s.bu f c u).group grp) (first + t) 16) s) s

/-- R126, R162: the slot offset of a lane-set in a block; a (value, index) pair takes two. -/
def tileSlot (nls block ls : Nat) (pairs : Bool) : Nat := (block * nls + ls) * (if pairs then 2 else 1)

/-- A vector's outputs of some lane-sets of a descriptor's tile, in ascending BU and output (R468). Where the pass's masks select no
reduction element, every one is padding (R166). -/
def captureTile (s : State) (f c grp : Nat) (d : Desc) (serial : Nat) (vec mask : Nat) (noElement : Bool) (sets : List Nat) : List Output :=
  let l := (Sparse.find (s.core f c).lanesOf grp).getD 16
  let nls := cdiv (Desc.o d) l
  let block := if Desc.dbuf d then vec % 2 else 0
  (allBus.map fun u =>
    let b := s.bu f c u
    let g := b.group grp
    let pairs := g.csel ≠ 0 || Desc.idxMode d ≠ 0
    ((List.range (Desc.o d)).filter fun t => sets.contains (t / l)).map fun t =>
      captureSlot b g (some serial) u (tileSlot nls block (t / l) pairs) (t % l) t pairs
        (noElement || (Desc.mo d && !nbit mask (u * Desc.o d + t)))).flatten

/-- The outputs of a microprogram's DRAIN word: by word-row, then BU, slot and lane (R468). -/
def captureWord (s : State) (f c : Nat) (w : Word) (d : Desc) (serial : Nat) (us : List Nat) : List Output :=
  let grp := insGrpC w
  let first := drFirst w
  let n := drCount w
  let per := if ((s.bu f c (us.getD 0 0)).group grp).pair then 2 else 1
  let row0 := first / per
  ((List.range (cdiv (first % per + n) per)).map fun r =>
    (us.map fun u =>
      let b := s.bu f c u
      let g := b.group grp
      let pairs := g.csel ≠ 0 || Desc.idxMode d ≠ 0
      (((List.range per).map fun h => (row0 + r) * per + h).filter fun t =>
          first ≤ t && t < first + n && (!pairs || (t - first) % 2 = 0)).map (fun t =>
        (List.range 16).map fun lane => captureSlot b g (some serial) u t lane ((t - first) * 16 + lane) pairs false)
        |>.flatten).flatten).flatten

/-! ### Steps 1 to 3 (Table 5-5) -/

/-- A coded output: code, whether step 2 changed it, poison, masked. -/
structure Coded where
  code : Nat
  clamp : Bool
  poison : Bool
  masked : Bool
deriving DecidableEq, Repr

/-- Step 1: the shifted value. -/
def drainShift (d : Desc) (align : Int) (mode draw : Nat) (v : Int) : Int :=
  let sh := clampInt (-31) 63 (Desc.shift d + align)
  if 0 < sh then roundShift v sh.toNat mode draw else v * pow2 (-sh).toNat

/-- Step 2 for a format: the value and whether it changed; BIN takes the sign. -/
def drainClamp (f : Fmt) (v : Int) : Int × Bool :=
  let r := if f.isBin then (if 0 ≤ v then 1 else -1) else clampInt f.min f.max v
  (r, decide (r ≠ v))

/-- The index format of a function table. -/
def Desc.indexFmt (d : Desc) : Fmt := ⟨Desc.ifmt d, Desc.iwidth d, false, 0, 0⟩

/-- Steps 1 to 3 of an output in a format other than BSF (R124, R125, R208). -/
def codeOutput (d : Desc) (align : Int) (tab : List (Nat × Bool)) (draw : Nat) (o : Output) : Coded :=
  let f := Fmt.ofWord (Desc.fmtO d)
  if o.masked then ⟨f.pad (Desc.pad d) (Desc.padlit d), false, false, true⟩
  else if Desc.settle d = 2 && Desc.kind d = 1 then ⟨if Desc.threshold d ≤ o.val then 1 else 0, false, o.poison, false⟩
  else
    let v := drainShift d align f.round draw o.val
    if Desc.ftab d then
      let r := drainClamp (Desc.indexFmt d) v
      let e := tab.getD (lowBits 8 r.1) (0, false)
      ⟨e.1 % 2 ^ f.width, r.2, o.poison || e.2, false⟩
    else
      let r := drainClamp f v
      ⟨f.code_ r.1, r.2, o.poison, false⟩

/-! ### Layouts -/

/-- A list cut into pieces of `n`; `fuel` at least its length. -/
def chunksOf {α : Type} (n : Nat) : Nat → List α → List (List α)
  | 0, _ => []
  | fuel + 1, l => if l.isEmpty then [] else l.take n :: chunksOf n fuel (l.drop n)

/-- Zero words up to a multiple of `n` words. -/
def padWords (n : Nat) (ws : List (Word × Bool)) : List (Word × Bool) :=
  ws ++ List.replicate ((n - ws.length % n) % n) (0, false)

/-- R34: containers of `cb` bits packed into words, with poison. -/
def packWords (cb : Nat) (xs : List (Nat × Bool)) : List (Word × Bool) :=
  (chunksOf (64 / cb) xs.length xs).map fun l =>
    (BitVec.ofNat 64 (l.zipIdx.foldl (fun a p => a + p.1.1 * 2 ^ (cb * p.2)) 0), l.any (·.2))

/-- R35: planes of `n` bits, 512 elements to a row. -/
def planeWords (n : Nat) (xs : List (Nat × Bool)) : List (Word × Bool) :=
  ((chunksOf 512 xs.length xs).map fun blk =>
    ((List.range n).map fun p =>
      (List.range 8).map fun k =>
        let l := (blk.drop (64 * k)).take 64
        (BitVec.ofNat 64 (l.zipIdx.foldl (fun a q => if nbit q.1.1 p then a + 2 ^ q.2 else a) 0), l.any (·.2))).flatten).flatten

/-- Form 0 (Table 6-7). -/
def denseWords (f : Fmt) (planes : Bool) (xs : List (Nat × Bool)) : List (Word × Bool) :=
  if planes then planeWords f.width xs
  else packWords (containerBits f.bits) (xs.map fun p => (f.contain p.1, p.2))

/-- R145, R148: the positions that a quad stores: its non-zero elements, then the lowest zero positions. -/
def quadPositions (nz : List Bool) : List Nat :=
  let is := (List.range 4).filter fun i => nz.getD i false
  let zs := (List.range 4).filter fun i => !nz.getD i false
  let two := is.take 2 ++ zs.take (2 - is.length)
  (List.range 4).filter fun i => two.contains i

/-- Form 1: the pack, or none where a quad holds more than two non-zero codes (R151). -/
def packQuads (f : Fmt) (xs : List (Nat × Bool)) : Option (List (Word × Bool)) :=
  let nz (p : Nat × Bool) : Bool := p.1 ≠ 0 || p.2
  let quads := chunksOf 4 xs.length xs
  if quads.any fun q => 2 < (q.filter nz).length then none
  else
    let cb := containerBits f.bits
    some (((chunksOf 32 quads.length quads).map fun blk =>
      let vals := (blk.map fun q => (quadPositions (q.map nz)).map fun i =>
        let e := q.getD i (0, false); (f.contain e.1, e.2)).flatten
      let vw := packWords cb vals
      -- values end at a byte; the 16 bytes of codes follow it
      let vbytes := cdiv (vals.length * cb) 8
      let vbs := (bytesOfWords vw).take vbytes
      let codes := (blk.map fun q => ((quadPositions (q.map nz)).map (2 ^ ·)).sum).zipIdx.foldl (fun a p => a + p.1 * 16 ^ p.2) 0
      (vbs.zipIdx.map fun p => (p.1, (vw.getD (p.2 / 8) (0, false)).2)) ++ (leBytes 16 codes).map fun b => (b, false)).flatten
      |> fun bs => (chunksOf 8 bs.length bs).map fun l => (BitVec.ofNat 64 (leNat (l.map (·.1))), l.any (·.2)))

/-- R133: the bitmap record of `nz` groups, as 16-bit words. -/
def bitmapRecord (nz : List Bool) : List Nat :=
  let word (l : List Bool) : Nat := l.zipIdx.foldl (fun a p => if p.1 then a + 2 ^ p.2 else a) 0
  let runs := chunksOf 16 nz.length nz
  let blocks := chunksOf 16 runs.length runs
  let l2 := blocks.map fun b => b.any fun r => r.any id
  let l2w := (chunksOf 16 l2.length l2).map word
  let l1w := (blocks.filter fun b => b.any fun r => r.any id).map fun b => word (b.map fun r => r.any id)
  let l0w := (runs.filter fun r => r.any id).map word
  l2w ++ l1w ++ l0w

/-- Form 2: the record, to a row boundary, then the values of the non-zero groups. -/
def bitmapWords (f : Fmt) (g : Nat) (xs : List (Nat × Bool)) : List (Word × Bool) :=
  let groups := chunksOf g xs.length xs
  let nz (l : List (Nat × Bool)) : Bool := l.any fun p => p.1 ≠ 0 || p.2
  let vals := (groups.filter nz).map fun l => l ++ List.replicate (g - l.length) (0, false)
  padWords 8 (packWords 16 ((bitmapRecord (groups.map nz)).map fun w => (w, false))) ++
    packWords (containerBits f.bits) (vals.flatten.map fun p => (f.contain p.1, p.2))

/-! ### BSF (R149) -/

/-- A drained value of a BSF output: exact value after step 2, whether it was clamped, and the draw of its slot. -/
structure BsfIn where
  val : Int
  clamp : Bool
  poison : Bool
  masked : Bool
  draw : Nat
deriving DecidableEq, Repr

/-- What the fulling unit has formed of a BSF operand. -/
structure BsfOut where
  codes : List (Nat × Bool) := []
  shifts : List Nat := []
  entries : List (Nat × Int) := []
  overflow : Nat := 0
deriving DecidableEq, Repr

/-- R41: the entry limit of segment `k` of `n` elements. -/
def segmentLimit (n k : Nat) : Nat := if 4096 * (k + 1) ≤ n then 128 else cdiv (n - 4096 * k) 32

/-- R149: the least shift that leaves at most `allow` elements outside, and all within SINT16. -/
def chooseShift (f : Fmt) (allow : Nat) (vs : List Int) : Nat :=
  ((List.range 32).find? fun sh =>
    (vs.filter fun v => decide (v < f.min * pow2 sh ∨ f.max * pow2 sh < v)).length ≤ allow &&
      vs.all fun v => decide (-32768 * pow2 sh ≤ v ∧ v ≤ 32767 * pow2 sh)).getD 31

/-- R149, R51: forms one group that starts at element `pos` of `total`. -/
def formGroup (f : Fmt) (allow padKind padLit total pos : Nat) (xs : List BsfIn) (a : BsfOut) : BsfOut :=
  let e := xs.filter fun x => !x.masked && !x.poison
  let sh := if e.isEmpty then (if padKind = 1 || padKind = 2 then 31 else 0) else chooseShift f allow (e.map (·.val))
  let r := xs.zipIdx.foldl (fun (st : BsfOut × Bool × Bool) p =>
    let x := p.1
    let o := st.1
    let clampBit := st.2.2 || (x.clamp && !x.masked)
    if x.masked then ({ o with codes := o.codes ++ [(f.pad padKind padLit, false)] }, st.2.1, clampBit)
    else if x.poison then ({ o with codes := o.codes ++ [(0, true)] }, st.2.1, clampBit)
    else
      let v := roundShift x.val sh f.round x.draw
      let i := pos + p.2
      if f.min ≤ v ∧ v ≤ f.max then ({ o with codes := o.codes ++ [(f.code_ v, false)] }, st.2.1, clampBit)
      else if (o.entries.filter fun q => q.1 / 4096 = i / 4096).length < segmentLimit total (i / 4096) then
        ({ o with codes := o.codes ++ [(2 ^ (f.width - 1), false)], entries := o.entries ++ [(i, v)] }, true, clampBit)
      else ({ o with codes := o.codes ++ [(f.code_ (if 0 < v then f.max else f.min), false)], overflow := o.overflow + 1 },
        st.2.1, true)) (a, false, false)
  { r.1 with shifts := r.1.shifts ++ [sh + (if r.2.1 then 32 else 0) + (if r.2.2 then 64 else 0)] }

/-- R149 over a whole operand. -/
def formBsf (f : Fmt) (allow padKind padLit : Nat) (xs : List BsfIn) : BsfOut :=
  (chunksOf f.groupSize xs.length xs).zipIdx.foldl (fun a p =>
    formGroup f allow padKind padLit xs.length (p.2 * f.groupSize) p.1 a) {}

/-! ### A vector's region (R468) -/

/-- What a stream of outputs becomes: its words, a multiple of 64 bytes, its status bits and side-list overflow. -/
structure Formed where
  words : List (Word × Bool)
  status : BitVec 16
  overflow : Nat
deriving DecidableEq, Repr

/-- The draws of a slot in the drain (site 0b10) and the fulling unit (site 0b11). -/
def outputDraw (seed : Word) (f c pass site : Nat) (o : Output) : Nat := srDraw seed pass 0 o.use site f c o.bu o.lane o.slot

/-- R124, R125, R208: the codes of a stream's outputs in a format other than BSF. -/
def streamCodes (seed : Word) (f c pass : Nat) (d : Desc) (align : Int) (tab : List (Nat × Bool)) (outs : List Output) : List Coded :=
  outs.map fun o => codeOutput d align tab (outputDraw seed f c pass 2 o) o

/-- R148, R468: forms one destination stream of a vector; `pack` that every quad of the tile holds at most two non-zero codes (R151).
Forms 1 and 2 consist of the codes alone. -/
def formStream (seed : Word) (f c pass : Nat) (d : Desc) (align : Int) (tab : List (Nat × Bool)) (pack : Bool) (outs : List Output) : Formed :=
  let fo := Fmt.ofWord (Desc.fmtO d)
  let live := outs.filter fun o => !o.masked
  let st0 := flagIf 0 dsAccSat (live.any (·.sat))
  -- UINT16 indices in INT16-pair, UINT32 ones in INT32; a PLANE pass's groups say which
  let pairRep := Desc.pair d || (!outs.isEmpty && outs.all (·.pair))
  let idxPart : List (Word × Bool) :=
    if Desc.idxMode d = 0 then [] else
      let cb := if pairRep then 16 else 32
      padWords 8 (packWords cb (outs.map fun o => (if o.masked then 2 ^ cb - 1 else o.idx.getD 0 % 2 ^ cb, !o.masked && o.idxPoison)))
  let st0 := flagIf st0 dsPoison (Desc.idxMode d ≠ 0 && live.any (·.idxPoison))
  if Desc.idxMode d = 2 then ⟨idxPart, st0, 0⟩
  else if fo.isBsf then
    let ins := outs.map fun o =>
      let v := drainShift d align fo.round (outputDraw seed f c pass 2 o) o.val
      let r := clampInt (-2147483648) 2147483647 v
      (⟨r, decide (r ≠ v), o.poison, o.masked, outputDraw seed f c pass 3 o⟩ : BsfIn)
    let b := formBsf fo (Desc.escAllow d) (Desc.pad d) (Desc.padlit d) ins
    let st := flagIf (flagIf (flagIf st0 dsOutClamp (ins.any fun x => x.clamp && !x.masked)) dsPoison
      (b.codes.any (·.2))) dsEscOverflow (b.overflow ≠ 0)
    let side := if fo.esc then padWords 8 (b.entries.map fun p =>
      (BitVec.ofNat 64 (p.1 % 2 ^ 32 + lowBits 16 p.2 * 2 ^ 32), false)) else []
    ⟨padWords 8 (denseWords fo (Desc.layout d) b.codes) ++ idxPart ++
      padWords 8 (packWords 8 (b.shifts.map fun x => (x, false))) ++ side, st, b.overflow⟩
  else
    let cs := streamCodes seed f c pass d align tab outs
    let xs := cs.map fun x => (x.code, x.poison)
    let st := flagIf (flagIf st0 dsOutClamp (cs.any fun x => x.clamp && !x.masked)) dsPoison (cs.any fun x => x.poison && !x.masked)
    if Desc.form d = 1 then
      match (if pack then packQuads fo xs else none) with
      | some ws => ⟨padWords 8 ws, st, 0⟩
      | none => ⟨padWords 8 (denseWords fo false xs), flagIf st dsNot2of4 true, 0⟩
    else if Desc.form d = 2 then ⟨padWords 8 (bitmapWords fo (Desc.dg d + 1) xs), st, 0⟩
    else ⟨padWords 8 (denseWords fo (Desc.layout d) xs) ++ idxPart, st, 0⟩

/-! ### Delivery (Table 7-4, step 5 of Table 5-5) -/

/-- A packet enters the mesh, under the next number. -/
def State.sendPacket (s : State) (p : Packet) : State :=
  { s with mesh := { s.mesh with packets := s.mesh.packets ++ [{ p with no := s.mesh.packetNo }], packetNo := s.mesh.packetNo + 1 } }

/-- Sends words to another field over Hatband, at most 4,096 bytes of payload a packet (R228); `acked` that the writer waits for their
acknowledgements. -/
def State.sendWrites (s : State) (src dst : Nat) (ws : List (Nat × Word × Bool)) (who : Nat × Nat × Nat) (job : Word) (idx : Nat)
    (acked : Bool) : State :=
  (chunksOf 512 ws.length ws).foldl (fun s l => s.sendPacket {
    no := 0, cls := .d, src, dst, writes := l, who := some who, job, idx, acked }) s

/-- A bulk slot that serves requests (R264, R274). -/
def State.slotUp (s : State) (m : Nat) : Bool := (s.slot m).present && !(s.slot m).fenced

/-- A range of words becomes unspecified (R180). -/
def State.unspecify (s : State) (lo hi rlo rhi : Nat) : State :=
  { s.fillMem { lo, hi, rlo, rhi, fill := .unspecified s.freeCtr } with freeCtr := s.freeCtr + 1 }

/-- Delivers the formed lines of one BU's rows, own or in the target field (drain.dest 1, and 3 to banks). -/
def State.deliverRows (s : State) (x : Ctx) (wp : WinPass) (vec u : Nat) (ws : List (Word × Bool)) : State :=
  let d := wp.desc
  let rows := chunksOf 8 ws.length ws
  let rel := Desc.addr d + vec * Desc.vstride d
  if Desc.dest d = 1 then
    match s.planField wp.plan x.f with
    | none => s
    | some pf => rows.zipIdx.foldl (fun s p => s.putRow x u (pf.rowBase + rel + p.2) (rowOfWords p.1)) s
  else
    match s.planField wp.plan (Desc.dfield d) with
    | none => s
    | some pf => s.sendWrites x.f (Desc.dfield d) (rows.zipIdx.map fun p => p.1.zipIdx.map fun q =>
        (rowAddr (Desc.dfield d) x.c u (pf.rowBase + rel + p.2) + q.2, q.1.1, q.1.2)).flatten
        (x.f, x.c, wp.serial) wp.job wp.idx false

/-- Delivers the formed lines of a stream to commons, bulk or a host ring (drain.dest 2, 3 to commons, 4, 5). -/
def State.deliverStream (s : State) (x : Ctx) (wp : WinPass) (vec : Nat) (ws : List (Word × Bool)) : State :=
  let d := wp.desc
  let rel := vec * Desc.vstride d * 8
  match Desc.dest d with
  | 2 => match s.planField wp.plan x.f with
    | some pf => s.writeWords (commonsAddr x.f + (pf.comBase + Desc.addr d) / 8 + rel) ws
    | none => s
  | 3 => match s.planField wp.plan (Desc.dfield d) with
    | some pf => s.sendWrites x.f (Desc.dfield d) (ws.zipIdx.map fun p =>
        (commonsAddr (Desc.dfield d) + (pf.comBase + Desc.addr d) / 8 + rel + p.2, p.1.1, p.1.2)) (x.f, x.c, wp.serial) wp.job wp.idx false
    | none => s
  | 4 =>
    let m := Desc.addr d / 2 ^ 37 % 16
    let off := Desc.addr d % 2 ^ 37 / 8 + rel
    if s.slotUp m then
      ((s.bulkRequest m (writeItems { chan := 0, who := some (x.f, x.c, wp.serial), job := wp.job, idx := wp.idx } off ws)).writeWords
        (bulkAddr m + off) ws).count (slotBlock m) 1 (8 * ws.length)
    else s.passFault x.f x.c wp.serial { code := stLINK_LOST, part := 3, detail := waitDetail 2 m 0xFFFF 0xFF }
  | 5 => s.updJob wp.job fun j =>
      match (s.plan wp.plan).bind fun p => p.regions.find? fun r =>
        r.seg = j.seg && r.field = x.f && r.pass = wp.idx && r.ring = Desc.addr d % 64 with
      | some r => { j with outs := j.outs ++ ((chunksOf 8 ws.length ws).zipIdx.map fun p =>
          (r.off + vec * r.bytes + 64 * p.2, bytesOfWords p.1, p.1.any (·.2))) }
      | none => j
  | _ => s

/-- The drain goes to bank rows, BU by BU. -/
def Desc.toBanks (d : Desc) : Bool := Desc.dest d = 1 || (Desc.dest d = 3 && !Desc.tcom d)

/-- The rows or words of a vector's destination region become unspecified (R180). -/
def State.unspecRegion (s : State) (x : Ctx) (wp : WinPass) (vec : Nat) : State :=
  let d := wp.desc
  let n := Desc.limit d
  let tf := if Desc.dest d = 3 then Desc.dfield d else x.f
  match s.planField wp.plan tf with
  | none => s
  | some pf =>
    if Desc.toBanks d then
      let r := pf.rowBase + Desc.addr d + vec * Desc.vstride d
      s.unspecify (rowAddr tf x.c 0 0) (rowAddr tf x.c 0 0 + 0x400000) r (r + n)
    else if Desc.dest d = 2 || Desc.dest d = 3 then
      let a := commonsAddr tf + (pf.comBase + Desc.addr d) / 8 + vec * Desc.vstride d * 8
      s.unspecify a (a + 8 * n) 0 4096
    else if Desc.dest d = 4 then
      let a := bulkAddr (Desc.addr d / 2 ^ 37 % 16) + Desc.addr d % 2 ^ 37 / 8 + vec * Desc.vstride d * 8
      s.unspecify a (a + 8 * n) 0 4096
    else s

/-- R124 steps 1 to 4: the function table read, and the streams that a tile's outputs become. -/
def State.formed (s : State) (f c : Nat) (x : Ctx) (wp : WinPass) (align : Int) (outs : List Output) :
    State × List (Nat × Formed) :=
  let d := wp.desc
  -- the function table (R125)
  let tr : State × List (Nat × Bool) :=
    if Desc.ftab d && Desc.dest d ≠ 0 then
      match s.planField wp.plan f with
      | some pf =>
        let r := s.readWords (commonsAddr f + (pf.comBase + Desc.ftabOff d) / 8)
          { acc := 5, handle := wp.named, pass := wp.idx } 64
        (r.1, (r.2.map fun p => (List.range 4).map fun i => (fld p.1 (16 * i) 16, p.2)).flatten)
      | none => (s, [])
    else (s, [])
  let streams : List (Nat × List Output) :=
    if Desc.toBanks d then allBus.map fun u => (u, outs.filter (·.bu = u)) else [(0, outs)]
  let pack := Desc.form d = 1 && streams.all fun p =>
    (packQuads (Fmt.ofWord (Desc.fmtO d)) ((streamCodes x.seed f c wp.idx d align tr.2 p.2).map fun q => (q.code, q.poison))).isSome
  (tr.1, streams.map fun p => (p.1, formStream x.seed f c wp.idx d align tr.2 pack p.2))

/-- The rows that the longest stream takes. -/
def formedRows (fs : List (Nat × Formed)) : Nat := fs.foldl (fun a p => max a (p.2.words.length / 8)) 0

/-- The number of side-list entries that a pass lacked, where that ends its job (R150). -/
def WinPass.shortfall (wp : WinPass) : Nat := if Desc.escFatal wp.desc then wp.overflow else 0

/-- The outputs of a SPARSE tile that was drained card by card, in ascending BU and output (R468). -/
def tileOrder (outs : List Output) : List Output :=
  allBus.flatMap fun u =>
    let os := outs.filter (·.bu = u)
    (List.range ((os.map (·.out + 1)).foldl max 0)).flatMap fun t => os.filter (·.out = t)

/-- R124 step 4 and 5, R150, R180: forms a tile's vector and delivers it. Where the outputs pass their region, the pass faults, and the
region is unspecified: at once, or for the bank rows of a speculative pass once it is the head (R196). -/
def State.formTile (s : State) (f c serial : Nat) (x : Ctx) (vec : Nat) (align : Int) (outs : List Output) : State :=
  match (s.core f c).pass serial with
  | none => s
  | some wp =>
    let d := wp.desc
    let r := s.formed f c x wp align outs
    let formed := r.2
    let s := r.1.count (fieldBlock f) 5 outs.length
    let status := formed.foldl (fun a p => a ||| p.2.status) 0
    let overs := (formed.map fun p => p.2.overflow).sum
    let need := formedRows formed
    let lim := Desc.limit d
    let s := s.updPass f c serial fun w => { w with status := w.status ||| status, overflow := w.overflow + overs }
    let s := formed.foldl (fun s p =>
      let ws := p.2.words.take (8 * lim)
      if Desc.toBanks d then s.deliverRows x wp vec p.1 ws else s.deliverStream x wp vec ws) s
    if lim < need then
      (if x.held then s.updPass f c serial fun w => { w with spill := some (w.spill.getD vec) } else s.unspecRegion x wp vec).passFault
        f c serial { code := stCAPACITY, detail := capDetail 0x07 f c 0xFF need lim }
    else s

/-- R201: the held-write buffer has room for the rows of a tile of a speculative pass that drains to its own bank rows. -/
def State.tileRoom (s : State) (f c : Nat) (x : Ctx) (wp : WinPass) (vec : Nat) (align : Int) (outs : List Output) : Bool :=
  let d := wp.desc
  if x.held && Desc.dest d = 1 then
    let need := min (formedRows (s.formed f c x wp align outs).2) (Desc.limit d)
    let base := match s.planField wp.plan f with | some pf => pf.rowBase | none => 0
    let es := (s.core f c).held
    let fresh := (List.range need).filter fun i =>
      !es.any fun e => e.serial = wp.serial && e.row = base + Desc.addr d + vec * Desc.vstride d + i
    es.length + fresh.length ≤ 64
  else true

end Sys2Proof.Machine
end

