-- ==== Sys2Proof/Machine/Sequencer.lean ====
section
/-! DEFINITION. The core sequencer's instruction streams: issue to the 128 BUs, the metadata decoder, settle tests, the run of a
pass's steps, and the steps of TABLE, SPARSE, ESCAPE, MAC16, PLANE and DRAIN passes. -/

namespace Sys2Proof.Machine

/-! ### Context of a pass -/

/-- A ROUTE of the window before this place is unresolved (R194). -/
def routeBefore (ws : List WinPass) (serial : Nat) : Bool :=
  (ws.takeWhile fun w => w.serial ≠ serial).any fun w => Desc.kind w.desc = 7 && w.resolved.isNone && !w.skipped

/-- The pass is the head of its core (R184). -/
def Core.isHead (k : Core) (serial : Nat) : Bool := (k.window.map (·.serial)).head? = some serial

/-- The context in which a pass's words are issued. -/
def State.passCtx (s : State) (f c : Nat) (wp : WinPass) : Ctx :=
  let k := s.core f c
  { f, c, serial := some wp.serial, pass := wp.idx, seed := ((s.plan wp.plan).map (·.seed)).getD 0,
    held := !k.isHead wp.serial, prov := routeBefore k.window wp.serial, handle := wp.named, lanes := Desc.lanes wp.desc }

/-- Table 20-1: ISSUE_CYCLES counts one cycle for each bank instruction word that the sequencer broadcasts, and LOOKUP_CYCLES one
for each that is LOOKUP or LOOKUPS. -/
def State.countWord (s : State) (f c : Nat) (w : Word) : State :=
  let t := s.count (coreBlock f c) 1 1
  if insOp w = 0x10 || insOp w = 0x11 then t.count (coreBlock f c) 0 1 else t

/-- R102: a word is valid as a word of this pass: in a PLANE microprogram LOOKUPS, PBCAST and ins.h = 1 are not, and in a TABLE or
SPARSE pass the entries of LOOKUP, LOOKUPS and TBUILD keep R60. -/
def seqOk (d : Desc) (w : Word) : Bool :=
  wordOk w && (Desc.kind d ≠ 4 || microOk w) &&
  (!((Desc.kind d = 1 || Desc.kind d = 2) && (insOp w = 0x10 || insOp w = 0x11 || insOp w = 0x16)) ||
    entryWidthOk (Desc.g d) (insE w) (Fmt.ofWord (Desc.fmtS d)).wb)

/-- Issues a word to BUs of a core, and counts its cycles. -/
def State.issue (s : State) (x : Ctx) (us : List Nat) (w : Word) : State :=
  (us.foldl (fun s u => opOf (insOp w) x u w s) s).countWord x.f x.c w

/-! ### Metadata decoder (R131 to R146) -/

/-- A card record (Table 6-2). -/
structure Card where
  lo : Nat
  hi : Nat
  slot : Nat
  lanes : Nat
  trow : Nat
  mrow : Nat
  mrows : Nat
  r : List Nat
deriving DecidableEq, Repr

/-- Table 6-2 from its bytes. The metadata lies on the other side of the table rows. -/
def cardOfBytes (bs : List Byte) (wins : Nat) : Card :=
  let side := bytesAt bs 6 2 / 2 ^ 11 % 2
  { lo := bytesAt bs 0 2, hi := bytesAt bs 2 2, slot := bytesAt bs 4 1 % 64, lanes := bytesAt bs 5 1 % 16 + 1,
    trow := side * 2048 + bytesAt bs 6 2 % 2048, mrow := (1 - side) * 2048 + bytesAt bs 8 2 % 2048,
    mrows := bytesAt bs 10 2, r := (List.range wins).map fun w => bytesAt bs (16 + 2 * w) 2 }

/-- R136: groups of a window. -/
def omega (g : Nat) : Nat := 512 / g
/-- Bytes of a card record: 16, and in bitmap form the zero-padded window counts. -/
def cardBytes (form wins : Nat) : Nat := if form = 1 then 16 + cdiv (2 * wins) 8 * 8 else 16

/-- The outcome of a lane's record: its non-zero groups, and the stream that remains; or the check that fails (Table 6-3). -/
inductive LaneRec where
  | ok (groups rest : List Nat)
  | fails (check : Nat)
deriving DecidableEq, Repr

/-- The set bits of a 16-bit word. -/
def bits16 (w : Nat) : List Nat := (List.range 16).filter fun i => nbit w i

/-- Takes words for parents: `n` of them, each not 0 (Popcount), with the items they name. -/
def takeLevel (parents : List Nat) (stream : List Nat) : Option (List Nat × List Nat) :=
  let ws := stream.take parents.length
  if ws.length < parents.length || ws.any (· = 0) then none
  else some (((parents.zip ws).map fun p => (bits16 p.2).map fun i => p.1 * 16 + i).flatten, stream.drop parents.length)

/-- R133, R135, R142: reads a lane's record from the stream. A stream that ends early overruns card.mrows rows (Order). -/
def readRecord (gamma : Nat) (stream : List Nat) : LaneRec :=
  let n2 := cdiv (cdiv gamma 256) 16
  if stream.length < n2 then .fails 2
  else
    let blocks := ((stream.take n2).zipIdx.map fun p => (bits16 p.1).map fun i => p.2 * 16 + i).flatten
    let rest := stream.drop n2
    if rest.length < blocks.length then .fails 2
    else match takeLevel blocks rest with
      | none => .fails 0
      | some (runs, rest) =>
        if rest.length < runs.length then .fails 2
        else match takeLevel runs rest with
          | none => .fails 0
          | some (groups, rest) =>
            if groups.any fun g => gamma ≤ g then .fails 1 else .ok groups rest

/-- The lists of non-zero groups of lanes 0 to n − 1, or the first check that fails with its lane. -/
def readRecords (gamma : Nat) : Nat → Nat → List Nat → Except (Nat × Nat) (List (List Nat) × List Nat)
  | 0, _, st => .ok ([], st)
  | n + 1, lane, st =>
    match readRecord gamma st with
    | .fails k => .error (lane, k)
    | .ok gs rest => match readRecords gamma n (lane + 1) rest with
      | .error e => .error e
      | .ok (l, rest) => .ok (gs :: l, rest)

/-- R142: the checks of a bitmap card; the lists of its lanes, or (lane, check). -/
def checkBitmap (gamma g : Nat) (card : Card) (stream : List Nat) : Except (Nat × Nat) (List (List Nat)) :=
  match readRecords gamma card.lanes 0 stream with
  | .error e => .error e
  | .ok (ls, rest) =>
    if rest.any (· ≠ 0) then .error (0xFF, 2)
    else match (ls.zipIdx.find? fun p => card.r.zipIdx.any fun q => q.1 < (p.1.filter fun x => x / omega g = q.2).length) with
      | some p => .error (p.2, 3)
      | none => match ls.zipIdx.find? fun p => p.1.length < card.lo || card.hi < p.1.length with
        | some p => .error (p.2, 4)
        | none => .ok ls

/-- Table 6-6: the pair index of a 2:4 code. -/
def pairIndex (code : Nat) : Option Nat :=
  if code = 3 then some 0 else if code = 5 then some 1 else if code = 6 then some 2 else if code = 9 then some 3
  else if code = 10 then some 4 else if code = 12 then some 5 else none

/-- The metadata rows of a card in one BU, as 64-bit words with poison. -/
def State.cardMeta (s : State) (x : Ctx) (u : Nat) (base : Nat) (card : Card) : State × List (Word × Bool) :=
  (List.range card.mrows).foldl (fun p i =>
    let r := p.1.readRow x u (base + card.mrow + i)
    (r.1, p.2 ++ wordsOfRow r.2)) (s, [])

/-- R142: the lanes' lists (bitmap), or each quad's pair indices by lane (2:4), or (lane, check). -/
def decodeCard (form gamma g lanesL : Nat) (card : Card) (ws : List (Word × Bool)) : Except (Nat × Nat) (List (List Nat)) :=
  if ws.any (·.2) then .error (0xFF, 6)
  else if form = 1 then
    checkBitmap gamma g card ((ws.map fun p => (List.range 4).map fun i => fld p.1 (16 * i) 16).flatten)
  else
    let codes (q : Nat) (l : Nat) : Nat := fld (ws.getD q (0, false)).1 (4 * l) 4
    match (List.range gamma).find? fun q => (List.range 16).any fun l =>
        if l < card.lanes then (pairIndex (codes q l)).isNone else codes q l ≠ 0 with
    | some q => .error (((List.range 16).find? fun l =>
        if l < card.lanes then (pairIndex (codes q l)).isNone else codes q l ≠ 0).getD 0, 5)
    | none => .ok ((List.range gamma).map fun q => (List.range lanesL).map fun l =>
        if l < card.lanes then (pairIndex (codes q l)).getD 0 else 0)

/-- R137, R146: the place of a lane's bits in the window, for row `row` of window `win`. -/
def lanePlace (form g : Nat) (card : Card) (lists : List (List Nat)) (win row lane : Nat) : Option Nat :=
  if card.lanes ≤ lane then none
  else if form = 1 then
    (((lists.getD lane []).filter fun x => x / omega g = win)[row]?).map fun x => x % omega g
  else
    let q := win * 42 + row
    some (6 * row + ((lists.getD q []).getD lane 0))

/-! ### Operands of a pass -/

/-- K_tot of a pass's streaming operand: R114's whole extent for BSF, its own extent otherwise. -/
def Desc.ktot (d : Desc) : Nat := if (Fmt.ofWord (Desc.fmtX d)).isBsf then Desc.xsKtot d else Desc.k d

/-- The codes of a streaming vector's part, with poison (R34, R35, R163). -/
def State.vectorCodes (s : State) (x : Ctx) (pf : PlanField) (wp : WinPass) (vec : Nat) : State × List (Nat × Bool) :=
  let d := wp.desc
  let fx := Fmt.ofWord (Desc.fmtX d)
  let who : Who := { acc := if Desc.kind d = 8 then 5 else 0, handle := wp.named, pass := wp.idx }
  let k := Desc.k d
  let fromRows (rows : List RowData) : List (Nat × Bool) := (List.range k).map fun j =>
    let rs := (rows.drop (j / 512 * fx.width)).take fx.width
    (rs.zipIdx.foldl (fun a p => if p.1.bits.getLsbD (j % 512) then a + 2 ^ p.2 else a) 0,
      rs.any fun r => r.poison.getLsbD (j % 512 / 64))
  let nrows := cdiv k 512 * fx.width
  if Desc.xsrc d then
    let r := (List.range nrows).foldl (fun (p : State × List RowData) i =>
      let r := p.1.readRow x 0 (pf.rowBase + Desc.xbase d + vec * Desc.xstride d + i)
      (r.1, p.2 ++ [r.2])) (s, [])
    (r.1, fromRows r.2)
  else
    let a := commonsAddr x.f + (pf.comBase + Desc.xbase d + vec * Desc.xstride d) / 8
    if Desc.xlay d then
      let r := s.readWords a who (8 * nrows)
      (r.1, fromRows ((chunksOf 8 r.2.length r.2).map rowOfWords))
    else
      let cb := containerBits fx.bits
      let per := 64 / cb
      let r := s.readWords a who (cdiv k per)
      (r.1, (List.range k).map fun j =>
        let w := r.2.getD (j / per) (0, false)
        (fld w.1 (cb * (j % per)) fx.bits, w.2))

/-- A little-endian bit string from the commons as a number; 0 where it is not used. -/
def State.maskBits (s : State) (pf : PlanField) (wp : WinPass) (used : Bool) (off n : Nat) : State × Nat :=
  if used then
    let r := s.comBytes pf off (cdiv n 8) { acc := 0, handle := wp.named, pass := wp.idx }
    (r.1, leNat r.2.1)
  else (s, 0)

/-- R56: the table groups of a part: first element and size. DEDUCED: BSF groups are counted from the part's first element, so that only
the last of them is partial (log entry 104). -/
def tableGroups (d : Desc) : List (Nat × Nat) :=
  let fs := Fmt.ofWord (Desc.fmtS d)
  let fx := Fmt.ofWord (Desc.fmtX d)
  let seg := if fs.isBsf && fx.isBsf then min fs.groupSize fx.groupSize
    else if fs.isBsf then fs.groupSize else if fx.isBsf then fx.groupSize else max (Desc.k d) 1
  ((List.range (cdiv (Desc.k d) seg)).map fun i =>
    let n := min seg (Desc.k d - i * seg)
    (List.range (cdiv n (Desc.g d))).map fun j => (i * seg + j * Desc.g d, min (Desc.g d) (n - j * Desc.g d))).flatten

/-- A vector ready for broadcast: element codes (none: code 0 is broadcast), their poison, which elements are ESC, its streaming
exponents and HAS_ESC bits of the part's groups, and M (R113). -/
structure Streamed where
  codes : List (Option Nat × Bool)
  escs : List Bool := []
  exps : List Int := []
  hasEsc : List Bool := []
  m : Int := 0
deriving DecidableEq, Repr

/-- A METADATA_FAULT with its detail (Table 18-3). -/
def metaFault (card lane check : Nat) (bu : Option Nat) : PassFault :=
  { code := stMETADATA_FAULT, detail := leBytes 2 card ++ leBytes 1 lane ++ leBytes 1 check, bu }

/-- R55, R113, R114, R38: reads a vector: masked elements are none; shift bytes of the whole reduction give M; HAS_ESC of the
part's own groups must agree with its ESC codes. -/
def State.streamVector (s : State) (x : Ctx) (pf : PlanField) (wp : WinPass) (maskK vec : Nat) : State × Streamed × Option PassFault :=
  let d := wp.desc
  let fx := Fmt.ofWord (Desc.fmtX d)
  let r := if Desc.kind d = 3 then (s, List.replicate (Desc.k d) (0, false)) else s.vectorCodes x pf wp vec
  let codes := r.2.zipIdx.map fun p => (if Desc.mk d && !nbit maskK p.2 then none else some p.1.1, p.1.2)
  let escs := r.2.map fun p => fx.isEsc p.1
  if !fx.isBsf then (r.1, { codes, escs }, none)
  else
    let sz := fx.groupSize
    let nTot := cdiv (Desc.xsKtot d) sz
    let xs := cdiv nTot 64 * 64
    let b := r.1.comBytes pf (Desc.xshOff d + vec * xs) nTot { acc := 0, handle := wp.named, pass := wp.idx }
    let sh (i : Nat) : Nat := (b.2.1.getD i 0).toNat
    let m := (List.range nTot).foldl (fun a i => max a (sh i % 32)) 0
    let g0 := Desc.kbase d / sz
    let own := List.range (cdiv (Desc.k d) sz)
    let bad := own.any fun i => Desc.kind d ≠ 3 && nbit (sh (g0 + i)) 5 != ((escs.drop (i * sz)).take sz).any id
    (b.1, { codes, escs, exps := own.map fun i => ((sh (g0 + i) % 32 : Nat) : Int), hasEsc := own.map fun i => nbit (sh (g0 + i)) 5,
            m := (m : Int) },
      if bad then some (metaFault 0xFFFF 0xFF 0xFF none) else none)

/-- A streaming side-list entry of a vector: number in the list, element in the part, VALUE, poison. -/
structure SideEntry where
  no : Nat
  vec : Nat
  elt : Nat
  value : Int
  poison : Bool
deriving DecidableEq, Repr

/-- R41: positions ascend, lie in an operand of `total` elements, and keep the limits of its segments. -/
def positionsOk (total : Nat) (pos : List Nat) : Bool :=
  (pos.zip (pos.drop 1)).all (fun p => p.1 < p.2) && pos.all (· < total) &&
  (List.range (cdiv total 4096)).all fun k => (pos.filter fun p => p / 4096 = k).length ≤ segmentLimit total k

/-- R41, R167: the entries of a BU's stationary side list keep the rules: real entries over the tile, then padding. -/
def stationaryListOk (d : Desc) (es : List Word) : Bool :=
  let pos := es.map fun w => fld w 0 32
  let real := pos.takeWhile (· ≠ 0xFFFFFFFF)
  (pos.drop real.length).all (· = 0xFFFFFFFF) && positionsOk (Desc.o d * Desc.k d) real

/-- The entries of a BU's stationary side list as the pass reads them (R167, R192). -/
def State.stationaryList (s : State) (x : Ctx) (d : Desc) (base u : Nat) : List Word :=
  (List.range (Desc.en d)).map fun n => (s.peekRow x u (base + Desc.erow d + n / 8)).bits.extractLsb' (64 * (n % 8)) 64

/-- R41, R42, R168: reads the streaming side list; the entries of the part, and whether the list keeps the rules that can be
judged on it: ascending, inside the operand, within the limits of its segments. -/
def State.sideList (s : State) (pf : PlanField) (wp : WinPass) : State × List SideEntry × Bool :=
  let d := wp.desc
  let r := s.readWords (commonsAddr pf.field + (pf.comBase + Desc.xsOff d) / 8)
    { acc := 0, handle := wp.named, pass := wp.idx } (Desc.xsN d)
  let kt := Desc.ktot d
  let total := Desc.n d * kt
  let pos := r.2.map fun p => fld p.1 0 32
  let base := if (Fmt.ofWord (Desc.fmtX d)).isBsf then Desc.kbase d else 0
  let es := (r.2.zipIdx.map fun p =>
    let q := fld p.1.1 0 32
    ({ no := p.2, vec := q / kt, elt := q % kt, value := sext 16 (fld p.1.1 32 16), poison := p.1.2 } : SideEntry))
  (r.1, (es.filter fun e => base ≤ e.elt && e.elt < base + Desc.k d).map fun e => { e with elt := e.elt - base },
    positionsOk total pos)

/-! ### Steps of TABLE and SPARSE passes (R67, R108, R109, R139, R162, R167) -/

/-- A PRELOAD word. -/
def preloadWord (d : Desc) (slot row mode imm : Nat) : Word :=
  mkWord 0x14 [(Desc.grp d, 54), (slot, 48), (row, 31), (mode, 17), (imm, 0)]
/-- A pure step (R108). -/
def pureStepWord (d : Desc) (slot : Nat) : Word := mkWord 0x12 [(Desc.grp d, 54), (slot, 48), (1, 47)]

/-- R93, R109: a preload of a slot of a pass. In INT16-pair the slot is one half of a word. -/
def preloadStep (d : Desc) (slot row mode imm event : Nat) : Todo :=
  if Desc.pair d then .half slot row mode imm event else .word (preloadWord d slot row mode imm) event none false

/-- The broadcast bits of a table group of `g` elements on plane `p`, element `i` at bit `i` (R54); a missing element has code 0
(R55). -/
def broadcastBits (fx : Fmt) (g : Nat) (cs : List (Option Nat × Bool)) (p : Nat) : Nat :=
  (cs ++ List.replicate (g - cs.length) ((none : Option Nat), false)).zipIdx.foldl (fun (a : Nat) (c : (Option Nat × Bool) × Nat) => if fx.planeBit c.1.1 p then a + 2 ^ c.2 else a) 0

/-- R113: the plane of a streaming group that stands in virtual plane `v`, none where it has none there. -/
def planeIn (d : Desc) (st : Streamed) (fx : Fmt) (elt v : Nat) : Option Nat :=
  if !fx.isBsf then (if v < Desc.ab d then some v else none)
  else
    let o : Int := (Desc.v d : Int) - Desc.ab d - (st.m - st.exps.getD (elt / fx.groupSize) 0)
    let p : Int := v - o
    if 0 ≤ o ∧ 0 ≤ p ∧ p < Desc.ab d then some p.toNat else none

/-- R108: virtual planes in visiting order. -/
def planeOrder (d : Desc) : List Nat := if Desc.msb d then (List.range (Desc.v d)).reverse else List.range (Desc.v d)

/-- R54: TERN's planes stand at one scale, so no step is carried between them. -/
def stepped (fx : Fmt) (i : Nat) : Bool := i ≠ 0 && !fx.isTern

/-- The lookups of one virtual plane of a dense pass, and a pure step where a slot has none (R67, R108). -/
def planeLookups (d : Desc) (base : Nat) (fx : Fmt) (st : Streamed) (b0 v i : Nat) : List Todo :=
  let nls := Desc.laneSets d
  let gs := (tableGroups d).zipIdx.filterMap fun p => (planeIn d st fx p.1.1 v).map fun q => (p.1, p.2, q)
  let looks := (gs.zipIdx.map fun p => (List.range nls).map fun l =>
    let cs := (st.codes.drop p.1.1.1).take p.1.1.2
    Todo.word (mkWord 0x10 [(Desc.grp d, 54), (b0 + l, 48), (if stepped fx i && p.2 = 0 then 1 else 0, 47), (Desc.gm1 d, 45),
      (Desc.ec d, 43), (base + Desc.trow d + p.1.2.1 * nls + l, 31), (broadcastBits fx (Desc.g d) cs p.1.2.2, 23)]) v none (cs.any (·.2))).flatten
  if gs.isEmpty && stepped fx i then (List.range nls).map fun l => Todo.word (pureStepWord d (b0 + l)) v none false else looks

/-- The bias rows of a BSF streaming operand that enter in virtual plane `v` (R115). -/
def groupBias (d : Desc) (biasRow : Nat) (fx : Fmt) (st : Streamed) (slotOf : Nat → Nat) (v : Nat) : List Todo :=
  if !fx.isBsf then [] else
    (st.exps.zipIdx.map fun p =>
      let o : Int := (Desc.v d : Int) - Desc.ab d - (st.m - p.1)
      if o = v then (List.range (Desc.laneSets d)).map fun l =>
          preloadStep d (slotOf l) (biasRow + p.2 * Desc.laneSets d + l) 3 0 v
      else []).flatten

/-- The first bias row of a pass (R65). -/
def biasRow (d : Desc) (base : Nat) : Nat :=
  base + Desc.trow d + (if Desc.kind d = 2 then 0 else (tableGroups d).length * Desc.laneSets d)

/-- A write preload of 0 for the slots of a block. -/
def clearSlots (d : Desc) (slots : List Nat) : List Todo := slots.map fun t => preloadStep d t 0 1 0 0

/-- R109, R162: what stands before the planes of a vector. -/
def vectorStart (d : Desc) (bias : Nat) (fx : Fmt) (slots : List Nat) (vec : Nat) : List Todo :=
  let reused := Desc.dest d ≠ 0 && (if Desc.dbuf d then 2 else 1) ≤ vec
  let clears := if reused then clearSlots d slots else []
  let bias := if Desc.msb d || fx.isBsf then [] else
    slots.zipIdx.map fun p => preloadStep d p.1 (bias + p.2) (if Desc.opens d || reused then 0 else 3) 0 0
  clears ++ bias

/-- R109, R203: the bias that enters at virtual plane 0 of an MSB-first pass. -/
def vectorBias (d : Desc) (bias : Nat) (fx : Fmt) (slots : List Nat) : List Todo :=
  if !Desc.msb d || fx.isBsf then [] else
    slots.zipIdx.map fun p => preloadStep d p.1 (bias + p.2) 3 0 0

/-- The window code of an element (Table 7-12). -/
def windowCode (fx : Fmt) (c : Option Nat) : Nat :=
  match c with
  | none => 0
  | some c => if fx.isTern || fx.isBin then lowBits 2 (fx.value c) else if fx.isEsc c then 0 else c % 2 ^ fx.width

/-- A plane of a list of window codes as a payload (R88). -/
def windowPlane (cs : List (Nat × Bool)) (p : Nat) : RowData :=
  { bits := cs.zipIdx.foldl (fun (a : Row) c => if nbit c.1.1 p then a ||| (1#512 <<< c.2) else a) 0,
    poison := cs.zipIdx.foldl (fun (a : BitVec 8) c => if c.1.2 then a ||| (1#8 <<< (c.2 / 64)) else a) 0 }

/-- R167: the stationary escapes of a vector, or of one lane-set of it. -/
def stationaryEscapes (d : Desc) (base : Nat) (st : Streamed) (b0 : Nat) (only : Option Nat) : List Todo :=
  let fs := Fmt.ofWord (Desc.fmtS d)
  let fx := Fmt.ofWord (Desc.fmtX d)
  if !fs.esc || Desc.en d = 0 then [] else
    let a := if fx.isTern || fx.isBin then 2 else fx.width
    let sset (r v : Nat) : Todo := .word (mkWord 0x24 [(r, 52), (v, 0)]) 0 none false
    let xs := Desc.scale d st.m
    let hs := if fx.isBsf then st.exps.map fun e => e - xs else [-xs]
    let size := if fx.isBsf then fx.groupSize else max (Desc.k d) 1
    let erow := base + Desc.erow d
    ((List.range (cdiv (Desc.k d) 512)).map fun win =>
      let cs := ((st.codes.drop (512 * win)).take 512).map fun c => (windowCode fx c.1, c.2)
      [sset 4 (Desc.k d), sset 5 (512 * win), sset 6 0, sset 7 (Desc.en d)] ++
      ((List.range a).map fun p => Todo.word (mkWord 0x0A [(p, 53)]) 0 (some (windowPlane cs p)) false) ++
      ((List.range (Desc.en d)).map fun n =>
        Todo.escape (mkWord 0x13 [(Desc.grp d, 54), (b0, 48), (Desc.gm1 d, 45), (Desc.ec d, 43), (erow + n / 8, 31),
          ((n % 8) * 2 + (if fx.isUint then 1 else 0), 23), (erow % 2048 * 32 + a, 0)]) size hs only)).flatten

/-- R168: the corrections of a vector's streaming side list, or of one lane-set of it. An element that the reduction mask excludes
contributes nothing (log entry 97). -/
def streamingEscapes (d : Desc) (st : Streamed) (es : List SideEntry) (b0 vec : Nat) (only : Option Nat) : List Todo :=
  let fx := Fmt.ofWord (Desc.fmtX d)
  if !fx.esc then [] else
    (es.filter fun e => e.vec = vec && (st.codes.getD e.elt (none, false)).1.isSome).map fun e =>
      .correct e.no e.elt e.value e.poison b0 ((if fx.isBsf then st.exps.getD (e.elt / fx.groupSize) 0 else 0) - Desc.scale d st.m) only

/-- The steps of a vector of a dense pass (R67). -/
def denseVector (d : Desc) (base : Nat) (st : Streamed) (es : List SideEntry) (vec : Nat) : List Todo :=
  let fx := Fmt.ofWord (Desc.fmtX d)
  let nls := Desc.laneSets d
  let b0 := (if Desc.dbuf d then vec % 2 else 0) * nls
  let slots := (List.range nls).map (b0 + ·)
  let bias := biasRow d base
  let settle := Desc.settle d ≠ 0
  let planes := (planeOrder d).zipIdx.map fun p =>
    (if settle && p.2 = 0 then slots.zipIdx.map fun q => preloadStep d q.1 (bias + q.2) 3 0 p.1 else []) ++
    planeLookups d base fx st b0 p.1 p.2 ++ groupBias d bias fx st (b0 + ·) p.1 ++
    (if settle && p.1 ≠ 0 then [Todo.settle p.1 b0] else [])
  vectorStart d bias fx slots vec ++ [.unsettle] ++ planes.flatten ++
    vectorBias d (if settle then bias + nls else bias) fx slots ++
    (if settle then [Todo.planesEnd] ++ (List.range nls).map fun l => Todo.biasCheck (bias + nls + l) else []) ++
    stationaryEscapes d base st b0 none ++ streamingEscapes d st es b0 vec none

/-- R136, R146: the payload of a window of a virtual plane. In the 2:4 form an element beyond the extent has code 0 (R55). -/
def windowPayload (d : Desc) (st : Streamed) (fx : Fmt) (v win : Nat) : RowData :=
  let put (bits : List (Nat × Nat)) : RowData :=
    { bits := bits.foldl (fun (a : Row) p =>
        let c := st.codes.getD p.2 (none, false)
        if (match planeIn d st fx p.2 v with | some q => fx.planeBit c.1 q | none => false)
        then a ||| (1#512 <<< p.1) else a) 0,
      poison := bits.foldl (fun (a : BitVec 8) p => if (st.codes.getD p.2 (none, false)).2 then a ||| (1#8 <<< (p.1 / 64)) else a) 0 }
  if Desc.spForm d = 1 then
    let gs := ((tableGroups d).drop (win * omega (Desc.g d))).take (omega (Desc.g d))
    put (gs.zipIdx.map fun p => (List.range p.1.2).map fun i => (Desc.g d * p.2 + i, p.1.1 + i)).flatten
  else
    let pairs : List (Nat × Nat) := [(0, 1), (0, 2), (1, 2), (0, 3), (1, 3), (2, 3)]
    put ((List.range 42).map fun q => (pairs.zipIdx.map fun p =>
      [(12 * q + 2 * p.2, 4 * (42 * win + q) + p.1.1), (12 * q + 2 * p.2 + 1, 4 * (42 * win + q) + p.1.2)]).flatten).flatten

/-- The groups of a SPARSE pass: Γ of R56, or the quads of R146. -/
def sparseGroups (d : Desc) : Nat := if Desc.spForm d = 1 then (tableGroups d).length else cdiv (Desc.k d) 4
/-- Its windows. -/
def sparseWindows (d : Desc) : Nat := cdiv (sparseGroups d) (if Desc.spForm d = 1 then omega (Desc.g d) else 42)

/-- R113: the groups of a window that have a plane in virtual plane `v`, bit by bit; the others take no part. -/
def liveGroups (d : Desc) (st : Streamed) (fx : Fmt) (v win : Nat) : Nat :=
  let firsts := if Desc.spForm d = 1 then (((tableGroups d).drop (win * omega (Desc.g d))).take (omega (Desc.g d))).map (·.1)
    else (List.range 42).map fun q => 4 * (42 * win + q)
  firsts.zipIdx.foldl (fun a p => if (planeIn d st fx p.1 v).isSome then a + 2 ^ p.2 else a) 0

/-- R143, R144: the cycles by which a window of a bitmap card exceeds 1 + card.r[w]. -/
def decodeExtra (d : Desc) (rows win : Nat) : Nat :=
  if Desc.spForm d ≠ 1 then 0 else
    let se := match Desc.ec d with | 0 => 40 | 1 => 18 | 2 => 9 | _ => 4
    let om := omega (Desc.g d)
    max (cdiv (min om (sparseGroups d - om * win)) 8) (1 + rows + cdiv (rows * se) 64) - (1 + rows)

/-- The steps of one card for one vector (R137 to R139). DESIGN CHOICE: the window stands in plane register P0 (log entry 106). -/
def cardVector (d : Desc) (base : Nat) (st : Streamed) (card : Card) (ci vec : Nat) : List Todo :=
  let fx := Fmt.ofWord (Desc.fmtX d)
  let nls := Desc.laneSets d
  let slot := card.slot + (if Desc.dbuf d then vec % 2 else 0) * nls
  let bias := biasRow d base + card.slot
  let wins := sparseWindows d
  let planes := (planeOrder d).zipIdx.map fun p =>
    (if stepped fx p.2 then [Todo.word (pureStepWord d slot) p.1 none false] else []) ++
    ((List.range wins).map fun w =>
      let rows := if Desc.spForm d = 1 then card.r.getD w 0 else min 42 (sparseGroups d - 42 * w)
      let row0 := if Desc.spForm d = 1 then ((card.r.take w).sum) else 42 * w
      [Todo.word (mkWord 0x0A [(0, 53)]) p.1 (some (windowPayload d st fx p.1 w)) false, .decode (decodeExtra d rows w)] ++
      (List.range rows).map fun i => Todo.sparse (mkWord 0x11 [(Desc.grp d, 54), (slot, 48), (Desc.gm1 d, 45), (Desc.ec d, 43),
        (base + card.trow + row0 + i, 31)]) ci w i (liveGroups d st fx p.1 w)).flatten ++
    (if !fx.isBsf then [] else (st.exps.zipIdx.map fun q =>
      if (Desc.v d : Int) - Desc.ab d - (st.m - q.1) = p.1 then
        [preloadStep d slot (biasRow d base + q.2 * nls + card.slot) 3 0 p.1] else []).flatten)
  vectorStart d bias fx [slot] vec ++ [.unsettle] ++ planes.flatten ++ vectorBias d bias fx [slot]

/-- The steps of a vector of a MAC16 pass (R155): element by element, lane-set by lane-set. -/
def mac16Vector (d : Desc) (base : Nat) (st : Streamed) (vec : Nat) : List Todo :=
  let fs := Fmt.ofWord (Desc.fmtS d)
  let fx := Fmt.ofWord (Desc.fmtX d)
  let nls := Desc.laneSets d
  let b0 := (if Desc.dbuf d then vec % 2 else 0) * nls
  let slots := (List.range nls).map (b0 + ·)
  let reused := Desc.dest d ≠ 0 && (if Desc.dbuf d then 2 else 1) ≤ vec
  (if reused then clearSlots d slots else []) ++
  (st.codes.zipIdx.map fun p => (List.range nls).map fun l =>
    let v := match p.1.1 with | some c => fx.value c | none => 0
    Todo.word (mkWord 0x12 [(Desc.grp d, 54), (b0 + l, 48), (base + Desc.trow d + p.2 / 2 * nls + l, 31),
      (p.2 % 2 + (if fs.signed then 2 else 0) + (if fx.signed then 8 else 0), 17), (lowBits 16 v, 0)]) 0 none p.1.2).flatten

/-! ### Running the steps -/

/-- R116: the SHIFT of the stationary group that holds a POSITION of a BU's tile: 0 for a stationary operand that is not BSF. -/
def groupShift (x : Ctx) (d : Desc) (u pos : Nat) : Int :=
  let fs := Fmt.ofWord (Desc.fmtS d)
  let k := max (Desc.k d) 1
  if fs.isBsf then
    ((Config.statShift x.f x.c u x.pass (pos / k * cdiv k fs.groupSize + pos % k / fs.groupSize) % 32 : Nat) : Int)
  else 0

/-- R116: h of a BU's escape entry, in ins.mode. -/
def escapeWord (x : Ctx) (d : Desc) (pos size : Nat) (hs : List Int) (u : Nat) (w : Word) : Word :=
  let h := clampInt (-32) 31 (groupShift x d u pos + hs.getD (pos % max (Desc.k d) 1 / size) 0)
  w ||| (BitVec.ofNat 64 (lowBits 6 h) <<< 17)

/-- ESCMAC on every BU, each with its own h; a BU whose entry names an output of another lane-set leaves it to that one. -/
def State.issueEscape (s : State) (x : Ctx) (d : Desc) (w : Word) (size : Nat) (hs : List Int) (only : Option Nat) : State :=
  let t := allBus.foldl (fun s u =>
    let pos := fld (s.peekRow x u (insRow w)).bits (64 * (insX w / 2)) 32
    if (match only with | some l => decide (pos / max (Desc.k d) 1 / Desc.lanes d ≠ l) | none => false) then s
    else opEscmac x u (escapeWord x d pos size hs u w) s) s
  t.countWord x.f x.c w

/-- The aligned stationary value of element `i` of a table word (R58 solved for w_i), log entry 32. -/
def tableValue (g e word i : Nat) : Int :=
  let entry (k : Nat) : Int := sext e (word / 2 ^ (k * e))
  let top := 2 ^ (g - 1) - 1
  if i + 1 = g then (if g = 1 then entry 0 else (entry top + entry 0) / 2) else (entry top - entry (top - 2 ^ i)) / 2

/-- The side-list VALUE of a stationary ESC element of a BU's tile, with its poison (R168). -/
def stationaryEsc (s : State) (x : Ctx) (d : Desc) (base u pos : Nat) : Option (Int × Bool) :=
  if !(Fmt.ofWord (Desc.fmtS d)).esc then none else
    ((List.range (Desc.en d)).find? fun n =>
      fld (s.peekRow x u (base + Desc.erow d + n / 8)).bits (64 * (n % 8)) 32 = pos).map fun n =>
      let r := s.peekRow x u (base + Desc.erow d + n / 8)
      (sext 16 (fld r.bits (64 * (n % 8) + 32) 16), r.poison.getLsbD (n % 8))

/-- Where the aligned stationary value of element `elt` stands for an output of a BU: its table row, and its place in the table word;
none where the operand stores no value there, which is then 0. A TABLE or ESCAPE pass reads the rows from pass.trow (R65), a SPARSE
pass those of the card that holds the output's lane-set (R137, R145). -/
def State.tablePlace (s : State) (x : Ctx) (d : Desc) (base : Nat) (cards : List Card) (u lane ls elt : Nat) : Option (Nat × Nat) :=
  let gs := tableGroups d
  let gi := (gs.findIdx? fun p => p.1 ≤ elt && elt < p.1 + p.2).getD 0
  if Desc.kind d ≠ 2 then some (base + Desc.trow d + gi * Desc.laneSets d + ls, elt - (gs.getD gi (0, 0)).1)
  else (cards.find? (·.slot = ls)).bind fun card =>
    if card.lanes ≤ lane then none
    else match decodeCard (Desc.spForm d) (sparseGroups d) (Desc.g d) (Desc.lanes d) card (s.cardMeta x u base card).2 with
      | .error _ => none
      | .ok lists =>
        if Desc.spForm d = 1 then
          let win := gi / omega (Desc.g d)
          (((lists.getD lane []).filter fun q => q / omega (Desc.g d) = win).findIdx? (· = gi)).map fun i =>
            (base + card.trow + (card.r.take win).sum + i, elt - (gs.getD gi (0, 0)).1)
        else
          let pairs : List (Nat × Nat) := [(0, 1), (0, 2), (1, 2), (0, 3), (1, 3), (2, 3)]
          let p := pairs.getD ((lists.getD (elt / 4) []).getD lane 0) (0, 1)
          if p.1 = elt % 4 then some (base + card.trow + elt / 4, 0)
          else if p.2 = elt % 4 then some (base + card.trow + elt / 4, 1) else none

/-- R168: one streaming side-list entry added to every output of every BU, or to those of one lane-set. -/
def State.issueCorrection (s : State) (x : Ctx) (wp : WinPass) (base : Nat) (cards : List Card) (no elt : Nat) (value : Int) (poison : Bool)
    (b0 : Nat) (sx : Int) (only : Option Nat) : State :=
  let d := wp.desc
  let l := Desc.lanes d
  let event := if Desc.kind d = 3 then no % 2 ^ 20 else 0x80000 + no % 2 ^ 19
  allBus.foldl (fun s u => (List.range (Desc.o d)).foldl (fun s t =>
    if (match only with | some q => decide (t / l ≠ q) | none => false) then s
    else
      let g := (s.bu x.f x.c u).group (Desc.grp d)
      let pos := t * Desc.k d + elt
      let r : State × Int × Bool × Int := match stationaryEsc s x d base u pos with
        | some v => (s, v.1, v.2, groupShift x d u pos)
        | none => match s.tablePlace x d base cards u (t % l) (t / l) elt with
          | none => (s, 0, false, (Desc.rs d : Int))
          | some q =>
            let row := s.readRow x u q.1
            let tw := tableWord row.2 (Desc.g d) (Desc.e d) (t % l)
            (row.1, tableValue (Desc.g d) (Desc.e d) tw.1 q.2, tw.2, (Desc.rs d : Int))
      let abs := g.abs (b0 + t / l)
      let term := escapeTerm g (clampInt (-32) 31 (r.2.2.2 + sx)) (r.2.1 * value) (x.draw g u (t % l) abs 1 event)
      let st := r.1.checkAcc x.f x.c u (slotWord g.pair abs (t % l))
      let b := st.bu x.f x.c u
      if b.isSettled (t % l) then st else
      let v := (b.slot g.pair abs (t % l)).add g.pair term.1 (poison || r.2.2.1)
      st.setBu x.f x.c u (b.setSlot g.pair abs (t % l) { v with sat := v.sat || term.2 })) s) s

/-- The places that a BU's metadata gives the lanes of a card's row (R137), or the check that fails (R142). -/
def State.rowPlaces (s : State) (x : Ctx) (d : Desc) (base u : Nat) (card : Card) (win row : Nat) : Except (Nat × Nat) (Nat → Option Nat) :=
  match decodeCard (Desc.spForm d) (sparseGroups d) (Desc.g d) (Desc.lanes d) card (s.cardMeta x u base card).2 with
  | .error e => .error e
  | .ok lists => .ok (lanePlace (Desc.spForm d) (Desc.g d) card lists win row)

/-- Lanes of a card whose window list is exhausted (R144). -/
def idleLanes (card : Card) (q : Nat → Option Nat) : Nat := ((List.range card.lanes).filter fun l => (q l).isNone).length

/-- A place in a window whose group takes part (R113). -/
def livePlace (d : Desc) (live : Nat) (q : Nat → Option Nat) (l : Nat) : Option Nat :=
  (q l).filter fun k => nbit live (if Desc.spForm d = 1 then k else k / 6)

/-- R142: the first BU, in ascending order, whose metadata of a card fails a check. -/
def State.cardFault (s : State) (x : Ctx) (d : Desc) (base : Nat) (card : Card) (ci : Nat) (us : List Nat) : Option PassFault :=
  us.findSome? fun u => match s.rowPlaces x d base u card 0 0 with
    | .error e => some (metaFault ci e.1 e.2 (some u))
    | .ok _ => none

/-- LOOKUPS on every BU, each with the places of its own metadata (R137, R144); a group without a plane in this virtual plane takes
no part (R113). -/
def State.issueSparse (s : State) (x : Ctx) (d : Desc) (base : Nat) (card : Card) (w : Word) (win row live : Nat) : State :=
  let t := allBus.foldl (fun s u =>
    match s.rowPlaces x d base u card win row with
    | .error _ => s
    | .ok q => (opLookups x u w (livePlace d live q) s).count (coreBlock x.f x.c) 6 (idleLanes card q)) s
  t.countWord x.f x.c w

/-- Rounds up a scaled bound (R205). -/
def scaleUp (v : Int) (d : Int) : Int := if 0 ≤ d then v * pow2 d.toNat else -((-v) / pow2 (-d).toNat)
/-- Rounds down a scaled bound (R205). -/
def scaleDown (v : Int) (d : Int) : Int := if 0 ≤ d then v * pow2 d.toNat else v / pow2 (-d).toNat

/-- R205: the substitute of a lane that settles after virtual plane `v` with slot value `u`. -/
def settleTest (d : Desc) (v : Nat) (u : Int) : Option Int :=
  let q : Int := ((tableGroups d).length * 2 ^ (Desc.e d - 1) : Nat)
  let lo := pow2 v * u - (pow2 v - 1) * q
  let hi := pow2 v * u + (pow2 v - 1) * q + pow2 (Desc.v d - 1) - 1
  if Desc.settle d = 2 then
    if Desc.threshold d ≤ lo then some (Desc.threshold d) else if hi < Desc.threshold d then some (Desc.threshold d - 1) else none
  else
    let f := if Desc.ftab d then Desc.indexFmt d else Fmt.ofWord (Desc.fmtO d)
    let tHi := scaleUp (f.max + 1) (Desc.shift d)
    let tLo := scaleDown (f.min - 1) (Desc.shift d)
    if tHi ≤ lo then some tHi else if hi ≤ tLo then some tLo else none

/-- R204, R205: the settle test of every lane of a BU. -/
def Bu.settleLanes (b : Bu) (d : Desc) (v block : Nat) : Bu :=
  let g := b.group (Desc.grp d)
  b.lanes (Desc.lanes d) fun l b =>
    if b.isSettled l then b
    else
      let sv := b.slot g.pair (g.abs block) l
      match settleTest d v sv.val with
      | none => b
      | some t => { b.setSlot g.pair (g.abs block) l { sv with val := t } with settled := putBit b.settled l true }

/-- R207: a BU reports settled. -/
def buSettled (b : Bu) (d : Desc) (mask u : Nat) : Bool :=
  (List.range (Desc.lanes d)).all fun l => b.isSettled l || Desc.o d ≤ l || (Desc.mo d && !nbit mask (u * Desc.o d + l))

/-- The arrival number of the next DRAIN of a field: after every DRAIN that its cores still drain (R148). -/
def State.nextArrival (s : State) (f : Nat) : Nat :=
  (allCores.map fun c => ((s.core f c).drains.map (·.arrival + 1)).foldl max 0).foldl max 0

/-- R97, R148: hands slots to the drain path. -/
def State.startDrain (s : State) (f c : Nat) (t : DrainTask) : State :=
  s.updCore f c fun k => { k with drains := k.drains ++ [{ t with arrival := s.nextArrival f }] }

/-- The word-rows of `n` slots of a group from slot `t`: the first and how many. -/
def Group.span (g : Group) (t n : Nat) : Nat × Nat :=
  if g.pair then (g.base + t / 2, (t + n + 1) / 2 - t / 2) else (g.base + t, n)

/-- R97, R162, R206: hands lane-sets of a vector to the drain path, each as one DRAIN; with `last` the final one ends the vector's
tile. The settle flags clear. -/
def State.drainSets (s : State) (f c : Nat) (wp : WinPass) (vec : Nat) (sets : List (List Nat)) (last : Bool) : State :=
  let d := wp.desc
  let g0 := (s.bu f c 0).group (Desc.grp d)
  let pairs := if g0.csel ≠ 0 || Desc.idxMode d ≠ 0 then 2 else 1
  let nls := cdiv (Desc.o d) ((Sparse.find (s.core f c).lanesOf (Desc.grp d)).getD 16)
  let b0 := (if Desc.dbuf d then vec % 2 else 0) * nls
  let s := s.checkGroup f c (Desc.grp d) 0 g0.count
  let t := sets.zipIdx.foldl (fun (s : State) p =>
    let sp := g0.span ((b0 + p.1.headD 0) * pairs) (p.1.length * pairs)
    (s.startDrain f c {
      serial := wp.serial, vec, align := Sparse.get 0 (s.core f c).aligns (Desc.grp d * 65536 + vec), grp := Desc.grp d,
      rows := sp.2, row := sp.1, outs := captureTile s f c (Desc.grp d) d wp.serial vec wp.mask wp.noElement p.1,
      last := last && decide (p.2 + 1 = sets.length) }).count (coreBlock f c) 1 1) s
  allBus.foldl (fun s u => s.updBu f c u fun b => { b with settled := 0 }) t

/-- R97, R162: hands a vector's slots to the drain path. -/
def State.drainVector (s : State) (f c : Nat) (wp : WinPass) (vec : Nat) : State :=
  let l := (Sparse.find (s.core f c).lanesOf (Desc.grp wp.desc)).getD 16
  s.drainSets f c wp vec [List.range (cdiv (Desc.o wp.desc) l)] true

/-- A microprogram's DRAIN word: its slots join the pass's tile, which the fulling unit forms after the last (R468). -/
def State.drainPlane (s : State) (f c : Nat) (wp : WinPass) (w : Word) (last : Bool) (us : List Nat) : State :=
  let g0 := (s.bu f c (us.getD 0 0)).group (insGrpC w)
  let s := s.checkGroup f c (insGrpC w) (drFirst w) (drCount w)
  let sp := g0.span (drFirst w) (drCount w)
  s.startDrain f c {
    serial := wp.serial, vec := 0, grp := insGrpC w, rows := sp.2, row := sp.1,
    outs := captureWord s f c w wp.desc wp.serial us, last }

/-- R105: DRAINs of a pass's group go on: its word-rows are released when the drain path has taken the last. -/
def Core.noteClosing (k : Core) (grp serial : Nat) : Core :=
  if k.drains.any (fun t => t.serial = serial && t.grp = grp) && !k.closing.contains (grp, serial) then
    { k with closing := k.closing ++ [(grp, serial)] }
  else k

/-- Closes a group in every BU, and remembers it while a DRAIN of it goes on (R105). -/
def State.closeGroup (s : State) (x : Ctx) (grp serial : Nat) : State :=
  (s.issue x allBus (mkWord 0x22 [(grp, 55)])).updCore x.f x.c fun k => k.noteClosing grp serial

/-- A group has been opened: the lanes of its tile are those of the pass that opened it (R162), 16 for host words, and its vectors' exponents
M are those that the pass formed, 0 for a pass that formed none (R113, R467). -/
def Core.noteOpen (k : Core) (grp lanes : Nat) (align : List Int) : Core :=
  { k with
    lanesOf := Sparse.set 16 k.lanesOf grp lanes
    aligns := align.zipIdx.foldl (fun m p => Sparse.set 0 m (grp * 65536 + p.2) p.1) (k.aligns.filter fun p => p.1 / 65536 ≠ grp) }

/-- The word-rows that a word writes, from its group's state: first and end (R105); none where it writes no slot. -/
def wordWrites (b : Bu) (w : Word) : Option (Nat × Nat) :=
  let g := b.group (insGrpB w)
  let rows (t n : Nat) : Option (Nat × Nat) := let sp := g.span t n; some (sp.1, sp.1 + sp.2)
  match insOp w with
  | 0x10 | 0x11 | 0x12 => rows (insSlot w) 1
  | 0x13 => rows (insSlot w) (g.count - insSlot w)
  | 0x14 => rows (insSlot w) (if g.pair then 2 else 1)
  | 0x15 => rows (insSlot w) 2
  | 0x21 => some (goBase w, goBase w + groupRows (goCount w) (goPair w))
  | _ => none

/-- R105: a DRAIN of the core has not taken one of these word-rows. -/
def Core.untaken (k : Core) (r : Nat × Nat) : Bool := k.drains.any fun t => t.row < r.2 && r.1 < t.row + t.rows

/-- Only drains and the close remain. -/
def onlyDrains (ts : List Todo) : Bool := ts.all fun t => match t with
  | .drain _ | .drainCard _ _ _ | .drainWord _ | .close => true
  | .word w _ _ _ => insOp w = 0x22
  | _ => false

/-- The steps of a list that stand before its next planesEnd, and those after. -/
def dropToEnd : List Todo → List Todo × List Todo
  | [] => ([], [])
  | .planesEnd :: ts => ([], ts)
  | t :: ts => let r := dropToEnd ts; (t :: r.1, r.2)

/-- Stops a pass's run, with the steps still to issue. -/
def State.stopAt (s : State) (f c serial : Nat) (ts : List Todo) (g : WinPass → WinPass) : State :=
  s.updPass f c serial fun w => g { w with todo := ts }

/-- A MALFORMED fault of an instruction word (Table 18-3). -/
def wordFault (w : Word) : PassFault :=
  { code := stMALFORMED, detail := leBytes 1 0xFF ++ leBytes 1 0 ++ leBytes 2 0xFFFF ++ leBytes 8 w.toNat }

/-- R193: a pass before this one in the window has drains or a GCLOSE that are deferred until it is the head. -/
def State.drainsBefore (s : State) (f c serial : Nat) : Bool :=
  ((s.core f c).window.takeWhile fun w => w.serial ≠ serial).any fun w => w.started && w.fault.isNone && !w.todo.isEmpty

/-- How the next word of a pass stands. -/
inductive Gate where
  /-- It may issue. -/
  | go
  /-- It fails its check: the pass faults (R183). -/
  | bad
  /-- Its GOPEN waits for the slots of a deferred drain (R193). -/
  | deferred
  /-- It waits for slots that a DRAIN has not taken (R105). -/
  | slots
  /-- It waits for a held-write entry (R201). -/
  | entry
deriving DecidableEq, Repr

/-- How a word of a pass stands in the BUs that it goes to. -/
def State.gate (s : State) (x : Ctx) (wp : WinPass) (us : List Nat) (w : Word) : Gate :=
  let k := s.core x.f x.c
  if !seqOk wp.desc w then .bad
  else if !us.all (fun u => groupOk (s.bu x.f x.c u) w) then
    if insOp w = 0x21 && s.drainsBefore x.f x.c wp.serial then .deferred else .bad
  else if us.any (fun u => match wordWrites (s.bu x.f x.c u) w with | some r => k.untaken r | none => false) then .slots
  else if x.held && (match writesRow w with | some row => !heldRoom k.held wp.serial row | none => false) then .entry
  else .go

/-- R105: slots of a pass's group, from an offset, that a DRAIN has not taken. -/
def State.slotsWait (s : State) (x : Ctx) (grp slot n : Nat) : Bool :=
  let sp := ((s.bu x.f x.c 0).group grp).span slot n
  (s.core x.f x.c).untaken (sp.1, sp.1 + sp.2)

/-- Runs the steps of a pass until they end, every BU reports settled, a held-write entry is wanted and none is free (R201), a
drain is deferred (R193), a GOPEN waits for the slots of a deferred drain (R193), a step waits for slots that the drain path has not
taken (R105), or a word is invalid (R183). -/
def runTodo (x : Ctx) (wp : WinPass) (base : Nat) (cards : List Card) : List Todo → State → State
  | [], s => s.stopAt x.f x.c wp.serial [] fun w => { w with issued := true, atSettle := false, waits := false, stalled := false }
  | t :: ts, s =>
    let go (s : State) : State := runTodo x wp base cards ts s
    let stop (g : WinPass → WinPass) (s : State) : State :=
      s.stopAt x.f x.c wp.serial (t :: ts) fun w => g { w with atSettle := false, waits := false, stalled := false }
    let wait (s : State) : State := stop (fun w => { w with waits := true }) s
    let later (issued : Bool) (s : State) : State := stop (fun w => { w with issued }) s
    let fault (e : PassFault) : State := s.passFault x.f x.c wp.serial e
    let deferred := x.held && 2 ≤ Desc.dest wp.desc
    let block := Desc.laneSets wp.desc
    match t with
    | .word w ev pl xp =>
      match s.gate x wp [0] w with
      | .bad => fault (wordFault w)
      | .deferred => later false s
      | .slots => wait s
      | .entry => stop (fun w => { w with stalled := true }) (s.count (coreBlock x.f x.c) 9 1)
      | .go =>
        if insOp w = 0x22 then
          if deferred && onlyDrains (t :: ts) && ts.any (fun t => t matches .drainWord _) then later true s
          else go (s.closeGroup x (insGrpC w) wp.serial)
        else
          let r := s.issue { x with event := ev, payload := pl, xp } allBus w
          go (if insOp w = 0x21 then r.updCore x.f x.c fun k => k.noteOpen (insGrpC w) x.lanes wp.align else r)
    | .half slot row mode imm ev =>
      if s.slotsWait x (Desc.grp wp.desc) slot 1 then wait s
      else go ((allBus.foldl (fun s u => opHalf { x with event := ev } u (Desc.grp wp.desc) slot row mode imm s) s).count
        (coreBlock x.f x.c) 1 1)
    | .sparse w ci win row live =>
      match cards[ci]? with
      | none => go s
      | some card =>
        match s.gate x wp [0] w with
        | .bad => fault (wordFault w)
        | .slots => wait s
        | _ =>
          match s.cardFault x wp.desc base card ci allBus with
          | some e => fault e
          | none => go (s.issueSparse x wp.desc base card w win row live)
    | .decode n => go (s.count (coreBlock x.f x.c) 5 (128 * n))
    | .escape w size hs only =>
      match s.gate x wp [0] w with
      | .bad => fault (wordFault w)
      | .slots => wait s
      | _ => go (s.issueEscape x wp.desc w size hs only)
    | .correct no elt v po b0 sx only =>
      if s.slotsWait x (Desc.grp wp.desc) (b0 + only.getD 0) (if only.isSome then 1 else block) then wait s
      else go (s.issueCorrection x wp base cards no elt v po b0 sx only)
    | .settle v b0 =>
      let t := allBus.foldl (fun s u => s.updBu x.f x.c u fun b => b.settleLanes wp.desc v b0) s
      if allBus.all fun u => buSettled (t.bu x.f x.c u) wp.desc wp.mask u then
        t.stopAt x.f x.c wp.serial ts fun w => { w with issued := false, atSettle := true, waits := false, stalled := false }
      else go t
    | .unsettle => go (allBus.foldl (fun s u => s.updBu x.f x.c u fun b => { b with settled := 0 }) s)
    | .planesEnd => go s
    | .biasCheck row =>
      let bad := allBus.any fun u => (List.range x.lanes).any fun l =>
        2 ^ (Desc.v wp.desc - 1) ≤ ((s.peekRow x u row).laneWord l).1.toNat
      if bad then fault { code := stOUT_OF_RANGE } else go s
    | .drain vec => if deferred then later (onlyDrains ts) s else go (s.drainVector x.f x.c wp vec)
    | .drainCard vec sets last =>
      if deferred then later (onlyDrains ts) s else go (s.drainSets x.f x.c wp vec (sets.map fun l => [l]) last)
    | .drainWord w =>
      if deferred then later (onlyDrains ts) s
      else match s.gate x wp [0] w with
        | .go => go ((s.drainPlane x.f x.c wp w (!ts.any fun t => t matches .drainWord _) allBus).countWord x.f x.c w)
        | _ => fault (wordFault w)
    | .invalid w => fault (wordFault w)
    | .close => if deferred then later true s else go (s.closeGroup x (Desc.grp wp.desc) wp.serial)

/-- The cards of a SPARSE pass (R140). -/
def State.readCards (s : State) (pf : PlanField) (wp : WinPass) : State × List Card × Bool :=
  let d := wp.desc
  if Desc.kind d ≠ 2 then (s, [], false) else
    let n := cardBytes (Desc.spForm d) (sparseWindows d)
    let r := s.comBytes pf (Desc.spCtab d) (n * Desc.spNcard d) { acc := 0, handle := wp.named, pass := wp.idx }
    (r.1, (List.range (Desc.spNcard d)).map fun i => cardOfBytes (r.2.1.drop (n * i)) (if Desc.spForm d = 1 then sparseWindows d else 0), r.2.2)

/-- Continues a pass's run. -/
def State.runPass (s : State) (f c serial : Nat) : State :=
  match (s.core f c).pass serial with
  | none => s
  | some wp =>
    if !wp.started || wp.fault.isSome || wp.atSettle then s
    else match s.planField wp.plan f with
      | none => s
      | some pf =>
        let r := s.readCards pf wp
        runTodo (r.1.passCtx f c wp) wp pf.rowBase r.2.1 wp.todo r.1

/-! ### Starting a pass (R185, R186) -/

/-- R157: a dependency is met: outside the job's segment, or committed with every drain landed. -/
def State.depMet (s : State) (job : Word) (dep : Nat × Nat) : Bool :=
  match s.job job with
  | none => true
  | some j =>
    let inSeg := match s.planField j.plan dep.1 with
      | none => false
      | some pf => (pf.cores.zip (pf.segs.getD j.seg [])).any fun p => p.1.1 + p.2.1 ≤ dep.2 && dep.2 < p.1.1 + p.2.1 + p.2.2
    !inSeg || (j.committed.contains dep &&
      !(s.mesh.packets.any fun p => p.job = job && p.idx = dep.2 && (match p.who with | some w => w.1 = dep.1 | none => false)) &&
      !(s.mesh.awaited.any fun a => a.job = job && a.field = dep.1 && a.idx = dep.2) && !s.bulkPending job dep.1 dep.2)

/-- R157: every dependency of a pass is met. -/
def State.depsMet (s : State) (wp : WinPass) : Bool := (Desc.deps wp.desc).all (s.depMet wp.job)

/-- A ROUTE of the window has no word yet. -/
def WinPass.unresolved (w : WinPass) : Bool := Desc.kind w.desc = 7 && !w.skipped && w.resolved.isNone

/-- R185, R186, R196, R201, R386, R390: it is this pass's turn in the sublist order, and its lanterns are granted: every pass before it
has started, holds no fault, fences nothing and waits for no held-write entry, and no ROUTE before it is without a prediction. -/
def State.itsTurn (s : State) (f c : Nat) (wp : WinPass) : Bool :=
  let k := s.core f c
  let before := k.window.takeWhile fun w => w.serial ≠ wp.serial
  !wp.started && !wp.skipped && wp.fault.isNone && k.level = .run && (Desc.lantern wp.desc ≤ 2 || wp.lantern = .granted) &&
  before.all (fun w => (w.started || w.skipped) && w.fault.isNone && !(Desc.fence w.desc) && !(w.unresolved && w.predicted.isNone) &&
    !w.stalled) &&
  (before.filter (·.unresolved)).length ≤ 1

/-- R185: a pass other than ROUTE, REDUCE or EDGE may start: its dependencies are met, and every pass before it has issued all its
instructions but deferred drains. -/
def State.mayStart (s : State) (f c : Nat) (wp : WinPass) : Bool :=
  s.itsTurn f c wp && s.depsMet wp &&
  ((s.core f c).window.takeWhile fun w => w.serial ≠ wp.serial).all fun w => w.issued || w.skipped

/-- R185, R222: a ROUTE, REDUCE or EDGE pass issues no bank instruction: in its turn it starts, and passes after it may start while it
waits. -/
def State.beginPass (s : State) (f c : Nat) (wp : WinPass) : State :=
  if s.itsTurn f c wp then s.updPass f c wp.serial fun w => { w with started := true, issued := true } else s

/-- A pass that waits has what its work needs: it has started, is the head, and its dependencies are met. -/
def State.mayWork (s : State) (f c : Nat) (wp : WinPass) : Bool :=
  wp.started && wp.fault.isNone && !wp.done && (s.core f c).isHead wp.serial && s.depsMet wp

/-- Starts a pass with its steps, alignments and masks, and runs it. A pass that opens no group gives its exponents to the open one. -/
def State.launch (s : State) (f c : Nat) (wp : WinPass) (ts : List Todo) (aligns : List Int) (mask : Nat) (noElement : Bool) : State :=
  let s := s.updPass f c wp.serial fun w => { w with started := true, todo := ts, align := aligns, mask, noElement }
  let s := s.updCore f c fun k => { k with aligns := aligns.zipIdx.foldl (fun m p =>
    Sparse.set 0 m (Desc.grp wp.desc * 65536 + p.2) p.1) k.aligns }
  s.runPass f c wp.serial

/-- R166: a reduction mask that selects none of a part's elements. -/
def selectsNone (d : Desc) (maskK : Nat) : Bool := Desc.mk d && maskK % 2 ^ Desc.k d = 0

/-- A pass of the window at this place, of this kind, that may start. -/
def State.startable (s : State) (f c p kind : Nat) : Option WinPass :=
  ((s.core f c).window[p]?).bind fun wp => if Desc.kind wp.desc = kind && s.mayStart f c wp then some wp else none

/-- The word that opens a pass's group (R96). -/
def openWord (d : Desc) : List Todo :=
  if Desc.opens d then [.word (mkWord 0x21 [(Desc.grp d, 55), (Desc.gopenImm d, 0)]) 0 none false] else []

/-- R162: what follows the last step of a vector: its drain; and the close after the last. -/
def drainSteps (d : Desc) (vec : Nat) : List Todo := if Desc.dest d ≠ 0 then [.drain vec] else []
def closeSteps (d : Desc) : List Todo := if Desc.dest d ≠ 0 || Desc.kind d = 10 then [.close] else []

/-- Reads every vector of a pass; the first fault stands. -/
def State.streamAll (s : State) (x : Ctx) (pf : PlanField) (wp : WinPass) (maskK : Nat) : State × List Streamed × Option PassFault :=
  (List.range (Desc.n wp.desc)).foldl (fun a v =>
    let r := a.1.streamVector x pf wp maskK v
    (r.1, a.2.1 ++ [r.2.1], match a.2.2 with | some e => some e | none => r.2.2)) (s, [], none)

/-- R38, R41, R42: the ESC codes of the part, masked ones too, and the entries of the side list name each other; in an ESCAPE pass,
which reads no codes, the entries and HAS_ESC of each group do. -/
def escAgree (d : Desc) (vs : List Streamed) (es : List SideEntry) : Bool :=
  let fx := Fmt.ofWord (Desc.fmtX d)
  !fx.esc || vs.zipIdx.all fun v =>
    if Desc.kind d = 3 then
      v.1.hasEsc.zipIdx.all fun g => g.1 = es.any fun e => e.vec = v.2 && e.elt / fx.groupSize = g.2
    else v.1.escs.zipIdx.all fun c => c.1 = es.any fun e => e.vec = v.2 && e.elt = c.2

/-- R142: the first metadata check that fails in any BU. DESIGN CHOICE: cards in order, then BUs; within a card poison, then the lanes in
the order of their records, then what stands after them (log entry 106). -/
def State.metaCheck (s : State) (x : Ctx) (wp : WinPass) (base : Nat) (cards : List Card) : State × Option PassFault :=
  let d := wp.desc
  cards.zipIdx.foldl (fun a ci => allBus.foldl (fun a u =>
    match a.2 with
    | some _ => a
    | none =>
      let m := a.1.cardMeta x u base ci.1
      match decodeCard (Desc.spForm d) (sparseGroups d) (Desc.g d) (Desc.lanes d) ci.1 m.2 with
      | .error e => (m.1, some (metaFault ci.2 e.1 e.2 (some u)))
      | .ok _ => (m.1, none)) a) (s, none)

/-- The steps of a SPARSE pass (R139, R162, R167): card by card, and in each every vector. Where a later vector uses the slots of an
earlier one, a card's part of a vector is resolved and drained before the next vector (log entry 98); else the vectors' escapes and
drains follow the last card. -/
def sparseSteps (d : Desc) (base : Nat) (cards : List Card) (vs : List Streamed) (es : List SideEntry) : List Todo :=
  let nls := Desc.laneSets d
  let block (v : Nat) : Nat := (if Desc.dbuf d then v % 2 else 0) * nls
  let escs (v : Streamed × Nat) (only : Option Nat) : List Todo :=
    stationaryEscapes d base v.1 (block v.2) only ++ streamingEscapes d v.1 es (block v.2) v.2 only
  if Desc.dest d ≠ 0 && (if Desc.dbuf d then 2 else 1) < vs.length && !cards.isEmpty then
    let rest := (List.range nls).filter fun l => cards.all (·.slot ≠ l)
    (cards.zipIdx.map fun c => (vs.zipIdx.map fun v =>
      let last := decide (c.2 + 1 = cards.length)
      cardVector d base v.1 c.1 c.2 v.2 ++ escs v (some c.1.slot) ++ (if last then rest.flatMap fun l => escs v (some l) else []) ++
        [.drainCard v.2 (c.1.slot :: (if last then rest else [])) last]).flatten).flatten
  else
    (cards.zipIdx.map fun c => (vs.zipIdx.map fun v => cardVector d base v.1 c.1 c.2 v.2).flatten).flatten ++
    (vs.zipIdx.map fun v => escs v none ++ drainSteps d v.2).flatten

/-- TABLE, SPARSE and ESCAPE passes: reads the operands, checks them, and runs the steps. -/
def State.startTable (s : State) (f c : Nat) (wp : WinPass) : State :=
  let d := wp.desc
  let fs := Fmt.ofWord (Desc.fmtS d)
  let fx := Fmt.ofWord (Desc.fmtX d)
  match s.planField wp.plan f with
  | none => s
  | some pf =>
    let x := s.passCtx f c wp
    let mk := s.maskBits pf wp (Desc.mk d) (Desc.maskK d) (Desc.k d)
    let mo := mk.1.maskBits pf wp (Desc.mo d) (Desc.maskO d) (128 * Desc.o d)
    let sv := mo.1.streamAll x pf wp mk.2
    let es := if fx.esc then sv.1.sideList pf wp else (sv.1, [], true)
    let cs := es.1.readCards pf wp
    let mc := cs.1.metaCheck x wp pf.rowBase cs.2.1
    let lists := !fs.esc || Desc.en d = 0 || allBus.all fun u => stationaryListOk d (mc.1.stationaryList x d pf.rowBase u)
    let fault := if cs.2.2 then some { code := stUNCORRECTABLE } else match sv.2.2 with
      | some e => some e
      | none => if !es.2.2 || !escAgree d sv.2.1 es.2.1 || !lists then some (metaFault 0xFFFF 0xFF 0xFF none) else mc.2
    let t := mc.1
    let drops := (sv.2.1.map fun v => (v.exps.filter fun e => (Desc.v d : Int) - Desc.ab d < v.m - e).length).sum
    let t := if Desc.kind d = 3 then t else t.count (coreBlock f c) 4 drops
    match fault with
    | some e => (t.updPass f c wp.serial fun w => { w with started := true }).passFault f c wp.serial e
    | none =>
      let base := pf.rowBase
      let block (v : Nat) : Nat := (if Desc.dbuf d then v % 2 else 0) * Desc.laneSets d
      let body := if Desc.kind d = 1 then
          (sv.2.1.zipIdx.map fun v => denseVector d base v.1 es.2.1 v.2 ++ drainSteps d v.2).flatten
        else if Desc.kind d = 3 then
          (sv.2.1.zipIdx.map fun v => streamingEscapes d v.1 es.2.1 (block v.2) v.2 none ++ drainSteps d v.2).flatten
        else sparseSteps d base cs.2.1 sv.2.1 es.2.1
      let aligns := if fx.isBsf then sv.2.1.map (·.m) else []
      t.launch f c wp ((if Desc.kind d = 3 then [] else openWord d) ++ body ++ closeSteps d) aligns mo.2 (selectsNone d mk.2)

/-- MAC16 passes (R155). -/
def State.startMac16 (s : State) (f c : Nat) (wp : WinPass) : State :=
  let d := wp.desc
  match s.planField wp.plan f with
  | none => s
  | some pf =>
    let x := s.passCtx f c wp
    let mk := s.maskBits pf wp (Desc.mk d) (Desc.maskK d) (Desc.k d)
    let mo := mk.1.maskBits pf wp (Desc.mo d) (Desc.maskO d) (128 * Desc.o d)
    let sv := (List.range (Desc.n d)).foldl (fun (a : State × List Streamed) v =>
      let r := a.1.vectorCodes x pf wp v
      (r.1, a.2 ++ [{ codes := r.2.zipIdx.map fun p => (if Desc.mk d && !nbit mk.2 p.2 then none else some p.1.1, p.1.2) }])) (mo.1, [])
    sv.1.launch f c wp (openWord d ++ (sv.2.zipIdx.map fun v => mac16Vector d pf.rowBase v.1 v.2 ++ drainSteps d v.2).flatten ++
      closeSteps d) [] mo.2 (selectsNone d mk.2)

/-- PLANE passes: the microprogram, repeated; each word is checked when it is fetched (R183, R187). -/
def State.startPlane (s : State) (f c : Nat) (wp : WinPass) : State :=
  let d := wp.desc
  match s.planField wp.plan f with
  | none => s
  | some pf =>
    let r := s.readWords (commonsAddr f + (pf.comBase + Desc.plOff d) / 8) { acc := 0, handle := wp.named, pass := wp.idx } (Desc.plLen d)
    let ws := r.2.map (·.1)
    let ok := ws.takeWhile microOk
    let step (p : Word × Nat) : Todo := if insOp p.1 = 0x23 then .drainWord p.1 else .word p.1 (Config.planeEvent wp.idx p.2) none false
    let bad := (ws.drop ok.length).head?
    -- the words before a failing one are issued; it ends the job (R183)
    let body := match bad with
      | some w => ok.zipIdx.map step ++ [.invalid w]
      | none => (List.replicate (Desc.plRep d) ws).flatten.zipIdx.map step
    if r.2.any (·.2) then (r.1.updPass f c wp.serial fun w => { w with started := true }).passFault f c wp.serial { code := stUNCORRECTABLE }
    else r.1.launch f c wp body [] 0 false

/-- DRAIN passes: drains the group left open, and closes it (R155, R159). -/
def State.startDrainPass (s : State) (f c : Nat) (wp : WinPass) : State :=
  let d := wp.desc
  match s.planField wp.plan f with
  | none => s
  | some pf =>
    let mo := s.maskBits pf wp (Desc.mo d) (Desc.maskO d) (128 * Desc.o d)
    mo.1.launch f c wp (((List.range (Desc.n d)).map (drainSteps d)).flatten ++ closeSteps d) [] mo.2 false

end Sys2Proof.Machine
end

