-- ==== Sys2Proof/Machine/Topology.lean ====
section
/-! DEFINITION. The Hatband mesh and the brim (R23, R226, R230, R236 to R238, R257): neighbours, routing fields, the breadth-first
tree, routes, the brim ring, its segments and their taps. -/

namespace Sys2Proof.Machine

/-! ### Geometry (Table 10-1) -/

/-- A physical field exists. -/
def physExists (r c : Nat) : Bool := c < rowLengths.getD r 0

/-- Columns added on the way from row r up to row r + 1, with the lowest and highest column that has such a link. -/
def upLink (r : Nat) : Option (Int × Nat × Nat) :=
  match r with
  | 0 => some (2, 0, 2) | 1 => some (1, 0, 6) | 2 => some (1, 0, 8)
  | 3 | 4 | 6 | 7 => some (0, 0, 10) | 5 => some (0, 0, 11)
  | 8 => some (-1, 1, 9) | 9 => some (-1, 1, 7) | 10 => some (-2, 2, 4)
  | _ => none

/-- The field on port N, E, S or W (0 to 3) of a physical field (R226). Rows count upward (R18). -/
def hbNeighbour (r c port : Nat) : Option (Nat × Nat) :=
  let n : Option (Nat × Nat) := match port with
    | 0 => (upLink r).bind fun l => if l.2.1 ≤ c && c ≤ l.2.2 then some (r + 1, ((c : Int) + l.1).toNat) else none
    | 1 => some (r, c + 1)
    | 2 => if r = 0 then none else (upLink (r - 1)).bind fun l =>
        let d := ((c : Int) - l.1).toNat
        if l.2.1 ≤ d && d ≤ l.2.2 && (d : Int) + l.1 = c then some (r - 1, d) else none
    | _ => if c = 0 then none else some (r, c - 1)
  n.bind fun q => if physExists q.1 q.2 then some q else none

/-- The port at the other end of a link. -/
def oppositePort (port : Nat) : Nat := (port + 2) % 4

/-- Table 10-2: the tap field of each segment. -/
def tapFields : List (Nat × Nat) := [
  (0, 1), (0, 2), (1, 5), (2, 8), (3, 10), (4, 10), (5, 11), (7, 10), (8, 10), (9, 8), (10, 6), (11, 2), (11, 1), (11, 0),
  (10, 0), (9, 0), (8, 0), (7, 0), (5, 0), (4, 0), (3, 0), (2, 0), (1, 1), (0, 0)]

/-! ### Topologies -/

/-- The logical field at a physical place, where one is. -/
def State.logicalAt (s : State) (q : Nat × Nat) : Option Nat := allFields.find? fun f =>
  (match (s.field f).health with | .lost => false | _ => true) && s.physOf f = q

/-- R230: the routing fields of the unit, as it stands: the healthy fields that carry a logical number; and the links that are
down. -/
def State.topoNow (s : State) : Topo where
  fields := allFields.filterMap fun f => match (s.field f).health with
    | .healthy => let q := s.physOf f; some (f, q.1, q.2)
    | _ => none
  down := (allFields.map fun f => let q := s.physOf f
    (List.range 4).filterMap fun p => if (Sparse.get {} (s.field f).ports p).up then none else some (q.1, q.2, p)).flatten

/-- The topology of a start in which no part fails. -/
def startTopo : Topo where
  fields := startFields.zipIdx.map fun p => (p.2, p.1.1, p.1.2)
  down := []

/-- The topology of the tables that are loaded. -/
def State.topo (s : State) : Topo := s.mesh.tables.getD startTopo

/-- A link of a topology: both ends route, and it is up at both. -/
def Topo.link (t : Topo) (a : Nat × Nat) (port : Nat) : Option (Nat × Nat) :=
  if t.down.contains (a.1, a.2, port) then none
  else match hbNeighbour a.1 a.2 port with
    | none => none
    | some b => if t.fields.any (·.2 = b) && !t.down.contains (b.1, b.2, oppositePort port) then some b else none

/-- The links of a field in the order N, E, S, W. -/
def Topo.links (t : Topo) (a : Nat × Nat) : List (Nat × (Nat × Nat)) :=
  (List.range 4).filterMap fun p => (t.link a p).map fun b => (p, b)

/-- The place of a logical field. -/
def Topo.place (t : Topo) (f : Nat) : Option (Nat × Nat) := (t.fields.find? (·.1 = f)).map (·.2)
/-- The logical field at a place. -/
def Topo.fieldAt (t : Topo) (q : Nat × Nat) : Option Nat := (t.fields.find? (·.2 = q)).map (·.1)

/-- R230: the root of the tree. -/
def Topo.root (t : Topo) : Option (Nat × Nat) :=
  [(5, 5), (5, 6), (6, 5), (6, 6)].find? fun q => t.fields.any (·.2 = q)

/-- Breadth-first depths from the root, for at most `fuel` levels. -/
def Topo.depths (t : Topo) : Nat → Nat → List (Nat × Nat) → List ((Nat × Nat) × Nat) → List ((Nat × Nat) × Nat)
  | 0, _, _, seen => seen
  | fuel + 1, d, frontier, seen =>
    let next := ((frontier.map fun a => (t.links a).map (·.2)).flatten.filter fun b => !seen.any (·.1 = b)).eraseDups
    if next.isEmpty then seen else Topo.depths t fuel (d + 1) next (seen ++ next.map fun b => (b, d))

/-- The depth of each field that is joined to the root. -/
def Topo.tree (t : Topo) : List ((Nat × Nat) × Nat) :=
  match t.root with
  | none => []
  | some r => t.depths 96 1 [r] [(r, 0)]

/-- R236: the routing fields that are cut off from the root. -/
def Topo.cutOff (t : Topo) : List Nat :=
  let tr := t.tree
  (t.fields.filter fun f => !tr.any (·.1 = f.2)).map (·.1)

/-- R230: the link from a to b is an up-link: b comes first by depth, row, column. -/
def isUp (tr : List ((Nat × Nat) × Nat)) (a b : Nat × Nat) : Bool :=
  let d (q : Nat × Nat) : Nat := ((tr.find? (·.1 = q)).map (·.2)).getD 0
  d b < d a || (d b = d a && (b.1 < a.1 || (b.1 = a.1 && b.2 < a.2)))

/-- A place on a route, and whether a down-link has been taken. -/
abbrev Leg := (Nat × Nat) × Bool

/-- The legs from which one hop leads into a set of legs. -/
def Topo.before (t : Topo) (tr : List ((Nat × Nat) × Nat)) (ends : List Leg) : List Leg :=
  (ends.map fun x => ((t.links x.1).map fun l =>
    -- the hop l.2 → x.1: an up-link only before any down-link
    if isUp tr l.2 x.1 then (if x.2 then [] else [((l.2, false) : Leg)])
    else (if x.2 then [(l.2, false), (l.2, true)] else [])).flatten).flatten.eraseDups

/-- Legs by their distance from the destination: the k-th list holds those k hops away. -/
def Topo.layers (t : Topo) (tr : List ((Nat × Nat) × Nat)) : Nat → List (List Leg) → List (List Leg)
  | 0, ls => ls
  | fuel + 1, ls =>
    let next := (t.before tr (ls.getLastD [])).filter fun x => !ls.any (·.contains x)
    if next.isEmpty then ls else Topo.layers t tr fuel (ls ++ [next])

/-- Follows a shortest route, first hop N, E, S, W; the hops as places and ports. -/
def Topo.follow (t : Topo) (tr : List ((Nat × Nat) × Nat)) (a : Leg) : List (List Leg) → List ((Nat × Nat) × Nat)
  | [] => []
  | l :: ls =>
    match (t.links a.1).find? fun p =>
        let up := isUp tr a.1 p.2
        !(up && a.2) && l.contains (p.2, a.2 || !up) with
    | some p => (a.1, p.1) :: Topo.follow t tr (p.2, a.2 || !isUp tr a.1 p.2) ls
    | none => []

/-- R230: the route between two logical fields: each place passed with the port taken; none where there is no route. -/
def Topo.route (t : Topo) (src dst : Nat) : Option (List ((Nat × Nat) × Nat)) :=
  match t.place src, t.place dst with
  | some a, some b =>
    let tr := t.tree
    let ls := t.layers tr 200 [[(b, false), (b, true)]]
    match ls.findIdx? (·.contains (a, false)) with
    | none => none
    | some k => some (t.follow tr (a, false) (ls.take k).reverse)
  | _, _ => none

/-- R230: the route from a field to a tap: each place passed with the port taken. The tap joins the router of its tap field. -/
def Topo.routeToTap (t : Topo) (f k : Nat) : Option (List ((Nat × Nat) × Nat)) :=
  (t.fieldAt (tapFields.getD k (0xFF, 0xFF))).bind fun g => t.route f g

/-- The route from a tap into the mesh. -/
def Topo.routeFromTap (t : Topo) (k f : Nat) : Option (List ((Nat × Nat) × Nat)) :=
  (t.fieldAt (tapFields.getD k (0xFF, 0xFF))).bind fun g => t.route g f

/-- A link of a route is down, or there is no route. -/
def State.hopsDown (s : State) (r : Option (List ((Nat × Nat) × Nat))) : Bool :=
  match r with
  | none => true
  | some hops => hops.any fun h => match s.topo.fieldAt h.1 with
    | some f => !(Sparse.get {} (s.field f).ports h.2).up
    | none => true

/-- R253, R255: a link of the route between two fields is down, or there is no route. -/
def State.pathDown (s : State) (src dst : Nat) : Bool := s.hopsDown (s.topo.route src dst)

/-! ### The brim (R23, R237, R238, R257, Tables 1-3, 10-2) -/

/-- R23: the link segments, ascending. -/
def linkSegments : List Nat := [1, 2, 4, 5, 7, 8, 10, 11, 13, 14, 16, 17, 19, 20, 22, 23]
/-- R23: the segment of a brim link: four to a link segment. -/
def linkSegment (l : Nat) : Nat := linkSegments.getD (l / 4) 0
/-- Table 1-3: the segment of a host port. -/
def portSegment (p : Nat) : Nat := 6 * p
/-- R257: the segment that serves a bulk slot. -/
def slotSegment (m : Nat) : Nat := 3 * (m / 2)
/-- Table 1-3: the segment of a Milliner set: the primary, then the standby. -/
def millinerSegment (i : Nat) : Nat := 12 * i

/-- R237: hops from one segment to another counter-clockwise, the way that segment numbers rise. -/
def ccwHops (a b : Nat) : Nat := (b + 24 - a) % 24

/-- R237: the segments that traffic passes from one segment to another, both among them: the shorter way around the ring, and
counter-clockwise where both are equally long. -/
def ringWay (a b : Nat) : List Nat :=
  let n := ccwHops a b
  if n ≤ 12 then (List.range (n + 1)).map fun i => (a + i) % 24
  else (List.range (24 - n + 1)).map fun i => (a + 24 - i) % 24

/-- R238: the tap of a segment works: its field is a routing field. -/
def State.tapUp (s : State) (k : Nat) : Bool := s.topoNow.fields.any fun f => f.2 = tapFields.getD k (0xFF, 0xFF)

/-- R238: some tap works. -/
def State.anyTap (s : State) : Bool := (List.range 24).any s.tapUp

/-- R238: the segment whose tap a segment uses: its own, or that of the nearest segment with a working tap, counter-clockwise first. -/
def State.tapFor (s : State) (k : Nat) : Option Nat :=
  ((List.range 13).flatMap fun d => [(k + d) % 24, (k + 24 - d) % 24]).find? s.tapUp

/-- R238, R257: no way leads from a segment, over the ring and a working tap, to a field. -/
def State.brimCut (s : State) (k f : Nat) : Bool :=
  match s.tapFor k with
  | some t => s.hopsDown (s.topo.routeFromTap t f)
  | none => true

/-- R257: no way leads from a field, over a working tap and the ring, to a segment. -/
def State.brimCutFrom (s : State) (f k : Nat) : Bool :=
  match s.tapFor k with
  | some t => s.hopsDown (s.topo.routeToTap f t)
  | none => true

end Sys2Proof.Machine
end

