-- ==== Sys2Proof/Machine/BankUnit.lean ====
section
/-! DEFINITION. The meanings of the bank unit's rows: its 24 instructions, issued by the host through a command FIFO or by the
core sequencer for a pass (R84 to R105, R345), its yield points (R99, R100), the skip of a settled vector (R207), the drain
path (R124) and the release of a group (R105). -/

namespace Sys2Proof.Machine

/-! ### Issue -/

/-- The target names a core of the unit and, in it, BUs. -/
def buAtOk (a : BuAt) : Bool :=
  a.field < 96 && a.core < 8 && (match a.bu with | some u => decide (u < 128) | none => true)

/-- The BUs of a target. -/
def targets (a : BuAt) : List Nat := match a.bu with | some u => [u] | none => allBus

/-- What a core notes of a GOPEN: the lane count of its group (R162) and the exponents of its vectors (R113); host words use 16 lanes
and no exponent. -/
def State.noteOpen (s : State) (f c : Nat) (w : Word) (lanes : Nat) (align : List Int) : State :=
  if insOp w = 0x21 then s.updCore f c fun k => k.noteOpen (insGrpC w) lanes align else s

/-- Table 20-1: counts a word that is broadcast in a core; a word for one BU is no broadcast. -/
def State.countIssue (s : State) (a : BuAt) (w : Word) : State := if a.bu.isNone then s.countWord a.field a.core w else s

/-- R102: a BU discards an invalid command word: counted, marked in its status and logged. -/
def State.discardWord (s : State) (f c u port : Nat) (w : Word) : State :=
  ((s.updBu f c u fun b => { b with invalidSeen := true }).count (coreBlock f c) 17 1).logFault {
    code := stMALFORMED, cls := 2, part := 0, field := f, core := c, bu := u, pbu := (s.bu f c u).phys u,
    detail := leBytes 1 port ++ leBytes 1 0 ++ leBytes 2 0xFFFF ++ leBytes 8 w.toNat }

/-- R346: returns a field to data mode: groups that host words left open close, and its cores are no longer pinned. -/
def State.toDataMode (s : State) (f : Nat) : State :=
  let t := allCores.foldl (fun s c =>
    let s := allBus.foldl (fun s u => s.updBu f c u fun b => b.closeGroups (buKey f c u) fun g => g.opener.isNone) s
    s.updCore f c fun k => { k with pinnedBy := k.pinnedBy.filter (· ≠ 0) }) s
  t.updField f fun x => { x with cmdMode := none, cmdEnding := false }

/-- R350: command mode that is ending ends when every FIFO of the field is empty. -/
def State.endCommands (s : State) (f : Nat) : State :=
  if (s.field f).cmdEnding && allCores.all (fun c => (s.core f c).fifo.isEmpty) then s.toDataMode f else s

/-- R345: the host word at the front of the core's FIFO executes in the BUs of its target; a BU in which it is invalid discards
it (R98, R102). Nothing happens where this word is not the front, or the core is not at run. DESIGN CHOICE: the count of words that the BU
has executed, in the SR event of a stepping word, is the count before that word (log entry 105). -/
def hostWord (op : Ctx → Nat → Word → State → State) (a : BuAt) (w : Word) (s : State) : State :=
  let f := a.field
  let c := a.core
  let k := s.core f c
  match k.fifo with
  | [] => s
  | q :: rest =>
    if q.bu = a.bu && q.w = w && k.level = .run then
      let t := s.setCore f c { k with fifo := rest }
      let t := (targets a).foldl (fun s u =>
        if groupOk (s.bu f c u) w then
          (op { f, c, event := (s.bu f c u).executed.toNat % 2 ^ 20 } u w s).updBu f c u fun b => { b with executed := b.executed + 1 }
        else s.discardWord f c u q.port w) t
      let t := if (targets a).any (fun u => groupOk (s.bu f c u) w) then t.noteOpen f c w 16 [] else t
      (t.countIssue a w).endCommands f
    else s

/-- A word that the sequencer issues for pass `p` of its window, with its event and payload: the work of the pass's stream, of
which TABLE_PASS and the rows beside it issue the whole. A pass that has not started or holds a fault issues nothing (R196); an
invalid word faults the pass (R102, R183); a word waits for slots that a DRAIN has not taken (R105), and a row write of a speculative
pass for a held-write entry (R201). -/
def seqWord (op : Ctx → Nat → Word → State → State) (a : BuAt) (p event : Nat) (payload : Option Row) (w : Word) (s : State) : State :=
  let f := a.field
  let c := a.core
  match (s.core f c).window[p]? with
  | none => s
  | some wp =>
    if !wp.started || wp.fault.isSome then s
    else
      let x := { s.passCtx f c wp with event, payload := payload.map fun r => { bits := r } }
      match s.gate x wp (targets a) w with
      | .bad => s.passFault f c wp.serial (wordFault w)
      | .deferred => s
      | .slots => s
      | .entry => s.count (coreBlock f c) 9 1
      | .go => (((targets a).foldl (fun s u => op x u w s) s).noteOpen f c w x.lanes wp.align).countIssue a w

/-- A word by its issuer. -/
def buWord (op : Ctx → Nat → Word → State → State) (a : BuAt) (i : Issue) (w : Word) (s : State) : State :=
  match i with
  | .host => hostWord op a w s
  | .seq p event payload => seqWord op a p event payload w s

/-- The target exists, and the word is the row's. -/
def buOk (a : BuAt) (w : Word) (op : Nat) : Bool := buAtOk a && insOp w = op

/-! ### The instructions -/

/-- NOP. -/
def execNop (a : BuAt) (i : Issue) (w : Word) (s : State) : Host.Outcome State Fault Refusal :=
  onPart [.out, .bus, .cores, .fields, .ports, .log, .counters] (buOk a w 0x00) s (buWord opNop a i w)
/-- PLOGIC. -/
def execPlogic (a : BuAt) (i : Issue) (w : Word) (s : State) : Host.Outcome State Fault Refusal :=
  onPart [.out, .mem, .bus, .cores, .fields, .ports, .log, .counters] (buOk a w 0x01) s (buWord opPlogic a i w)
/-- PADD. -/
def execPadd (a : BuAt) (i : Issue) (w : Word) (s : State) : Host.Outcome State Fault Refusal :=
  onPart [.out, .mem, .bus, .cores, .fields, .ports, .log, .counters] (buOk a w 0x02) s (buWord opPadd a i w)
/-- PSUB. -/
def execPsub (a : BuAt) (i : Issue) (w : Word) (s : State) : Host.Outcome State Fault Refusal :=
  onPart [.out, .mem, .bus, .cores, .fields, .ports, .log, .counters] (buOk a w 0x03) s (buWord opPsub a i w)
/-- PCMP. -/
def execPcmp (a : BuAt) (i : Issue) (w : Word) (s : State) : Host.Outcome State Fault Refusal :=
  onPart [.out, .mem, .bus, .cores, .fields, .ports, .log, .counters] (buOk a w 0x04) s (buWord opPcmp a i w)
/-- PFLAG. -/
def execPflag (a : BuAt) (i : Issue) (w : Word) (s : State) : Host.Outcome State Fault Refusal :=
  onPart [.out, .mem, .bus, .cores, .fields, .ports, .log, .counters] (buOk a w 0x05) s (buWord opPflag a i w)
/-- PSEL. -/
def execPsel (a : BuAt) (i : Issue) (w : Word) (s : State) : Host.Outcome State Fault Refusal :=
  onPart [.out, .mem, .bus, .cores, .fields, .ports, .log, .counters] (buOk a w 0x06) s (buWord opPsel a i w)
/-- PSHE. -/
def execPshe (a : BuAt) (i : Issue) (w : Word) (s : State) : Host.Outcome State Fault Refusal :=
  onPart [.out, .mem, .bus, .cores, .fields, .ports, .log, .counters] (buOk a w 0x07) s (buWord opPshe a i w)
/-- PPOP. -/
def execPpop (a : BuAt) (i : Issue) (w : Word) (s : State) : Host.Outcome State Fault Refusal :=
  onPart [.out, .bus, .cores, .fields, .ports, .log, .counters] (buOk a w 0x08) s (buWord opPpop a i w)
/-- ROWCP. -/
def execRowcp (a : BuAt) (i : Issue) (w : Word) (s : State) : Host.Outcome State Fault Refusal :=
  onPart [.out, .mem, .bus, .cores, .fields, .ports, .log, .counters] (buOk a w 0x09) s (buWord opRowcp a i w)
/-- PBCAST. -/
def execPbcast (a : BuAt) (i : Issue) (w : Word) (s : State) : Host.Outcome State Fault Refusal :=
  onPart [.out, .bus, .cores, .fields, .ports, .log, .counters] (buOk a w 0x0A) s (buWord opPbcast a i w)
/-- LOOKUP. -/
def execLookup (a : BuAt) (i : Issue) (w : Word) (s : State) : Host.Outcome State Fault Refusal :=
  onPart [.out, .mem, .bus, .cores, .fields, .ports, .log, .counters] (buOk a w 0x10) s (buWord opLookup a i w)

/-- The card of a pass in the window, with the plan's first row. -/
def State.passCard (s : State) (f c p card : Nat) : Option (WinPass × Nat × Card) :=
  ((s.core f c).window[p]?).bind fun wp => (s.planField wp.plan f).bind fun pf =>
    ((s.readCards pf wp).2.1[card]?).map fun k => (wp, pf.rowBase, k)

/-- The places that a BU's metadata gives the lanes of a card's row, none where the decoder has no such card (R137). -/
def State.cardPlaces (s : State) (f c p u card win row : Nat) : Nat → Option Nat :=
  match s.passCard f c p card with
  | none => fun _ => none
  | some k => match s.rowPlaces (s.passCtx f c k.1) k.1.desc k.2.1 u k.2.2 win row with
    | .error _ => fun _ => none
    | .ok q => q

/-- R142: the metadata check that a LOOKUPS meets in its BUs. -/
def State.lookupsFault (s : State) (a : BuAt) (p card : Nat) : Option PassFault :=
  (s.passCard a.field a.core p card).bind fun k =>
    s.cardFault (s.passCtx a.field a.core k.1) k.1.desc k.2.1 k.2.2 card (targets a)

/-- R144: CARD_IDLE_LANES counts the card's lanes without a place, in each BU. -/
def State.countIdle (s : State) (a : BuAt) (p card win row : Nat) : State :=
  match s.passCard a.field a.core p card with
  | none => s
  | some k => (targets a).foldl (fun s u =>
      s.count (coreBlock a.field a.core) 6 (idleLanes k.2.2 (s.cardPlaces a.field a.core p u card win row))) s

/-- R90, R137, R142, R144: a LOOKUPS of a pass. Metadata that fails a check faults the pass. -/
def lookupsWord (a : BuAt) (i : Issue) (w : Word) (card win row : Nat) (s : State) : State :=
  match i with
  | .host => s
  | .seq p _ _ =>
    let f := a.field
    let c := a.core
    match (s.core f c).window[p]? with
    | none => s
    | some wp =>
      if !wp.started || wp.fault.isSome then s
      else match s.lookupsFault a p card with
        | some e => s.passFault f c wp.serial e
        | none =>
          let t := buWord (fun x u w s => opLookups x u w (s.cardPlaces f c p u card win row) s) a i w s
          if s.gate (s.passCtx f c wp) wp (targets a) w = .go then t.countIdle a p card win row else t

/-- LOOKUPS: only the sequencer issues it (R102). -/
def execLookups (a : BuAt) (i : Issue) (w : Word) (card win row : Nat) (s : State) : Host.Outcome State Fault Refusal :=
  onPart [.out, .mem, .bus, .cores, .fields, .ports, .log, .counters] (buOk a w 0x11) s (lookupsWord a i w card win row)
/-- MAC16. -/
def execMac16 (a : BuAt) (i : Issue) (w : Word) (s : State) : Host.Outcome State Fault Refusal :=
  onPart [.out, .mem, .bus, .cores, .fields, .ports, .log, .counters] (buOk a w 0x12) s (buWord opMac16 a i w)
/-- ESCMAC. -/
def execEscmac (a : BuAt) (i : Issue) (w : Word) (s : State) : Host.Outcome State Fault Refusal :=
  onPart [.out, .mem, .bus, .cores, .fields, .ports, .log, .counters] (buOk a w 0x13) s (buWord opEscmac a i w)
/-- PRELOAD. -/
def execPreload (a : BuAt) (i : Issue) (w : Word) (s : State) : Host.Outcome State Fault Refusal :=
  onPart [.out, .mem, .bus, .cores, .fields, .ports, .log, .counters] (buOk a w 0x14) s (buWord opPreload a i w)
/-- CSEL. -/
def execCsel (a : BuAt) (i : Issue) (w : Word) (s : State) : Host.Outcome State Fault Refusal :=
  onPart [.out, .mem, .bus, .cores, .fields, .ports, .log, .counters] (buOk a w 0x15) s (buWord opCsel a i w)
/-- TBUILD. -/
def execTbuild (a : BuAt) (i : Issue) (w : Word) (s : State) : Host.Outcome State Fault Refusal :=
  onPart [.out, .mem, .bus, .cores, .fields, .ports, .log, .counters] (buOk a w 0x16) s (buWord opTbuild a i w)
/-- YIELD. -/
def execYield (a : BuAt) (i : Issue) (w : Word) (s : State) : Host.Outcome State Fault Refusal :=
  onPart [.out, .mem, .bus, .cores, .fields, .ports, .winReqs, .log, .counters] (buOk a w 0x20) s (buWord opYield a i w)
/-- GOPEN. -/
def execGopen (a : BuAt) (i : Issue) (w : Word) (s : State) : Host.Outcome State Fault Refusal :=
  onPart [.out, .bus, .cores, .fields, .ports, .log, .counters] (buOk a w 0x21) s (buWord opGopen a i w)

/-- GCLOSE of a pass (R96). While a DRAIN of its group goes on, the word-rows are released later (R105). A speculative pass that
drains to anywhere but its own bank rows closes its groups once it is the head, after its drains (R193). -/
def gcloseWord (a : BuAt) (i : Issue) (w : Word) (s : State) : State :=
  match i with
  | .host => buWord opGclose a i w s
  | .seq p _ _ =>
    let f := a.field
    let c := a.core
    match (s.core f c).window[p]? with
    | none => s
    | some wp =>
      let x := s.passCtx f c wp
      if wp.started && wp.fault.isNone && x.held && 2 ≤ Desc.dest wp.desc && s.gate x wp (targets a) w = .go then
        s.updPass f c wp.serial fun q => { q with todo := q.todo ++ [.word w 0 none false] }
      else (buWord opGclose a i w s).updCore f c fun k => k.noteClosing (insGrpC w) wp.serial

/-- GCLOSE. -/
def execGclose (a : BuAt) (i : Issue) (w : Word) (s : State) : Host.Outcome State Fault Refusal :=
  onPart [.out, .bus, .cores, .fields, .ports, .log, .counters] (buOk a w 0x22) s (gcloseWord a i w)

/-- DRAIN: only the sequencer issues it (R102). It hands the slots to the drain path, and does not change them (R104). A drain
of a speculative pass to anywhere but its own bank rows is deferred (R193). -/
def drainIssue (a : BuAt) (i : Issue) (w : Word) (s : State) : State :=
  match i with
  | .host => s
  | .seq p _ _ =>
    let f := a.field
    let c := a.core
    match (s.core f c).window[p]? with
    | none => s
    | some wp =>
      if !wp.started || wp.fault.isSome then s
      else if s.gate (s.passCtx f c wp) wp (targets a) w ≠ .go then s.passFault f c wp.serial (wordFault w)
      else if !(s.core f c).isHead wp.serial && 2 ≤ Desc.dest wp.desc then
        s.updPass f c wp.serial fun x => { x with todo := x.todo ++ [.drainWord w] }
      else (s.drainPlane f c wp w true (targets a)).countIssue a w

/-- DRAIN. -/
def execDrain (a : BuAt) (i : Issue) (w : Word) (s : State) : Host.Outcome State Fault Refusal :=
  onPart [.out, .bus, .cores, .ports, .log, .counters] (buOk a w 0x23) s (drainIssue a i w)
/-- SSET. -/
def execSset (a : BuAt) (i : Issue) (w : Word) (s : State) : Host.Outcome State Fault Refusal :=
  onPart [.out, .bus, .cores, .fields, .ports, .log, .counters] (buOk a w 0x24) s (buWord opSset a i w)
/-- SADD. -/
def execSadd (a : BuAt) (i : Issue) (w : Word) (s : State) : Host.Outcome State Fault Refusal :=
  onPart [.out, .bus, .cores, .fields, .ports, .log, .counters] (buOk a w 0x25) s (buWord opSadd a i w)

/-! ### Yield points (R99, R100) -/

/-- A logical BU. -/
def buExists (f c u : Nat) : Bool := f < 96 && c < 8 && u < 128
/-- A logical core. -/
def coreExists (f c : Nat) : Bool := f < 96 && c < 8

/-- A yield point of a BU whose core is at run: accesses to a core at a lower level wait for its wake (R342). -/
def State.yieldAt (s : State) (f c u : Nat) : State := if (s.core f c).level = .run then s.yieldPoint f c u else s

/-- YIELD_INTERVAL_EXPIRY: the first instruction boundary 247 cycles after the last yield point (R99). -/
def execYieldIntervalExpiry (f c u : Nat) (s : State) : Host.Outcome State Fault Refusal :=
  onPart [.out, .mem, .bus, .ports, .winReqs, .log, .counters] (buExists f c u) s fun s => s.yieldAt f c u

/-- IDLE_CYCLE_YIELD: a cycle in which the BU starts no instruction (R99). -/
def execIdleCycleYield (f c u : Nat) (s : State) : Host.Outcome State Fault Refusal :=
  onPart [.out, .mem, .bus, .ports, .winReqs, .log, .counters] (buExists f c u) s fun s => s.yieldAt f c u

/-! ### Settle, drain path, release -/

/-- The cycles of steps that are skipped. -/
def todoCost (ts : List Todo) : Nat := (ts.map fun t => match t with | .word w _ _ _ => insCost w | .half _ _ _ _ _ => 1 | _ => 0).sum

/-- R207: skips to the vector's drain when every BU reports settled. -/
def State.settledSkip (s : State) (f c : Nat) : State :=
  match (s.core f c).window.find? (·.atSettle) with
  | none => s
  | some wp =>
    let r := dropToEnd wp.todo
    ((s.count (coreBlock f c) 10 (todoCost r.1)).updPass f c wp.serial fun w => { w with todo := r.2, atSettle := false }).runPass
      f c wp.serial

/-- CORE_SETTLED_SKIP (R207). -/
def execCoreSettledSkip (f c : Nat) (s : State) : Host.Outcome State Fault Refusal :=
  onPart [.out, .mem, .bus, .cores, .ports, .winReqs, .log, .counters] (coreExists f c) s fun s => s.settledSkip f c

/-- The vector that a drain task ends: its outputs, those of the tile's earlier DRAINs first. A tile drained card by card enters in
ascending BU and output (R468). -/
def DrainTask.tile (t : DrainTask) (wp : WinPass) : List Output :=
  let outs := Sparse.get [] wp.tile t.vec ++ t.outs
  if Desc.kind wp.desc = 2 && !(Sparse.get [] wp.tile t.vec).isEmpty then tileOrder outs else outs

/-- R201: a DRAIN whose last word-row is next must wait: its vector's rows find no held-write entries. -/
def State.drainStalls (s : State) (f c : Nat) (t : DrainTask) (wp : WinPass) : Bool :=
  decide (t.rows ≤ 1) && t.last && !s.tileRoom f c (s.passCtx f c wp) wp t.vec t.align (t.tile wp)

/-- R257: a drain to bulk has no way from its field to the slot's segment, and waits. -/
def State.drainCut (s : State) (f : Nat) (wp : WinPass) : Bool :=
  Desc.dest wp.desc = 4 && s.brimCutFrom f (slotSegment (Desc.addr wp.desc / 2 ^ 37 % 16))

/-- R148: the first DRAIN of a core is served once no DRAIN of another core that arrived earlier can be. -/
def State.drainTurn (s : State) (f c : Nat) (t : DrainTask) : Bool :=
  allCores.all fun d => d = c || (match (s.core f d).drains with
    | [] => true
    | q :: _ => decide (t.arrival < q.arrival) || (decide (t.arrival = q.arrival) && decide (c < d)) ||
        (match (s.core f d).pass q.serial with | some wp => s.drainStalls f d q wp || s.drainCut f wp | none => false))

/-- The passes of a core that waited for slots go on (R105). -/
def State.resumeWaits (s : State) (f c : Nat) : State :=
  (s.core f c).window.foldl (fun s w => if w.waits then s.runPass f c w.serial else s) s

/-- R124, R97, R148: the drain path takes a word-row of the core's first DRAIN in its turn at the fulling unit. When a DRAIN's rows are all
taken its outputs join the tile, and the last DRAIN of a tile forms and delivers it (R468). -/
def State.drainTake (s : State) (f c : Nat) : State :=
  let k := s.core f c
  match k.drains with
  | [] => s
  | t :: ts =>
    if !s.drainTurn f c t then s
    else if 1 < t.rows then
      (s.setCore f c { k with drains := { t with rows := t.rows - 1, row := t.row + 1 } :: ts }).resumeWaits f c
    else match k.pass t.serial with
      | none => s.setCore f c { k with drains := ts }
      | some wp =>
        if s.drainCut f wp then s
        else if s.drainStalls f c t wp then (s.updPass f c t.serial fun w => { w with stalled := true }).count (coreBlock f c) 9 1
        else
          let u := s.setCore f c { k with drains := ts }
          if t.last then
            ((u.updPass f c t.serial fun w => { w with tile := Sparse.set [] w.tile t.vec [], stalled := false }).formTile f c t.serial
              (s.passCtx f c wp) t.vec t.align (t.tile wp)).resumeWaits f c
          else (u.updPass f c t.serial fun w => { w with
            tile := Sparse.set [] w.tile t.vec (Sparse.get [] w.tile t.vec ++ t.outs) }).resumeWaits f c

/-- DRAIN_PATH_TAKE. -/
def execDrainPathTake (f c : Nat) (s : State) : Host.Outcome State Fault Refusal :=
  onPart [.freeCtr, .out, .mem, .bus, .cores, .ports, .winReqs, .jobs, .log, .counters, .mesh, .slots] (coreExists f c) s fun s =>
    s.drainTake f c

/-- R105: the word-rows of a closed group are released once no DRAIN of it remains. -/
def State.releaseGroup (s : State) (f c g : Nat) : State :=
  s.updCore f c fun k => { k with closing := k.closing.filter fun p => p.1 ≠ g || k.drains.any fun t => t.serial = p.2 && t.grp = g }

/-- GROUP_RELEASE. -/
def execGroupRelease (f c g : Nat) (s : State) : Host.Outcome State Fault Refusal :=
  onPart [.cores] (coreExists f c && g < 8) s fun s => s.releaseGroup f c g

end Sys2Proof.Machine
end

