-- ==== Sys2Proof/Machine/Float.lean ====
section
/-! DEFINITION. Floating-point values of the edge unit (R213 to R216): decoding, one rounding of an exact rational to a format,
exact sums and products, and correctly rounded square roots, exponentials, logarithms, hyperbolic tangents and logistic
functions by interval arithmetic. -/

namespace Sys2Proof.Machine

/-- A binary floating-point format: bits, precision with the leading bit, least normal exponent. -/
structure FpFmt where
  w : Nat
  p : Nat
  emin : Int
deriving DecidableEq, Repr

def fp32 : FpFmt := ⟨32, 24, -126⟩
def bf16 : FpFmt := ⟨16, 8, -126⟩
def fp16 : FpFmt := ⟨16, 11, -14⟩

/-- The code of +Inf. -/
def FpFmt.inf (t : FpFmt) : Nat := (2 ^ (t.w - t.p) - 1) * 2 ^ (t.p - 1)
/-- The canonical quiet NaN (R214, R216). -/
def FpFmt.nan (t : FpFmt) : Nat := t.inf + 2 ^ (t.p - 2)
/-- A sign bit. -/
def FpFmt.sign (t : FpFmt) (neg : Bool) : Nat := if neg then 2 ^ (t.w - 1) else 0

/-- A decoded value: NaN, an infinity, or ±n × 2^e. -/
inductive Num where
  | nan
  | inf (neg : Bool)
  | fin (neg : Bool) (n : Nat) (e : Int)
deriving DecidableEq, Repr

/-- Decodes a code. -/
def FpFmt.decode (t : FpFmt) (c : Nat) : Num :=
  let neg := nbit c (t.w - 1)
  let m := c % 2 ^ (t.w - 1)
  if t.inf < m then .nan
  else if m = t.inf then .inf neg
  else
    let ex := m / 2 ^ (t.p - 1)
    let fr := m % 2 ^ (t.p - 1)
    if ex = 0 then .fin neg fr (t.emin - (t.p - 1 : Nat)) else .fin neg (fr + 2 ^ (t.p - 1)) (t.emin - (t.p - 1 : Nat) + (ex - 1 : Nat))

/-- A power of two as a fraction. -/
def powNum (e : Int) : Nat := 2 ^ e.toNat
def powDen (e : Int) : Nat := 2 ^ (-e).toNat

/-- The exponent E of n ÷ d, 2^E ≤ n ÷ d < 2^(E+1), for n and d above 0. -/
def ratLog (n d : Nat) : Int :=
  let e : Int := (Nat.log2 n : Int) - (Nat.log2 d : Int)
  if n * powDen e < d * powNum e then e - 1 else e

/-- n ÷ d rounded to the nearest integer, ties to even. -/
def divEven (n d : Nat) : Nat :=
  let q := n / d
  let r := 2 * (n % d)
  if d < r || (r = d && q % 2 = 1) then q + 1 else q

/-- ±n ÷ d rounded once to the format, ties to even; overflow gives ±Inf, and subnormals are exact (R215, R216). -/
def FpFmt.round (t : FpFmt) (neg : Bool) (n d : Nat) : Nat :=
  if n = 0 then t.sign neg
  else
    let ex := max (ratLog n d) t.emin
    let u := ex - (t.p - 1 : Nat)
    let m := divEven (n * powDen u) (d * powNum u)
    t.sign neg + min t.inf ((ex - t.emin).toNat * 2 ^ (t.p - 1) + m)

/-- A value rounded to the format. -/
def FpFmt.ofNum (t : FpFmt) : Num → Nat
  | .nan => t.nan
  | .inf neg => t.sign neg + t.inf
  | .fin neg n e => t.round neg (n * powNum e) (powDen e)

/-- A code widened exactly to FP32, NaN included (Table 2-8). -/
def FpFmt.widen (t : FpFmt) (c : Nat) : Nat :=
  match t.decode c with
  | .nan => fp32.sign (nbit c (t.w - 1)) + fp32.inf + c % 2 ^ (t.p - 1) * 2 ^ (24 - t.p)
  | v => fp32.ofNum v

/-- An FP32 code rounded to a narrower format (Table 2-8). -/
def FpFmt.narrow (t : FpFmt) (c : Nat) : Nat := t.ofNum (fp32.decode c)

/-- An operand as an operation of this type uses it: rounded to BF16 or FP16 first (R215). -/
def typeRound (ty c : Nat) : Nat :=
  if ty = 1 then bf16.widen (bf16.narrow c) else if ty = 2 then fp16.widen (fp16.narrow c) else c

/-! ### Exact operations -/

/-- ±n × 2^e as an integer multiple of 2^g, g at most e. -/
def finInt (neg : Bool) (n : Nat) (e g : Int) : Int := (if neg then -1 else 1) * (n : Int) * pow2 (e - g).toNat

/-- A sum; `zs` the sign where the spec states none. -/
def numAdd (zs : Bool) : Num → Num → Num
  | .nan, _ | _, .nan => .nan
  | .inf s, .inf t => if s = t then .inf s else .nan
  | .inf s, .fin .. => .inf s
  | .fin .., .inf t => .inf t
  | .fin s n e, .fin t m k =>
    let g := min e k
    let v := finInt s n e g + finInt t m k g
    if v = 0 then (if n = 0 && m = 0 && s = t then .fin s 0 0 else .fin zs 0 0) else .fin (decide (v < 0)) v.natAbs g

/-- A product. -/
def numMul : Num → Num → Num
  | .nan, _ | _, .nan => .nan
  | .inf s, .inf t => .inf (s != t)
  | .inf s, .fin t m _ => if m = 0 then .nan else .inf (s != t)
  | .fin s n _, .inf t => if n = 0 then .nan else .inf (s != t)
  | .fin s n e, .fin t m k => .fin (s != t) (n * m) (e + k)

/-- The negation. -/
def numNeg : Num → Num
  | .nan => .nan
  | .inf s => .inf (!s)
  | .fin s n e => .fin (!s) n e

/-- The order of R216: −0 below +0. -/
def fpOrder (c : Nat) : Int := if nbit c 31 then -((c % 2 ^ 31 : Nat) : Int) - 1 else ((c % 2 ^ 31 : Nat) : Int)

/-- A correctly rounded quotient; `open_` where the spec states none (x ÷ 0, Inf ÷ Inf). -/
def fpDiv (open_ : Nat) (a b : Num) : Nat :=
  match a, b with
  | .nan, _ | _, .nan => fp32.nan
  | .inf _, .inf _ => open_
  | .inf s, .fin t m _ => if m = 0 then open_ else fp32.sign (s != t) + fp32.inf
  | .fin s _ _, .inf t => fp32.sign (s != t)
  | .fin s n e, .fin t m k =>
    if m = 0 then (if n = 0 then fp32.nan else open_)
    else fp32.round (s != t) (n * powNum (e - k)) (m * powDen (e - k))

/-! ### Square roots -/

/-- Floor of a square root, a bit of the result at a time: `i` bits to go, `r` found so far. -/
def isqrtBits (n : Nat) : Nat → Nat → Nat
  | 0, r => r
  | i + 1, r => let t := r + 2 ^ i; isqrtBits n i (if t * t ≤ n then t else r)

/-- Floor of the square root of a number. -/
def isqrt (n : Nat) : Nat := isqrtBits n (Nat.log2 n / 2 + 1) 0

/-- √(n ÷ d) rounded once: 80 bits below the leading one, and whether more follow. -/
def fpSqrtRat (n d : Nat) : Nat :=
  let k := 2 * (80 + (ratLog n d).natAbs)
  let x := n * 2 ^ k / d
  let r := isqrt x
  let exact_ := r * r = x && n * 2 ^ k % d = 0
  fp32.round false (2 * r + (if exact_ then 0 else 1)) (2 ^ (k / 2 + 1))

/-! ### Transcendental functions by intervals -/

/-- Bounds of e^(n ÷ d) for 0 < n ÷ d, in units of 2^−p: the argument is halved `k` times, a series gives the exponential, and `k`
squarings follow. -/
def expSeries (p : Nat) (lo hi : Nat) : Nat → Nat → Nat → Nat → Nat → Nat → Nat × Nat
  | 0, _, _, th, sl, sh => (sl, sh + th + 2)
  | fuel + 1, i, tl, th, sl, sh =>
    let tl := tl * lo / (2 ^ p * i)
    let th := th * hi / (2 ^ p * i) + 1
    expSeries p lo hi fuel (i + 1) tl th (sl + tl) (sh + th)

/-- Squares an interval `k` times. -/
def squareTimes (p : Nat) : Nat → Nat × Nat → Nat × Nat
  | 0, x => x
  | k + 1, x => squareTimes p k (x.1 * x.1 / 2 ^ p, x.2 * x.2 / 2 ^ p + 1)

/-- Bounds of e^x for x = n ÷ d > 0. -/
def expBounds (p n d : Nat) : Nat × Nat :=
  let k := (ratLog n d + 8).toNat
  let lo := n * 2 ^ p / (d * 2 ^ k)
  squareTimes p k (expSeries p lo (lo + 1) (p / 7 + 3) 1 (2 ^ p) (2 ^ p) (2 ^ p) (2 ^ p))

/-- Bounds of atanh(n ÷ d) for 0 ≤ n ÷ d ≤ 1/2, in units of 2^−p. -/
def atanhSeries (p : Nat) (lo2 hi2 : Nat) : Nat → Nat → Nat → Nat → Nat → Nat → Nat × Nat
  | 0, _, _, th, sl, sh => (sl, sh + 2 * th + 2)
  | fuel + 1, i, tl, th, sl, sh =>
    let sl := sl + tl / i
    let sh := sh + th / i + 1
    atanhSeries p lo2 hi2 fuel (i + 2) (tl * lo2 / 2 ^ p) (th * hi2 / 2 ^ p + 1) sl sh

/-- Bounds of atanh(n ÷ d). -/
def atanhBounds (p n d : Nat) : Nat × Nat :=
  let t := n * 2 ^ p / d
  atanhSeries p (t * t / 2 ^ p) ((t + 1) * (t + 1) / 2 ^ p + 1) (p / 2 + 2) 1 t (t + 1) 0 0

/-- Bounds of ln(n × 2^e), in units of 2^−p: z = n ÷ 2^j in [2/3, 4/3), ln z = ±2 atanh, and the exponent times ln 2. -/
def logBounds (p n : Nat) (e : Int) : Int × Int :=
  let j := Nat.log2 n
  let up := 4 * 2 ^ j ≤ 3 * n
  let j := if up then j + 1 else j
  let z := 2 ^ j
  let a := if z ≤ n then atanhBounds p (n - z) (n + z) else atanhBounds p (z - n) (n + z)
  let l2 := atanhBounds p 1 3
  let q := e + j
  let ql : Int := if 0 ≤ q then q * l2.1 else q * l2.2
  let qh : Int := if 0 ≤ q then q * l2.2 else q * l2.1
  if z ≤ n then (2 * (ql + a.1), 2 * (qh + a.2)) else (2 * (ql - a.2), 2 * (qh - a.1))

/-- Rounds an interval of positive fractions once both ends agree, else at twice the precision. -/
def agree (f : Nat → (Nat × Nat) × (Nat × Nat)) (neg : Bool) : Nat → Nat → Nat
  | 0, p => fp32.round neg (f p).1.1 (f p).1.2
  | fuel + 1, p =>
    let r := f p
    let a := fp32.round neg r.1.1 r.1.2
    if a = fp32.round neg r.2.1 r.2.2 then a else agree f neg fuel (2 * p)

/-- Tries of precision: from 128 bits, doubling. -/
def tries : Nat := 6

/-- e^x. -/
def fpExp : Num → Nat
  | .nan => fp32.nan
  | .inf neg => if neg then 0 else fp32.inf
  | .fin neg n e =>
    let a := n * powNum e
    let d := powDen e
    if a * 2 ^ 26 < d then fp32.round false 1 1
    else if neg then
      if 104 * d ≤ a then 0
      else agree (fun p => let b := expBounds p a d; ((2 ^ p, b.2), (2 ^ p, b.1))) false tries 384
    else if 89 * d ≤ a then fp32.inf
    else agree (fun p => let b := expBounds p a d; ((b.1, 2 ^ p), (b.2, 2 ^ p))) false tries 128

/-- ln x; `open_` for x = 0. -/
def fpLog (open_ : Nat) : Num → Nat
  | .nan => fp32.nan
  | .inf neg => if neg then fp32.nan else fp32.inf
  | .fin neg n e =>
    if n = 0 then open_
    else if neg then fp32.nan
    else if 0 ≤ e && n * powNum e = 1 || e < 0 && n = powDen e then 0
    else
      -- the sign of the logarithm: x above or below 1
      let big := powDen e < n * powNum e
      agree (fun p =>
        let b := logBounds p n e
        if big then ((b.1.toNat, 2 ^ p), (b.2.toNat, 2 ^ p)) else (((-b.2).toNat, 2 ^ p), ((-b.1).toNat, 2 ^ p))) (!big) tries 128

/-- tanh x = (e^2x − 1) ÷ (e^2x + 1). -/
def fpTanh (zs : Bool) : Num → Nat
  | .nan => fp32.nan
  | .inf neg => fp32.round neg 1 1
  | .fin neg n e =>
    let a := n * powNum e
    let d := powDen e
    if n = 0 then fp32.sign (neg && zs)
    else if a * 2 ^ 13 < d then fp32.round neg a d
    else if 10 * d ≤ a then fp32.round neg 1 1
    else agree (fun p =>
      let b := expBounds p (2 * a) d
      ((b.1 - 2 ^ p, b.1 + 2 ^ p), (b.2 - 2 ^ p, b.2 + 2 ^ p))) neg tries 128

/-- 1 ÷ (1 + e^−x). -/
def fpSigm : Num → Nat
  | .nan => fp32.nan
  | .inf neg => if neg then 0 else fp32.round false 1 1
  | .fin neg n e =>
    let a := n * powNum e
    let d := powDen e
    if a * 2 ^ 26 < d then fp32.round false 1 2
    else if neg then
      if 104 * d ≤ a then 0
      else agree (fun p => let b := expBounds p a d; ((2 ^ p, 2 ^ p + b.2), (2 ^ p, 2 ^ p + b.1))) false tries 384
    else if 20 * d ≤ a then fp32.round false 1 1
    else agree (fun p => let b := expBounds p a d; ((b.1, b.1 + 2 ^ p), (b.2, b.2 + 2 ^ p))) false tries 128

end Sys2Proof.Machine
end

