-- ==== Sys2Proof/Machine/EdgeUnit.lean ====
section
/-! DEFINITION. The edge unit (R210 to R225): program words, conversions at its boundary, the 22 operations, and the run of a
posted pass. -/

namespace Sys2Proof.Machine

/-! ### Program words (R218) -/

def ediOp (w : Word) : Nat := fld w 56 8
def ediType (w : Word) : Nat := fld w 54 2
def ediBsrc (w : Word) : Nat := fld w 52 2
def ediD (w : Word) : Nat := fld w 48 4
def ediA (w : Word) : Nat := fld w 44 4
def ediB (w : Word) : Nat := fld w 40 4
def ediImm (w : Word) : Nat := fld w 0 32

/-- Operations of two or three operands. -/
def ediBinary (op : Nat) : Bool := (1 ≤ op && op ≤ 6) || op = 0x10
/-- Operations of one operand, element by element. -/
def ediUnary (op : Nat) : Bool := (7 ≤ op && op ≤ 9) || (0x11 ≤ op && op ≤ 0x17)
/-- Reductions. -/
def ediReduces (op : Nat) : Bool := 0x20 ≤ op && op ≤ 0x22

/-- R218, R221: a program word that keeps every rule, for vector length `k` and `nscr` scratch slots. -/
def edgeWordOk (k nscr : Nat) (w : Word) : Bool :=
  let op := ediOp w
  (ediBinary op || ediUnary op || ediReduces op || op = 0x30 || op = 0x31) && ediType w ≠ 3 && ediBsrc w ≠ 3 && fld w 32 8 = 0 &&
  (ediBinary op || (ediB w = 0 && ediBsrc w = 0)) &&
  (if ediBsrc w = 2 then true
   else if ediBsrc w = 1 then ediImm w < 4096 && ediImm w < k
   else if op = 0x30 || op = 0x31 then ediImm w < 64 && ediImm w < nscr
   else ediImm w = 0)

/-- Table 9-3: the cost of a word in ECK cycles. -/
def ediCost (k : Nat) (w : Word) : Nat :=
  let op := ediOp w
  let width := if ediType w = 0 then 64 else 128
  let c := if ediType w = 0 then 4 else 2
  if op ≤ 9 then 4 + cdiv k width else if op ≤ 0x17 then 4 + cdiv k 16 else if op ≤ 0x22 then 16 + cdiv k 64
  else 4 + cdiv (k * c) 64

/-! ### Registers -/

/-- Where an element of a register stands. -/
def eltKey (r i : Nat) : Nat := r * 4096 + i

/-- An element of a register: unspecified where nothing has written it since the pass started (R220). -/
def Edge.elt (e : Edge) (r i : Nat) : EdgeElt :=
  match Sparse.find e.v (eltKey r i) with
  | some x => x
  | none => match e.epoch with
    | none => {}
    | some n => { bits := (Config.freeWord n (eltKey r i)).setWidth 32 }

/-- Writes an element. -/
def Edge.setElt (e : Edge) (r i : Nat) (x : EdgeElt) : Edge := { e with v := Sparse.put e.v (eltKey r i) x }

/-- Writes elements 0 upward of a register. -/
def Edge.setReg (e : Edge) (r : Nat) (xs : List EdgeElt) : Edge := xs.zipIdx.foldl (fun e p => e.setElt r p.2 p.1) e

/-! ### Operations (R215 to R219) -/

/-- The result of an operation on operand codes, each rounded to the type first but for the addend of FMA. -/
def edgeArith (op ty a b d : Nat) : Nat :=
  let a := typeRound ty a
  let b := typeRound ty b
  let x := fp32.decode a
  let y := fp32.decode b
  let ov := (Config.edgeValue op (BitVec.ofNat 32 a) (BitVec.ofNat 32 b)).toNat
  let zs := Config.edgeZero op (BitVec.ofNat 32 a) (BitVec.ofNat 32 b)
  let nan2 : Bool := x = .nan || y = .nan
  match op with
  | 0x01 => fp32.ofNum (numAdd zs x y)
  | 0x02 => fp32.ofNum (numAdd zs x (numNeg y))
  | 0x03 => fp32.ofNum (numMul x y)
  | 0x04 => fp32.ofNum (numAdd zs (numMul x y) (fp32.decode d))
  | 0x05 => if nan2 then fp32.nan else if fpOrder a < fpOrder b then b else a
  | 0x06 => if nan2 then fp32.nan else if fpOrder b < fpOrder a then b else a
  | 0x07 => if x = .nan then fp32.nan else a % 2 ^ 31
  | 0x08 => if x = .nan then fp32.nan else (a + 2 ^ 31) % 2 ^ 32
  | 0x09 => if x = .nan then fp32.nan else a
  | 0x10 => fpDiv ov x y
  | 0x11 => fpDiv ov (.fin false 1 0) x
  | 0x12 => match x with
    | .nan => fp32.nan
    | .inf neg => if neg then fp32.nan else fp32.inf
    | .fin neg n e => if n = 0 then fp32.sign (neg && zs) else if neg then fp32.nan else fpSqrtRat (n * powNum e) (powDen e)
  | 0x13 => match x with
    | .nan => fp32.nan
    | .inf neg => if neg then fp32.nan else 0
    | .fin neg n e => if n = 0 then ov else if neg then fp32.nan else fpSqrtRat (powDen e) (n * powNum e)
  | 0x14 => fpExp x
  | 0x15 => fpLog ov x
  | 0x16 => fpTanh zs x
  | _ => fpSigm x

/-- Operand b of element `i` (Table 9-2). -/
def Edge.operandB (e : Edge) (w : Word) (i : Nat) : EdgeElt :=
  match ediBsrc w with
  | 0 => e.elt (ediB w) i
  | 1 => e.elt (ediB w) (ediImm w % 4096)
  | _ => { bits := BitVec.ofNat 32 (ediImm w) }

/-- An element-wise operation on element `i`, with poison (R217). -/
def Edge.result (e : Edge) (w : Word) (i : Nat) : EdgeElt :=
  let a := e.elt (ediA w) i
  let b := if ediBinary (ediOp w) then e.operandB w i else {}
  let d := if ediOp w = 4 then e.elt (ediD w) i else {}
  { bits := BitVec.ofNat 32 (edgeArith (ediOp w) (ediType w) a.bits.toNat b.bits.toNat d.bits.toNat),
    poison := a.poison || b.poison || d.poison }

/-- An element-wise operation on elements 0 to `k` − 1. -/
def Edge.mapOp (e : Edge) (k : Nat) (w : Word) : Edge := e.setReg (ediD w) ((List.range k).map (e.result w))

/-- R219: one rank of a reduction. -/
def pairUp (f : EdgeElt → EdgeElt → EdgeElt) : List EdgeElt → List EdgeElt
  | a :: b :: l => f a b :: pairUp f l
  | l => l

/-- R219: a reduction; `fuel` at least the number of elements. -/
def treeReduce (f : EdgeElt → EdgeElt → EdgeElt) : Nat → List EdgeElt → EdgeElt
  | 0, l => l.headD {}
  | fuel + 1, l => match l with
    | [] => {}
    | [a] => a
    | l => treeReduce f fuel (pairUp f l)

/-- A reduction's node: ADD, MAX or MIN in FP32. -/
def reduceNode (op : Nat) (a b : EdgeElt) : EdgeElt :=
  { bits := BitVec.ofNat 32 (edgeArith op 0 a.bits.toNat b.bits.toNat 0), poison := a.poison || b.poison }

/-- A reduction of register a into element 0 of register d; its elements are rounded to the type first (R215). -/
def Edge.reduceOp (e : Edge) (k : Nat) (w : Word) : Edge :=
  let op := if ediOp w = 0x20 then 0x01 else if ediOp w = 0x21 then 0x05 else 0x06
  let xs := (List.range k).map fun i =>
    let x := e.elt (ediA w) i
    { x with bits := BitVec.ofNat 32 (typeRound (ediType w) x.bits.toNat) }
  e.setElt (ediD w) 0 (treeReduce (reduceNode op) k xs)

/-- The commons word of a scratch slot (R211). -/
def scratchAddr (f : Nat) (pf : PlanField) (d : Desc) (w : Word) : Nat :=
  commonsAddr f + (pf.comBase + Desc.edScr d + ediImm w % 64 * 0x4000) / 8

/-- Who reads for an edge pass (Table 18-3). -/
def edgeWho (wp : WinPass) : Who := { acc := 5, handle := wp.named, pass := wp.idx }

/-- LD: the slot's containers, widened exactly. -/
def State.edgeLoad (s : State) (f : Nat) (pf : PlanField) (wp : WinPass) (w : Word) : State :=
  let k := Desc.k wp.desc
  let cb := if ediType w = 0 then 32 else 16
  let per := 64 / cb
  let r := s.readWords (scratchAddr f pf wp.desc w) (edgeWho wp) (cdiv k per)
  r.1.updEdge f fun e => e.setReg (ediD w) ((List.range k).map fun i =>
    let x := r.2.getD (i / per) (0, false)
    let c := fld x.1 (cb * (i % per)) cb
    { bits := BitVec.ofNat 32 (if ediType w = 0 then c else if ediType w = 1 then bf16.widen c else fp16.widen c), poison := x.2 })

/-- Writes element-major codes from a word address; the bytes of a last word that no element reaches keep their contents. -/
def State.writeCodes (s : State) (a cb : Nat) (xs : List (Nat × Bool)) : State :=
  let ws := packWords cb xs
  let n := xs.length * cb / 64
  let t := s.writeWords a (ws.take n)
  match ws[n]? with
  | none => t
  | some w => t.mergeWord (a + n) ((leBytes 8 w.1.toNat).zipIdx.map fun p => if p.2 < cdiv (xs.length * cb % 64) 8 then some p.1 else none) w.2

/-- ST: elements rounded to the container. -/
def State.edgeStore (s : State) (f : Nat) (pf : PlanField) (wp : WinPass) (w : Word) : State :=
  let e := s.edge f
  s.writeCodes (scratchAddr f pf wp.desc w) (if ediType w = 0 then 32 else 16) ((List.range (Desc.k wp.desc)).map fun i =>
    let x := e.elt (ediA w) i
    (if ediType w = 0 then x.bits.toNat else if ediType w = 1 then bf16.narrow x.bits.toNat else fp16.narrow x.bits.toNat, x.poison))

/-- A word of the program of the running pass. -/
def State.edgeDo (s : State) (f : Nat) (pf : PlanField) (wp : WinPass) (w : Word) : State :=
  let k := Desc.k wp.desc
  if ediOp w = 0x30 then s.edgeLoad f pf wp w
  else if ediOp w = 0x31 then s.edgeStore f pf wp w
  else s.updEdge f fun e => if ediReduces (ediOp w) then e.reduceOp k w else e.mapOp k w

/-! ### Conversions at the boundary (R213, R214, Table 2-8) -/

/-- An input code as FP32. -/
def edgeIn (fx : Fmt) (kin : Int) (c : Nat) : Nat :=
  if fx.code = 8 then fp16.widen c else if fx.code = 9 then bf16.widen c else if fx.code = 10 then c
  else
    let v := fx.value c
    fp32.round (decide (v < 0)) (v.natAbs * powNum kin) (powDen kin)

/-- An output code of an FP32 value, with its OUT_CLAMP and NAN_CONVERTED. -/
def edgeOut (fo : Fmt) (kout : Int) (c : Nat) : Nat × Bool × Bool :=
  if fo.code = 10 then (c, false, false)
  else if fo.code = 8 then (fp16.narrow c, false, false)
  else if fo.code = 9 then (bf16.narrow c, false, false)
  else match fp32.decode c with
    | .nan => (fo.code_ 0, false, true)
    | .inf neg => (fo.code_ (if neg then fo.min else fo.max), true, false)
    | .fin neg n e =>
      let a := n * powNum (e - kout)
      let d := powDen (e - kout)
      let q : Int := if fo.round = 2 then (a / d : Nat) else (divEven a d : Nat)
      let v : Int := if neg then -q else q
      let r := clampInt fo.min fo.max v
      (fo.code_ r, decide (r ≠ v), false)

/-- One vector into V0. -/
def State.edgeInput (s : State) (f c : Nat) (pf : PlanField) (wp : WinPass) (vec : Nat) : State :=
  let fx := Fmt.ofWord (Desc.fmtX wp.desc)
  let r := s.vectorCodes { f, c } pf wp vec
  r.1.updEdge f fun e => e.setReg 0 (r.2.map fun p =>
    { bits := BitVec.ofNat 32 (edgeIn fx (Desc.edKin wp.desc) p.1), poison := p.2 })

/-- V1 out to one vector of the output, with the drain status bits of the pass (R214, R217). -/
def State.edgeOutput (s : State) (f c : Nat) (pf : PlanField) (wp : WinPass) (vec : Nat) : State :=
  let d := wp.desc
  let fo := Fmt.ofWord (Desc.fmtO d)
  let e := s.edge f
  let os := (List.range (Desc.k d)).map fun i => let x := e.elt 1 i; (edgeOut fo (Desc.edKout d) x.bits.toNat, x.poison)
  let st := flagIf (flagIf (flagIf 0 dsOutClamp (os.any (·.1.2.1))) dsNan (os.any (·.1.2.2))) dsPoison (os.any (·.2))
  (s.writeCodes (commonsAddr f + (pf.comBase + Desc.edOut d + vec * Desc.edOstride d) / 8) (containerBits fo.bits)
    (os.map fun o => (fo.contain o.1.1, o.2))).updPass f c wp.serial fun w => { w with status := w.status ||| st }

/-! ### The run of a posting (R220 to R222) -/

/-- Runs words in order; none goes on after one that breaks R218 (R221). The second part tells that all ran. -/
def State.edgeWords (s : State) (f c : Nat) (pf : PlanField) (wp : WinPass) : List Word → State × Bool
  | [] => (s, true)
  | w :: ws =>
    if edgeWordOk (Desc.k wp.desc) (Desc.edNscr wp.desc) w then
      State.edgeWords ((s.edgeDo f pf wp w).count (fieldBlock f) 1 (ediCost (Desc.k wp.desc) w)) f c pf wp ws
    else (s.passFault f c wp.serial (wordFault w), false)

/-- Lines of a vector of `k` elements in a format. -/
def edgeLines (f : Fmt) (k : Nat) : Nat := cdiv (k * containerBits f.bits) 512

/-- One vector: in, the words after the prologue, out. -/
def State.edgeVector (s : State) (f c : Nat) (pf : PlanField) (wp : WinPass) (ws : List Word) (vec : Nat) : State × Bool :=
  let d := wp.desc
  let r := (s.edgeInput f c pf wp vec).edgeWords f c pf wp ws
  if r.2 then
    ((r.1.edgeOutput f c pf wp vec).count (fieldBlock f) 1
      (edgeLines (Fmt.ofWord (Desc.fmtX d)) (Desc.k d) + edgeLines (Fmt.ofWord (Desc.fmtO d)) (Desc.k d)), true)
  else r

/-- The vectors from `vec` on, `n` of them. -/
def State.edgeVectors (s : State) (f c : Nat) (pf : PlanField) (wp : WinPass) (ws : List Word) (vec : Nat) : Nat → State
  | 0 => s
  | n + 1 =>
    let r := s.edgeVector f c pf wp ws vec
    if r.2 then State.edgeVectors r.1 f c pf wp ws (vec + 1) n else r.1

/-- The pass of the first posting of a field, with its core and plan part. -/
def State.posted (s : State) (f : Nat) : Option (Nat × WinPass × PlanField) :=
  ((s.edge f).postings.head?).bind fun p => ((s.core f p.1).pass p.2).bind fun wp =>
    (s.planField wp.plan f).map fun pf => (p.1, wp, pf)

/-- R225: one vector of the output of an abandoned pass: whole words, and the bytes of a last word that its elements reach. -/
def State.edgeForget (s : State) (f : Nat) (pf : PlanField) (d : Desc) (vec : Nat) : State :=
  let bits := Desc.k d * containerBits (Fmt.ofWord (Desc.fmtO d)).bits
  let a := commonsAddr f + (pf.comBase + Desc.edOut d + vec * Desc.edOstride d) / 8
  let n := bits / 64
  let t := s.unspecify a (a + n) 0 4096
  if bits % 64 = 0 then t
  else
    let v := t.fresh
    v.1.mergeWord (a + n) ((leBytes 8 v.2.toNat).zipIdx.map fun p => if p.2 < cdiv (bits % 64) 8 then some p.1 else none) false

/-- R225: the edge unit of a field abandons the pass that it runs, where that is one of a job: what its output region holds is unspecified.
A posting runs in one step of the model, so that no vector of it is written before (log entry 102). -/
def State.edgeAbandon (s : State) (f : Nat) (h : Word) : State :=
  match s.posted f with
  | none => s
  | some (_, wp, pf) =>
    if wp.job = h && !wp.done && (s.edge f).level = .run then
      (List.range (Desc.n wp.desc)).foldl (fun s vec => s.edgeForget f pf wp.desc vec) s
    else s

/-- R220, R222: runs the first posting to its end. Its registers start unspecified; a posting to a retained edge unit waits. -/
def State.edgeRun (s : State) (f : Nat) : State :=
  if (s.edge f).level ≠ .run then s
  else match s.posted f with
    | none => s.updEdge f fun e => { e with postings := e.postings.drop 1 }
    | some (c, wp, pf) =>
      let d := wp.desc
      let t : State := { s.updEdge f fun e => { e with v := [], epoch := some s.freeCtr } with freeCtr := s.freeCtr + 1 }
      let r := t.readWords (commonsAddr f + (pf.comBase + Desc.edProg d) / 8) (edgeWho wp) (Desc.edLen d)
      let ws := r.2.map (·.1)
      let p := if r.2.any (·.2) then (r.1.passFault f c wp.serial { code := stUNCORRECTABLE }, false)
        else r.1.edgeWords f c pf wp (ws.take (Desc.edPro d))
      let t := if p.2 then p.1.edgeVectors f c pf wp (ws.drop (Desc.edPro d)) 0 (Desc.n d) else p.1
      (t.updEdge f fun e => { e with postings := e.postings.drop 1 }).updPass f c wp.serial fun w => { w with done := true }

/-- EDGE_POSTING_RUN. -/
def execEdgePostingRun (f : Nat) (s : State) : Host.Outcome State Fault Refusal :=
  onPart [.freeCtr, .out, .mem, .bus, .cores, .edges, .ports, .log, .counters] (decide (f < 96)) s fun s => s.edgeRun f

/-- A word of this operation in the running pass; a word that breaks R218 faults the pass (R221). Without a posting, or away
from run, nothing happens. -/
def edgeStep (op f : Nat) (w : Word) (s : State) : Host.Outcome State Fault Refusal :=
  onPart [.out, .mem, .bus, .cores, .edges, .ports, .log, .counters] (f < 96 && ediOp w = op) s fun s =>
    if (s.edge f).level ≠ .run then s
    else match s.posted f with
      | none => s
      | some (c, wp, pf) => (s.edgeWords f c pf wp [w]).1

/-- ADD. -/
def execEdgeAdd (f : Nat) (w : Word) (s : State) : Host.Outcome State Fault Refusal := edgeStep 0x01 f w s
/-- SUB. -/
def execEdgeSub (f : Nat) (w : Word) (s : State) : Host.Outcome State Fault Refusal := edgeStep 0x02 f w s
/-- MUL. -/
def execEdgeMul (f : Nat) (w : Word) (s : State) : Host.Outcome State Fault Refusal := edgeStep 0x03 f w s
/-- FMA. -/
def execEdgeFma (f : Nat) (w : Word) (s : State) : Host.Outcome State Fault Refusal := edgeStep 0x04 f w s
/-- MAX. -/
def execEdgeMax (f : Nat) (w : Word) (s : State) : Host.Outcome State Fault Refusal := edgeStep 0x05 f w s
/-- MIN. -/
def execEdgeMin (f : Nat) (w : Word) (s : State) : Host.Outcome State Fault Refusal := edgeStep 0x06 f w s
/-- ABS. -/
def execEdgeAbs (f : Nat) (w : Word) (s : State) : Host.Outcome State Fault Refusal := edgeStep 0x07 f w s
/-- NEG. -/
def execEdgeNeg (f : Nat) (w : Word) (s : State) : Host.Outcome State Fault Refusal := edgeStep 0x08 f w s
/-- COPY. -/
def execEdgeCopy (f : Nat) (w : Word) (s : State) : Host.Outcome State Fault Refusal := edgeStep 0x09 f w s
/-- DIV. -/
def execEdgeDiv (f : Nat) (w : Word) (s : State) : Host.Outcome State Fault Refusal := edgeStep 0x10 f w s
/-- RECIP. -/
def execEdgeRecip (f : Nat) (w : Word) (s : State) : Host.Outcome State Fault Refusal := edgeStep 0x11 f w s
/-- SQRT. -/
def execEdgeSqrt (f : Nat) (w : Word) (s : State) : Host.Outcome State Fault Refusal := edgeStep 0x12 f w s
/-- RSQRT. -/
def execEdgeRsqrt (f : Nat) (w : Word) (s : State) : Host.Outcome State Fault Refusal := edgeStep 0x13 f w s
/-- EXP. -/
def execEdgeExp (f : Nat) (w : Word) (s : State) : Host.Outcome State Fault Refusal := edgeStep 0x14 f w s
/-- LOG. -/
def execEdgeLog (f : Nat) (w : Word) (s : State) : Host.Outcome State Fault Refusal := edgeStep 0x15 f w s
/-- TANH. -/
def execEdgeTanh (f : Nat) (w : Word) (s : State) : Host.Outcome State Fault Refusal := edgeStep 0x16 f w s
/-- SIGM. -/
def execEdgeSigm (f : Nat) (w : Word) (s : State) : Host.Outcome State Fault Refusal := edgeStep 0x17 f w s
/-- RSUM. -/
def execEdgeRsum (f : Nat) (w : Word) (s : State) : Host.Outcome State Fault Refusal := edgeStep 0x20 f w s
/-- RMAX. -/
def execEdgeRmax (f : Nat) (w : Word) (s : State) : Host.Outcome State Fault Refusal := edgeStep 0x21 f w s
/-- RMIN. -/
def execEdgeRmin (f : Nat) (w : Word) (s : State) : Host.Outcome State Fault Refusal := edgeStep 0x22 f w s
/-- LD. -/
def execEdgeLd (f : Nat) (w : Word) (s : State) : Host.Outcome State Fault Refusal := edgeStep 0x30 f w s
/-- ST. -/
def execEdgeSt (f : Nat) (w : Word) (s : State) : Host.Outcome State Fault Refusal := edgeStep 0x31 f w s

end Sys2Proof.Machine
end

