-- ==== Sys2Proof/Machine/Links.lean ====
section
/-! DEFINITION. The states of brim links (R241) and the shared limit that disables them (R293, Table 12-7). -/

namespace Sys2Proof.Machine

/-- A transition of a link: counted, with LINK_CHANGE where it enters or leaves ACTIVE. MISWIRED is reported while PARAMS lasts (R242). -/
def State.toLink (s : State) (l : Nat) (st : LinkState) : State :=
  let was := (s.brim l).st
  let t := (s.updBrim l fun b => { b with st, miswired := decide (st = .params) && b.miswired }).count (brimBlock l) 12 1
  if (was = .active) ≠ (st = .active) then t.raiseAll 6 else t

/-- A source has asked for a link to be disabled. -/
def State.linkOff (s : State) (l : Nat) : Bool := s.requests.any fun p => bit p.2.linksOff l

/-- The effective enable of a link: no source disables it, and it is not lost. -/
def State.linkOn (s : State) (l : Nat) : Bool := !s.linkOff l && !(s.brim l).lost

/-- The effective enable mask. -/
def State.linkMask (s : State) : Nat := ((List.range 64).map fun l => if s.linkOn l then 2 ^ l else 0).sum

/-- A link follows the sources' requests: it is DISABLED while one disables it, and leaves DISABLED for DETECT. -/
def State.followRequest (s : State) (l : Nat) : State :=
  if s.linkOff l then
    (if (s.brim l).st = .disabled then s else (s.toLink l .disabled).updBrim l fun b => { b with attempts := 0 })
  else if (s.brim l).st = .disabled then s.toLink l .detect
  else s

/-- Every link follows the requests. -/
def State.followRequests (s : State) : State := (List.range 64).foldl State.followRequest s

end Sys2Proof.Machine
end

