-- ==== Sys2Proof/Machine/Lanterns.lean ====
section
/-! DEFINITION. The lantern accounts (R384 to R392): the effective pool, requests at their three levels, grants and returns. -/

namespace Sys2Proof.Machine

/-- The smaller of a number and a limit. -/
def capAt (n : Nat) (l : Option Nat) : Nat := match l with | some m => min n m | none => n

/-- R293, Table 12-7: the effective pool. -/
def State.effPool (s : State) : Nat :=
  let q := s.requests.foldl (fun n p => capAt n p.2.pool) 20000
  let l := s.limits
  capAt (capAt (capAt (capAt (capAt q l.heatPool) l.busPool) l.powerPool) l.flowPool) l.inletPool

/-- R384: the standing reserve. -/
def standingReserve : Nat := 1536

/-- R384: standing reserve, reservations and loans. -/
def State.poolUsed (s : State) : Nat :=
  standingReserve + (s.fields.map fun p => p.2.lent + p.2.reserved).sum + (s.lanterns.rows.map (·.2)).sum

/-- R384: the free pool. -/
def State.freePool (s : State) : Nat := s.effPool - s.poolUsed

/-- Rounds up to a multiple. -/
def roundUp (n k : Nat) : Nat := cdiv n k * k

/-- The row pool of a physical row. -/
def State.rowPool (s : State) (r : Nat) : Nat := Sparse.get 0 s.lanterns.rows r
def State.setRowPool (s : State) (r n : Nat) : State := { s with lanterns := { s.lanterns with rows := Sparse.set 0 s.lanterns.rows r n } }
/-- R387: a routing field of a physical row holds its row pool; without one the row has no pool. -/
def State.rowHeld (s : State) (r : Nat) : Bool := allFields.any fun f => (s.field f).health = .healthy && (s.physOf f).1 = r
def State.setQueueL (s : State) (q : List WaferReq) : State := { s with lanterns := { s.lanterns with queue := q } }

/-- R388: stamps in order. -/
def stampLt (a b : Nat × Nat × Nat) : Bool :=
  a.1 < b.1 || (a.1 = b.1 && (a.2.1 < b.2.1 || (a.2.1 = b.2.1 && a.2.2 < b.2.2)))
def WaferReq.stamp (r : WaferReq) : Nat × Nat × Nat := (r.time, r.field, r.core)

/-- Enters a request in stamp order. -/
def insertReq (r : WaferReq) : List WaferReq → List WaferReq
  | [] => [r]
  | q :: qs => if stampLt r.stamp q.stamp then r :: q :: qs else q :: insertReq r qs

/-- R386: what a pass needs beyond the standing allowance of its core. -/
def lanternNeed (k : Core) (wp : WinPass) : Nat :=
  let c := Desc.lantern wp.desc
  if k.window.any (fun w => w.serial ≠ wp.serial && w.lantern = .granted && w.lent + 2 = Desc.lantern w.desc) then c else c - 2

/-- R388: while the wafer queue is not empty, free local lanterns return to the wafer pool. -/
def State.returnFree (s : State) : State :=
  if s.lanterns.queue.isEmpty then s
  else { s with
    fields := s.fields.foldl (fun m p => Sparse.set {} m p.1 { p.2 with lent := p.2.heldL }) s.fields
    lanterns := { s.lanterns with rows := [] } }

/-- Gives a pass its grant from the field allowance; `n` the part beyond the standing allowance. -/
def State.grantTo (s : State) (f c serial n : Nat) : State :=
  ((s.updField f fun x => { x with heldL := x.heldL + n }).updPass f c serial fun w =>
    { w with lantern := .granted, lent := n, waitUs := (s.now - w.asked) / 10 }).count (fieldBlock f) 3 1

/-- Lends into a field allowance. -/
def State.lend (s : State) (f n : Nat) : State := s.updField f fun x => { x with lent := x.lent + n }

/-- R389: job-start requests at the front of the wafer queue are lent into their fields while the free pool covers them. -/
def State.serveStarts (s : State) : Nat → State
  | 0 => s
  | fuel + 1 => match s.lanterns.queue with
    | [] => s
    | r :: rest =>
      if r.serial.isNone && r.amount ≤ s.freePool then State.serveStarts ((s.setQueueL rest).lend r.field r.amount) fuel else s

/-- R389: the request that the Milliner enters for a core at a job start. -/
def State.startRequest (s : State) (f c amount : Nat) : State :=
  if s.lanterns.queue.isEmpty && amount ≤ s.freePool then s.lend f amount
  else (s.setQueueL (insertReq { time := s.now, field := f, core := c, serial := none, amount } s.lanterns.queue)).count unitBlock 2 1

/-- R386 to R388: answers the request of a pass of a core's window at the level that can: a grant, or a place in the wafer queue. -/
def State.answerRequest (s : State) (f c : Nat) (wp : WinPass) (ofTick : Bool) : State :=
  let k := s.core f c
  let need := lanternNeed k wp
  let fl := s.field f
  let avail := fl.lent - fl.heldL
  let q := s.lanterns.queue
  let queued := q.any fun r => r.field = f && r.core = c && r.serial = some wp.serial
  let before := match q.head? with | some h => stampLt (wp.asked, f, c) h.stamp | none => true
  if ofTick then s.grantTo f c wp.serial 0
  else if s.effPool < s.poolUsed then s
  else if !k.isHead wp.serial then (if q.isEmpty && need ≤ avail then s.grantTo f c wp.serial need else s)
  else if queued then
    match q with
    | r :: rest =>
      if r.field = f && r.core = c && r.serial = some wp.serial && need - avail ≤ s.freePool then
        ((s.setQueueL rest).lend f (need - avail)).grantTo f c wp.serial need
      else s
    | [] => s
  else if before && need ≤ avail then s.grantTo f c wp.serial need
  else
    let row := (s.physOf f).1
    let short := roundUp (need - avail) 8
    let pool := s.rowPool row
    if before && s.rowHeld row && short ≤ pool then
      (((s.setRowPool row (pool - short)).lend f short).grantTo f c wp.serial need).count (fieldBlock f) 4 1
    else
      let more := if s.rowHeld row then roundUp (short - pool) 64 else short
      if q.isEmpty && more ≤ s.freePool then
        (((s.setRowPool row (pool + more - short)).lend f short).grantTo f c wp.serial need).count (fieldBlock f) 4 1
      else
        (((s.setQueueL (insertReq { time := wp.asked, field := f, core := c, serial := some wp.serial, amount := need } q)).count
          unitBlock 2 1).count (fieldBlock f) 4 1).returnFree.updPass f c wp.serial fun w => { w with lantern := .wafer }

/-- R391: what a pass holds returns to the field allowance, and a request that it has queued is withdrawn. -/
def State.releaseLanterns (s : State) (f c : Nat) (wp : WinPass) : State :=
  let t := s.setQueueL (s.lanterns.queue.filter fun r => !(r.field = f && r.core = c && r.serial = some wp.serial))
  if wp.lantern = .granted then (t.updField f fun x => { x with heldL := x.heldL - wp.lent }).returnFree else t

end Sys2Proof.Machine
end

