-- ==== Sys2Proof/Machine/Passes.lean ====
section
/-! DEFINITION. The run-ahead window (R183 to R201): descriptor fetch, the start of the pass kinds that run in the banks, route
resolution, commit, the end of a job at a pass, and the lantern rows. -/

namespace Sys2Proof.Machine

/-! ### Descriptors (R154, R183) -/

/-- R183: the reserved bits of a descriptor, by kind; none for a reserved kind. -/
def descReserved (kind : Nat) : Option (List (Nat × Nat)) :=
  let always := [(127, 1), (184, 8), (236, 4), (247, 9), (332, 4), (450, 14), (655, 1), (728, 8), (818, 14), (536, 8), (568, 8),
    (600, 8), (632, 8)]
  match kind with
  | 1 | 2 | 3 => some (always ++ [(960, 64)])
  | 4 => some (always ++ [(896, 128)])
  | 5 | 10 => some (always ++ [(832, 192)])
  | 6 => some (always ++ [(944, 16), (975, 1), (992, 32)])
  | 7 => some (always ++ [(872, 152)])
  | 8 => some (always ++ [(919, 9)])
  | 9 => some (always ++ [(836, 28)])
  | _ => none

/-- R183: the kind is known and the reserved fields are 0. -/
def descOk (d : Desc) : Bool :=
  match descReserved (Desc.kind d) with
  | none => false
  | some rs => rs.all fun r => fld d r.1 r.2 = 0

/-- A MALFORMED fault of a descriptor, with its first word. -/
def descFault (d : Desc) : PassFault := wordFault (d.extractLsb' 0 64)

/-! ### Fetch (R183, R184, R195, R197, R198) -/

/-- R197: the predicted word of a ROUTE. -/
def Core.prediction (k : Core) (idx : Nat) : Option Nat := (k.predictor.find? (·.1 = idx)).map (·.2)

/-- R197: a resolved word is written; a miss replaces the least recently written of 16. -/
def Core.learn (k : Core) (idx w : Nat) : Core :=
  { k with predictor := ((idx, w) :: k.predictor.filter (·.1 ≠ idx)).take 16 }

/-- The word that controls a pass: resolved, or predicted; none where its ROUTE has neither. DESIGN CHOICE: a ROUTE that is itself skipped
resolves none, so its prediction, or the word of an earlier run of it, controls the passes that name it (log entry 107). -/
def Core.routeWord (k : Core) (idx : Nat) : Option Nat :=
  match k.window.find? (·.idx = idx) with
  | some w => (match w.resolved with | some r => some r | none => w.predicted)
  | none => (k.routed.find? (·.1 = idx)).map (·.2)

/-- R158, R198: the arm of a controlled pass is clear in the word of its ROUTE. -/
def Core.armClear (k : Core) (d : Desc) (idx : Nat) : Bool :=
  Desc.back d ≠ 0 && (match k.routeWord (idx - Desc.back d) with | some w => !nbit w (Desc.arm d) | none => false)

/-- R183: fetches the next descriptor of the core's run into its window, of one job or tick at a time (R366). -/
def State.fetchPass (s : State) (f c : Nat) : State :=
  let k := s.core f c
  match k.run with
  | [] => s
  | (h, idx) :: rest =>
    if k.level ≠ .run || k.stopped || 4 ≤ k.window.length || k.window.any (·.job ≠ h) then s
    else match s.job h with
      | none => s
      | some j =>
        match s.planField j.plan f with
        | none => s
        | some pf =>
          if (s.field f).health ≠ .healthy then s
          else
            let r := s.readWords (commonsAddr f + (pf.comBase + 128 * idx) / 8) { acc := 0, handle := j.named, pass := idx } 16
            let d : Desc := r.2.zipIdx.foldl (fun (a : BitVec 1024) (p : (Word × Bool) × Nat) => a ||| (p.1.1.setWidth 1024 <<< (64 * p.2))) 0
            let bad := r.2.any (·.2)
            let skip := k.armClear d idx
            let ask := 2 < Desc.lantern d && !skip
            let wp : WinPass := {
              serial := k.serials, idx, desc := d, job := h, named := j.named, plan := j.plan, skipped := skip,
              lantern := if ask then .asked else .none, asked := s.now,
              predicted := if Desc.kind d = 7 then k.prediction idx else none,
              fault := if bad then some { code := stUNCORRECTABLE } else if descOk d then none else some (descFault d) }
            r.1.updCore f c fun k => { k with run := rest, serials := k.serials + 1, window := k.window ++ [wp] }

/-- DESCRIPTOR_FETCH. -/
def execDescriptorFetch (f c : Nat) (s : State) : Host.Outcome State Fault Refusal :=
  onPart [.out, .mem, .bus, .cores, .ports, .log, .counters] (coreExists f c) s fun s => s.fetchPass f c

/-! ### Starts -/

/-- A window place of a core of the unit. -/
def placeExists (f c p : Nat) : Bool := coreExists f c && p < 4

/-- TABLE_PASS (R67, R155, R185). -/
def execTablePass (f c p : Nat) (s : State) : Host.Outcome State Fault Refusal :=
  onPart [.out, .mem, .bus, .cores, .ports, .winReqs, .log, .counters] (placeExists f c p) s fun s =>
    match s.startable f c p 1 with | some wp => s.startTable f c wp | none => s
/-- SPARSE_PASS (R139). -/
def execSparsePass (f c p : Nat) (s : State) : Host.Outcome State Fault Refusal :=
  onPart [.out, .mem, .bus, .cores, .ports, .winReqs, .log, .counters] (placeExists f c p) s fun s =>
    match s.startable f c p 2 with | some wp => s.startTable f c wp | none => s
/-- ESCAPE_PASS (R168). -/
def execEscapePass (f c p : Nat) (s : State) : Host.Outcome State Fault Refusal :=
  onPart [.out, .mem, .bus, .cores, .ports, .winReqs, .log, .counters] (placeExists f c p) s fun s =>
    match s.startable f c p 3 with | some wp => s.startTable f c wp | none => s
/-- PLANE_PASS (R155, R183). -/
def execPlanePass (f c p : Nat) (s : State) : Host.Outcome State Fault Refusal :=
  onPart [.out, .mem, .bus, .cores, .ports, .winReqs, .log, .counters] (placeExists f c p) s fun s =>
    match s.startable f c p 4 with | some wp => s.startPlane f c wp | none => s
/-- MAC16_PASS (R155). -/
def execMac16Pass (f c p : Nat) (s : State) : Host.Outcome State Fault Refusal :=
  onPart [.out, .mem, .bus, .cores, .ports, .winReqs, .log, .counters] (placeExists f c p) s fun s =>
    match s.startable f c p 5 with | some wp => s.startMac16 f c wp | none => s
/-- DRAIN_PASS (R159). -/
def execDrainPass (f c p : Nat) (s : State) : Host.Outcome State Fault Refusal :=
  onPart [.out, .mem, .bus, .cores, .ports, .winReqs, .log, .counters] (placeExists f c p) s fun s =>
    match s.startable f c p 10 with | some wp => s.startDrainPass f c wp | none => s

/-- R185, R186: a ROUTE starts in its turn, after every earlier ROUTE has resolved; it waits for its word beside the BUs, and passes after
it may start. -/
def State.startRoute (s : State) (f c : Nat) (wp : WinPass) : State :=
  if ((s.core f c).window.takeWhile fun w => w.serial ≠ wp.serial).all fun w => !w.unresolved then s.beginPass f c wp else s

/-- ROUTE_PASS. -/
def execRoutePass (f c p : Nat) (s : State) : Host.Outcome State Fault Refusal :=
  onPart [.cores] (placeExists f c p) s fun s => match (s.core f c).window[p]? with
    | some wp => if Desc.kind wp.desc = 7 then s.startRoute f c wp else s
    | none => s

/-- R185, R222: an EDGE pass starts in its turn, and is posted once it is the head and its dependencies are met. -/
def State.postEdge (s : State) (f c : Nat) (wp : WinPass) : State :=
  let t := s.beginPass f c wp
  match (t.core f c).pass wp.serial with
  | none => t
  | some w =>
    if t.mayWork f c w && !(t.edge f).postings.contains (c, w.serial) then
      t.updEdge f fun e => { e with postings := e.postings ++ [(c, w.serial)], waking := e.waking || e.level ≠ .run }
    else t

/-- EDGE_PASS. -/
def execEdgePass (f c p : Nat) (s : State) : Host.Outcome State Fault Refusal :=
  onPart [.cores, .edges] (placeExists f c p) s fun s => match (s.core f c).window[p]? with
    | some wp => if Desc.kind wp.desc = 8 then s.postEdge f c wp else s
    | none => s

/-! ### Discard (R199) -/

/-- Closes groups of a core in every BU, and the settle flags of a BU in which one closes clear (R194, R206). -/
def State.closeWhere (s : State) (f c : Nat) (p : Group → Bool) : State :=
  allBus.foldl (fun s u => s.updBu f c u fun b =>
    if b.groups.any fun g => p g.2 && g.2.isOpen then { b.closeGroups (buKey f c u) p with settled := 0 } else b) s

/-- R194: a ROUTE that resolves as predicted clears the provisional bits of its core. -/
def State.confirmGroups (s : State) (f c : Nat) : State :=
  allBus.foldl (fun s u => s.updBu f c u fun b =>
    { b with groups := b.groups.map fun p => (p.1, { p.2 with prov := false }) }) s

/-- Takes a pass out of its core with all that it held; no record is written. -/
def State.dropPass (s : State) (f c : Nat) (wp : WinPass) : State :=
  let t := s.releaseLanterns f c wp
  let t := t.updCore f c fun k => { k with
    window := k.window.filter (·.serial ≠ wp.serial), held := k.held.filter (·.serial ≠ wp.serial),
    drains := k.drains.filter (·.serial ≠ wp.serial), closing := k.closing.filter (·.2 ≠ wp.serial) }
  t.updEdge f fun e => { e with postings := e.postings.filter (· ≠ (c, wp.serial)) }

/-- R199, R200: discards a pass, and counts it. -/
def State.discardPass (s : State) (f c : Nat) (wp : WinPass) : State := (s.dropPass f c wp).count (coreBlock f c) 8 1

/-! ### Route resolution (R158, R199) -/

/-- Passes that a ROUTE without a prediction held back complete as skipped once its word is known. -/
def State.reskip (s : State) (f c : Nat) : State :=
  (s.core f c).window.foldl (fun s w =>
    if !w.started && !w.skipped && (s.core f c).armClear w.desc w.idx then
      (s.releaseLanterns f c w).updPass f c w.serial fun x => { x with skipped := true, lantern := .none }
    else s) s

/-- R158, R199: the ROUTE that waits reads its word. -/
def State.resolveRoute (s : State) (f c : Nat) : State :=
  let k := s.core f c
  match k.window.find? fun w => w.started && w.unresolved with
  | none => s
  | some wp =>
    if !s.depsMet wp || wp.fault.isSome || !(Desc.lantern wp.desc ≤ 2 || wp.lantern = .granted) then s
    else match s.planField wp.plan f with
      | none => s
      | some pf =>
        let r := s.readWord (commonsAddr f + (pf.comBase + Desc.rtOff wp.desc) / 8) { acc := 0, handle := wp.named, pass := wp.idx }
        let w := fld r.2.1 0 16
        if r.2.2 then r.1.passFault f c wp.serial { code := stUNCORRECTABLE }
        else if 2 ^ Desc.rtArms wp.desc ≤ w then
          r.1.passFault f c wp.serial {
            code := stOUT_OF_RANGE, detail := leBytes 1 0xFF ++ leBytes 1 0 ++ leBytes 2 0xFFFF ++ leBytes 8 w }
        else
          let t := (r.1.updPass f c wp.serial fun x => { x with resolved := some w }).updCore f c fun k =>
            { k.learn wp.idx w with routed := (wp.idx, w) :: k.routed.filter (·.1 ≠ wp.idx) }
          if wp.predicted = some w || wp.predicted = none then (t.confirmGroups f c).reskip f c
          else
            let late := (k.window.dropWhile fun x => x.serial ≠ wp.serial).drop 1
            let t := late.foldl (fun s x => s.discardPass f c x) ((t.count (coreBlock f c) 7 1).closeWhere f c (·.prov))
            t.updCore f c fun k => { k with run := late.map (fun x => (x.job, x.idx)) ++ k.run }

/-- ROUTE_RESOLVE. -/
def execRouteResolve (f c : Nat) (s : State) : Host.Outcome State Fault Refusal :=
  onPart [.out, .mem, .bus, .cores, .fields, .edges, .ports, .lanterns, .log, .counters] (coreExists f c) s fun s =>
    s.resolveRoute f c

/-! ### The end of a job (R199, R225, R316) -/

/-- A job's passes leave a core: those in its window are dropped, those to come are not fetched, and the groups it left open close. -/
def State.leaveCore (s : State) (h : Word) (f c : Nat) : State :=
  let k := s.core f c
  let t := (k.window.filter (·.job = h)).foldl (fun s w => s.discardPass f c w) s
  let t := t.updCore f c fun k => { k with run := k.run.filter (·.1 ≠ h) }
  if k.window.all (·.job = h) then t.closeWhere f c (·.opener.isSome) else t

/-- The engines of a module that a pass holds are released (R273). -/
def State.releaseEngines (s : State) (keep : (Nat × Nat × Nat) → Bool) : State :=
  { s with slots := s.slots.map fun (p : Nat × Slot) => (p.1, match p.2.holder with
      | some q => if keep q then p.2 else { p.2 with holder := none }
      | none => p.2) }

/-- A pass run of a core belongs to a job. -/
def State.ofJob (s : State) (h : Word) (q : Nat × Nat × Nat) : Bool :=
  match (s.core q.1 q.2.1).pass q.2.2 with | some w => decide (w.job = h) | none => false

/-- The fields of a plan. -/
def State.planFields (s : State) (plan : Nat) : List Nat :=
  match s.plan plan with | some p => p.fields.map (·.field) | none => []

/-- A job that has ended. -/
def Job.isEnded (j : Job) : Bool := match j.st with | .ended _ => true | _ => false

/-- Ends a job at a pass, or without one, with a status: its passes are discarded everywhere, its operands are dropped, and those that come
later are late (R129, R225, R255). -/
def State.endJob (s : State) (h : Word) (status : Nat) (place : Option (Nat × Nat × Nat)) : State :=
  match s.job h with
  | none => s
  | some j =>
    if j.isEnded then s
    else
      let t : State := s.releaseEngines fun q => !s.ofJob h q
      let t : State := (s.planFields j.plan).foldl (fun s f => allCores.foldl (fun s c => s.leaveCore h f c) (s.edgeAbandon f h)) t
      let t : State := { t with mesh := { t.mesh with
        operands := t.mesh.operands.filter (·.job ≠ h), awaited := t.mesh.awaited.filter (·.job ≠ h)
        late := Config.jobTag h :: t.mesh.late.filter (· ≠ Config.jobTag h) } }
      t.updJob h fun j => { j with
        st := .ended status, failField := place.map (·.1), failCore := place.map (·.2.1),
        failPass := (place.map (·.2.2)).getD 0xFFFF }

/-! ### Commit (R189, R190, R160) -/

/-- A fabric message that has not left, or whose flits the first link's peer has not acknowledged. -/
def State.unsent (s : State) (no : Nat) : Bool :=
  s.mesh.msgs.any (fun m => m.no = no && m.from_.isNone) || s.brims.any fun b => b.2.replay.any (·.2 = no)

/-- An engine of a slot still holds a word of a pass. -/
def State.engineBusy (s : State) (f c serial : Nat) : Bool :=
  s.slots.any fun p => p.2.engines.any fun e => e.2.queue.any fun q => q.2 = some (f, c, serial)

/-- R189: a pass has done all that its commit waits for. -/
def State.passDone (s : State) (f c : Nat) (wp : WinPass) : Bool :=
  wp.skipped || (wp.started && wp.issued && wp.todo.isEmpty && !(s.core f c).drains.any (·.serial = wp.serial) &&
    (match Desc.kind wp.desc with
     | 7 => wp.resolved.isSome
     | 6 => wp.done && !wp.msgs.any s.unsent
     | 8 => wp.done
     | 9 => wp.done && wp.words.isEmpty && !wp.msgs.any s.unsent && !s.engineBusy f c wp.serial && !s.bulkBusy f c wp.serial
     | _ => true))

/-- R160: the completion record. Its duration is a time, which the model does not measure. -/
def State.writeRecord (s : State) (f : Nat) (wp : WinPass) (status : Nat) : State :=
  match s.planField wp.plan f with
  | none => s
  | some pf =>
    let r := s.fresh
    let lo := BitVec.ofNat 64 (leNat (leBytes 2 wp.idx ++ leBytes 2 status ++ leBytes 2 wp.status.toNat ++
      leBytes 1 (if wp.skipped then 1 else 0) ++ leBytes 1 0))
    let hi := BitVec.ofNat 64 (leNat (leBytes 4 (min wp.waitUs 0xFFFFFFFF) ++ leBytes 4 r.2.toNat))
    r.1.writeWords (commonsAddr f + (pf.comBase + pf.done + 16 * wp.idx) / 8) [(lo, false), (hi, false)]

/-- R190 step 1: the held rows of a pass are written to the banks, in the order of their entries. -/
def State.promoteRows (s : State) (f c serial : Nat) : State :=
  let es := (s.core f c).held.filter (·.serial = serial)
  let t := es.foldl (fun s e => e.data.foldl (fun s p => s.setBankRow f c p.1 e.row p.2) s) s
  t.updCore f c fun k => { k with held := k.held.filter (·.serial ≠ serial) }

/-- R196, R180: the bank rows of a vector that passed its region while its pass was speculative become unspecified. -/
def State.promoteSpill (s : State) (f c : Nat) (wp : WinPass) : State :=
  match wp.spill with
  | some vec => (s.unspecRegion (s.passCtx f c wp) wp vec).updPass f c wp.serial fun w => { w with spill := none }
  | none => s

/-- R190: promotes the new head, and lets every pass that waited for a held-write entry or for its drains go on (R193, R201). -/
def State.promote (s : State) (f c : Nat) : State :=
  match (s.core f c).window with
  | [] => s
  | wp :: _ =>
    let t := (s.promoteRows f c wp.serial).promoteSpill f c wp
    (t.core f c).window.foldl (fun s w => if w.started && w.fault.isNone && !w.todo.isEmpty then s.runPass f c w.serial else s) t

/-- The record of a fault that ends a job at a pass (Table 18-1, class 3). -/
def State.faultRec (s : State) (f c : Nat) (wp : WinPass) (e : PassFault) : State :=
  s.logFault {
    code := e.code, cls := 3, part := e.part, field := f, core := c, bu := e.bu.getD 0xFFFF,
    pbu := (match e.bu with | some u => (s.bu f c u).phys u | none => 0xFF),
    handle := wp.named, pass := wp.idx, detail := e.detail }

/-- R190, R196: a head commits with a fault: its record, and the end of its job at this pass. -/
def State.commitFault (s : State) (f c : Nat) (wp : WinPass) (e : PassFault) : State :=
  let t := (s.faultRec f c wp e).writeRecord f wp e.code
  let t := t.updJob wp.job fun j => { j with drain := j.drain ||| wp.status, failCode := e.code }
  (t.dropPass f c wp).endJob wp.job e.code (some (f, c, wp.idx))

/-- R189: a head that has done all commits without a fault: its record is written, its lanterns return, and its job counts it. -/
def State.commitDone (s : State) (f c : Nat) (wp : WinPass) : State :=
  let t := (s.writeRecord f wp stOK).releaseLanterns f c wp
  let t := (t.updCore f c fun k => { k with window := k.window.drop 1 }).count (coreBlock f c) 2 1
  let t := t.updJob wp.job fun j => { j with
    drain := j.drain ||| wp.status, committed := j.committed ++ [(f, wp.idx)], left := j.left - 1, waitUs := j.waitUs + wp.waitUs }
  t.releaseEngines fun q => q ≠ (f, c, wp.serial)

/-- R189, R190: the head commits: with its fault, where it holds one; with CAPACITY once all its outputs are written, where its side list
lacked entries and drain.esc_fatal is set (R150); else once it has done all. A new head that holds a fault commits with it at once. -/
def State.commitHead (s : State) (f c : Nat) : State :=
  match (s.core f c).window with
  | [] => s
  | wp :: _ =>
    match wp.fault with
    | some e => s.commitFault f c wp e
    | none =>
      if !s.passDone f c wp then s
      else if wp.shortfall ≠ 0 then
        s.commitFault f c wp { code := stCAPACITY, detail := capDetail 0x06 f c 0xFF wp.shortfall 0 }
      else
        let t := (s.commitDone f c wp).promote f c
        match (t.core f c).window with
        | [] => t
        | n :: _ => match n.fault with
          | some e => t.commitFault f c n e
          | none => t

/-- PASS_COMMIT. -/
def execPassCommit (f c : Nat) (s : State) : Host.Outcome State Fault Refusal :=
  onPart (endParts ++ [.out, .ports, .winReqs]) (coreExists f c) s fun s => s.commitHead f c

/-- A fault of the head: it commits with it at once (R190). -/
def State.failHead (s : State) (f c serial : Nat) (e : PassFault) : State :=
  if (s.core f c).isHead serial then (s.passFault f c serial e).commitHead f c else s.passFault f c serial e

/-! ### Lantern rows -/

/-- A job is a cadence tick. -/
def State.isTick (s : State) (h : Word) : Bool := match s.job h with | some j => j.tick.isSome | none => false

/-- R386 to R389: the job-start requests that stand first are lent; then the request of pass `p` is answered. -/
def State.lanternGrant (s : State) (f c p : Nat) : State :=
  let t := s.serveStarts s.lanterns.queue.length
  match (t.core f c).window[p]? with
  | none => t
  | some wp =>
    if 2 < Desc.lantern wp.desc && (wp.lantern = .asked || wp.lantern = .wafer) && !wp.skipped then
      t.answerRequest f c wp (t.isTick wp.job)
    else t

/-- LANTERN_GRANT. -/
def execLanternGrant (f c p : Nat) (s : State) : Host.Outcome State Fault Refusal :=
  onPart [.out, .cores, .fields, .ports, .lanterns, .counters] (placeExists f c p) s fun s => s.lanternGrant f c p

/-- R390: the head's request is withdrawn, and the job ends with LANTERN_DENIED. -/
def State.lanternTimeout (s : State) (f c p : Nat) : State :=
  match (s.core f c).window[p]? with
  | none => s
  | some wp =>
    if p = 0 && (wp.lantern = .asked || wp.lantern = .wafer) && !wp.skipped && wp.fault.isNone &&
        !(match s.job wp.job with | some j => j.paused | none => false) then
      (s.releaseLanterns f c wp).failHead f c wp.serial {
        code := stLANTERN_DENIED, part := 8,
        detail := leBytes 2 (Desc.lantern wp.desc) ++ leBytes 2 0 ++ leBytes 4 ((s.now - wp.asked) / 10) }
    else s

/-- LANTERN_GRANT_TIMEOUT. -/
def execLanternGrantTimeout (f c p : Nat) (s : State) : Host.Outcome State Fault Refusal :=
  onPart (endParts ++ [.out, .ports, .winReqs]) (placeExists f c p) s fun s => s.lanternTimeout f c p

/-- R391: what has been unheld for 100 µs returns a level up, while the wafer queue is empty: a row without a pool is no level. -/
def State.loanReturn (s : State) (l : LoanLevel) : State :=
  if !s.lanterns.queue.isEmpty then s
  else match l with
    | .field f =>
      let x := s.field f
      let r := (s.physOf f).1
      let t := s.setField f { x with lent := x.heldL }
      if s.rowHeld r then t.setRowPool r (s.rowPool r + (x.lent - x.heldL)) else t
    | .row r => s.setRowPool r 0

/-- A field or physical row of the unit. -/
def loanExists (l : LoanLevel) : Bool := match l with | .field f => decide (f < 96) | .row r => decide (r < 12)

/-- LANTERN_LOAN_RETURN. -/
def execLanternLoanReturn (l : LoanLevel) (s : State) : Host.Outcome State Fault Refusal :=
  onPart [.fields, .lanterns] (loanExists l) s fun s => s.loanReturn l

end Sys2Proof.Machine
end

