-- ==== Sys2Proof/Machine/Life.lean ====
section
/-! DEFINITION. The unit's state word, held reason and flags (R334, R397, R409, R435), and UNIT_STATE_CHANGE. -/

namespace Sys2Proof.Machine

/-- R409: the reason of Table 17-4 with the lowest code that applies, and its detail. -/
def State.heldReason (s : State) : Option (Nat × Nat) :=
  match s.vigil.noFirmware with
  | some d => some (1, d)
  | none => match s.vigil.faultHold with
    | some d => some (2, d)
    | none =>
      if s.active.isSome then
        if s.plans.any (·.2.sealed) then none else some (6, s.plans.length % 65536)
      else match s.vigil.cfgRefused with
        | some d => some (3, d)
        | none => match s.vigil.cfgTorn with
          | some d => some (4, d)
          | none => some (5, 0)

/-- A job has started and not completed. Ticks of streams are no jobs. -/
def State.jobRuns (s : State) : Bool := s.jobs.any fun j => j.tick.isNone && j.st ≠ .waiting

/-- A stream is armed and not halted. -/
def State.streamArmed (s : State) : Bool := s.streams.any fun p => !p.2.halted

/-- R397: UNIT_STATE.STATE; 0 is OFF. -/
def State.stateCode (s : State) : Nat :=
  match s.vigil.phase with
  | .off => 0
  | .vigil => 1
  | .waking => 2
  | .up => if s.heldReason.isSome then 3 else if s.jobRuns || s.streamArmed then 5 else 4

/-- The unit is READY or RUNNING (R306). -/
def State.isReady (s : State) : Bool := s.stateCode = 4 || s.stateCode = 5

/-- The flags of UNIT_STATE, from DEGRADED. -/
def State.flags (s : State) : Nat :=
  (if s.vigil.degraded then 1 else 0) + (if s.vigil.replace then 2 else 0) + (if s.vigil.faulted then 4 else 0)

/-- Table 14-5. -/
def State.unitState (s : State) : Word :=
  BitVec.ofNat 64 (s.stateCode + s.flags * 2 ^ 8 + (if s.vigil.mset then 2 ^ 16 else 0) + s.vigil.fckStep * 2 ^ 24)

/-- The register HELD_REASON. -/
def State.heldWord (s : State) : Word :=
  match s.heldReason with
  | some r => if s.stateCode = 3 then BitVec.ofNat 64 (r.1 + r.2 % 65536 * 65536) else 0
  | none => 0

/-- The logical fields that are lost. -/
def State.lostFields (s : State) : List Nat := allFields.filter fun f => (s.field f).health = .lost

/-- Table 14-9. -/
def State.replaceDetail (s : State) : Word :=
  let lost := s.lostFields
  let first := match lost with
    | [] => 0
    | f :: _ => let q := s.physOf f; f * 2 ^ 16 + 2 ^ 23 + q.1 * 2 ^ 24 + q.2 * 2 ^ 32
  BitVec.ofNat 64 (lost.length % 256 + s.vigil.spares.length % 256 * 2 ^ 8 + first + (if s.vigil.standby then 0 else 2 ^ 40))

/-- Table 0-1: IDREV. BUILD and IF_MINOR are those of the running image; 0 and 2 where none runs (R402). -/
def State.idrev (s : State) : Word := BitVec.ofNat 64 (0x5658310600000000 + 0xB003 * 65536 + s.vigil.fwMinor * 256 + s.vigil.fwBuild)

/-- UNIT_STATE_CHANGE where STATE or a flag changed (Table 14-8), and the first entry to READY (R398). -/
def State.noteState (s t : State) : State :=
  let t := if s.stateCode ≠ t.stateCode || s.flags ≠ t.flags then t.raiseAll 0 else t
  if t.isReady && !t.vigil.wasReady then { t with vigil := { t.vigil with wasReady := true } } else t

/-- A command's meaning on parts that exist, with UNIT_STATE_CHANGE: beside its own parts it may change outputs, ports and the unit's
lifecycle. -/
def onUnit (ps : List Part) (ok : Bool) (s : State) (f : State → State) : Host.Outcome State Fault Refusal :=
  onPart ([.out, .ports, .vigil] ++ ps) ok s fun s => s.noteState (f s)

/-- R335: VIGIL_TIME counts one period, while the Vigil domain has power. -/
def State.idleTick (s : State) : State :=
  if s.vigil.phase = .off then s else { s with vigil := { s.vigil with vigilTime := s.vigil.vigilTime + 1 } }

/-- A redundant part is gone (R435). -/
def State.degrade (s : State) : State := { s with vigil := { s.vigil with degraded := true } }

end Sys2Proof.Machine
end

