-- ==== Sys2Proof/Machine/Milliner.lean ====
section
/-! DEFINITION. The Milliner's mailboxes (R279 to R299): handles, queue pairs, doorbells, fetch, the order in which messages are
applied, completion entries and interrupt moderation. -/

namespace Sys2Proof.Machine

/-! ### Entries (Tables 12-3, 12-4) -/

/-- Byte `i` of an entry. -/
def eByte (e : Entry) (i : Nat) : Nat := fld e (8 * i) 8
/-- `n` bytes of an entry from byte `i`, little-endian. -/
def eNum (e : Entry) (i n : Nat) : Nat := fld e (8 * i) (8 * n)
def sqOp (e : Entry) : Nat := eNum e 0 2
def sqDesc (e : Entry) : Bool := bit e 16
def sqFence (e : Entry) : Bool := bit e 17
def sqNocrc (e : Entry) : Bool := bit e 18
def sqVer (e : Entry) : Nat := eByte e 3
def sqTag (e : Entry) : Nat := eNum e 4 4
def sqHandle (e : Entry) : Word := e.extractLsb' 64 64

/-- A payload descriptor (Table 12-4). -/
structure PayDesc where
  addr : Nat
  len : Nat
  crc : Nat
deriving DecidableEq, Repr

/-- The descriptor at byte `i` of an entry. -/
def descAt (e : Entry) (i : Nat) : PayDesc := ⟨eNum e i 8, eNum e (i + 8) 4, eNum e (i + 12) 4⟩

/-- An opcode's family is a job, telemetry or fault-log family, whose messages are not ordered (R292). -/
def opOrdered (op : Nat) : Bool := op / 256 ≠ 4 && op / 256 ≠ 10 && op / 256 ≠ 11

/-- R282, R302: where an opcode is accepted from. -/
inductive Chan where
  | any
  | host
  | control
  | admin
deriving DecidableEq, Repr

/-- What the tables of the message reference give an opcode: whether bytes 16 to 31 hold a descriptor, and whether that is a
buffer that the unit only writes; completion entries; channel; the kind of its handle, 0 for none; and the byte ranges of the
entry that it reads. -/
structure MsgSpec where
  desc : Bool := false
  result : Bool := false
  slots : Nat := 1
  chan : Chan := .any
  handle : Nat := 0
  used : List (Nat × Nat) := []
deriving DecidableEq, Repr

/-- Tables 13-3 to 13-15. -/
def msgSpec (op : Nat) : Option MsgSpec :=
  match op with
  | 0x0001 => some { used := [(16, 16)] }
  | 0x0002 => some {}
  | 0x0010 | 0x0011 => some { chan := .control }
  | 0x0101 => some { chan := .admin, used := [(16, 24)] }
  | 0x0102 => some { chan := .admin, handle := 1 }
  | 0x0103 => some { chan := .admin, used := [(16, 3)] }
  | 0x0104 => some { chan := .admin, handle := 1, used := [(16, 4)] }
  | 0x0105 => some { chan := .admin, used := [(16, 2)] }
  | 0x0201 => some { desc := true, chan := .control, used := [(16, 16)] }
  | 0x0202 | 0x0203 => some { chan := .control, handle := 5 }
  | 0x0204 => some { chan := .control }
  | 0x0301 => some { desc := true, chan := .host, used := [(16, 16)] }
  | 0x0302 | 0x0303 | 0x0304 => some { chan := .host, handle := 2 }
  | 0x0305 => some { desc := true, result := true, chan := .host, handle := 2, used := [(16, 16)] }
  | 0x0401 => some { desc := true, chan := .host, handle := 2, used := [(16, 34), (52, 4)] }
  | 0x0402 | 0x0403 => some { chan := .host, handle := 3 }
  | 0x0501 => some { chan := .host, handle := 2, used := [(16, 9), (26, 2), (32, 18)] }
  | 0x0502 | 0x0503 | 0x0504 => some { chan := .host, handle := 4 }
  | 0x0601 => some { chan := .host, used := [(16, 2)] }
  | 0x0602 => some { chan := .host, used := [(16, 8)] }
  | 0x0603 => some { slots := 2, chan := .host }
  | 0x0701 => some { chan := .control, used := [(16, 2)] }
  | 0x0702 => some { chan := .control, used := [(16, 1)] }
  | 0x0703 => some {}
  | 0x0801 => some { desc := true, chan := .control, used := [(16, 24)] }
  | 0x0802 => some { desc := true, chan := .control, handle := 6, used := [(16, 24)] }
  | 0x0803 => some { chan := .control, handle := 6 }
  | 0x0804 => some { chan := .control, used := [(16, 9)] }
  | 0x0805 => some { slots := 4 }
  | 0x0901 => some {}
  | 0x0902 => some { chan := .control, used := [(16, 1)] }
  | 0x0A01 => some { desc := true, result := true, used := [(16, 20)] }
  | 0x0A02 => some { chan := .control, used := [(16, 4)] }
  | 0x0A03 => some { desc := true, result := true, used := [(16, 16)] }
  | 0x0B01 => some { desc := true, result := true, used := [(16, 20)] }
  | 0x0B02 => some {}
  | 0x0C01 => some { desc := true, chan := .control, used := [(16, 17), (36, 4)] }
  | 0x0C02 | 0x0C03 => some { chan := .control, used := [(16, 1)] }
  | 0x0C04 => some { chan := .control }
  | 0x0D01 => some { desc := true, result := true, chan := .control, used := [(16, 16)] }
  | 0x0D02 => some { chan := .control, used := [(16, 4)] }
  | 0x0D03 => some { chan := .control, used := [(16, 10)] }
  | _ => none

/-- R12: every byte from 16 on that the row does not name is 0. -/
def reservedZero (e : Entry) (used : List (Nat × Nat)) : Bool :=
  (List.range 48).all fun i => used.any (fun r => r.1 ≤ 16 + i && 16 + i < r.1 + r.2) || eByte e (16 + i) = 0

/-- R283, R284, R301: the layout of an entry. -/
def entryOk (e : Entry) (x : MsgSpec) : Bool :=
  sqVer e = 3 && fld e 19 5 = 0 && sqDesc e = x.desc && reservedZero e x.used &&
  (!(x.desc && (sqNocrc e || x.result)) || (descAt e 16).crc = 0) &&
  -- the output buffer of a job (Table 13-7)
  (sqOp e ≠ 0x0401 || (descAt e 32).crc = 0)

/-! ### Handles (R286, R312) -/

/-- A handle. -/
def mkHandle (kind owner index gen : Nat) : Word :=
  BitVec.ofNat 64 (kind + owner * 2 ^ 16 + index % 65536 * 2 ^ 32 + gen % 65536 * 2 ^ 48)
def hKind (h : Word) : Nat := fld h 0 8
def hOwner (h : Word) : Nat := fld h 16 11
def hIndex (h : Word) : Nat := fld h 32 16
def hGen (h : Word) : Nat := fld h 48 16
/-- The reserved fields of a handle are 0. -/
def hShape (h : Word) (kind : Nat) : Bool := hKind h = kind && fld h 8 8 = 0 && fld h 27 5 = 0

/-- Handles of resources. Owners stand in the handle as issued. -/
def Plan.handle (p : Plan) (i : Nat) : Word := mkHandle 2 p.owner i p.gen
def Stream.handle (x : Stream) (i : Nat) : Word := mkHandle 4 x.owner i x.gen
def Config.handle (x : Config) : Word := mkHandle 5 x.owner x.index x.gen
/-- A configuration that is issued: the sealed one keeps its index, and the staged one takes the other (R286). -/
def State.newConfig (s : State) (owner : Nat) (image : List Byte) : Config :=
  let i := if s.active.any (·.index = 0) then 1 else 0
  { owner, index := i, gen := Sparse.get 0 s.cfgGens i, image }
def Fabric.handle (x : Fabric) : Word := mkHandle 6 x.owner 0 x.gen
/-- The handle of a queue pair, issued by the admin queue of its port. -/
def State.queueHandle (s : State) (q : Nat) : Word := mkHandle 1 (s.ownerOf q) q (s.queue q).gen

/-- R286: the index of a live plan that a handle names. Ownership passes (R282) without changing what a handle names. -/
def State.planOf (s : State) (h : Word) : Option Nat :=
  if hShape h 2 && (match s.plan (hIndex h) with | some p => p.gen % 65536 = hGen h | none => false) then some (hIndex h) else none
/-- A live stream. -/
def State.streamOf (s : State) (h : Word) : Option Nat :=
  if hShape h 4 && (match Sparse.find s.streams (hIndex h) with | some x => x.gen % 65536 = hGen h | none => false) then
    some (hIndex h) else none
/-- A created queue pair. -/
def State.queueOf (s : State) (h : Word) : Option Nat :=
  let q := hIndex h
  if hShape h 1 && q < 1024 && (s.queue q).st ≠ .uncreated && (s.queue q).gen % 65536 = hGen h then some q else none
/-- A configuration that a handle names. -/
def cfgNamed (h : Word) (x : Option Config) : Bool :=
  match x with | some c => hShape h 5 && hIndex h = c.index && c.gen % 65536 = hGen h | none => false
/-- A fabric configuration that a handle names. -/
def fabNamed (h : Word) (x : Option Fabric) : Bool :=
  match x with | some c => hShape h 6 && hIndex h = 0 && c.gen % 65536 = hGen h | none => false

/-- R286: the handle of an entry names a live resource of the row's kind, or is 0 where the row has none. -/
def State.handleOk (s : State) (e : Entry) (kind : Nat) : Bool :=
  let h := sqHandle e
  match kind with
  | 0 => h = 0
  | 1 => (s.queueOf h).isSome
  | 2 => (s.planOf h).isSome
  | 3 => hShape h 3 && (s.job h).isSome
  | 4 => (s.streamOf h).isSome
  | 5 => cfgNamed h s.staged || cfgNamed h s.active
  | _ => fabNamed h s.fabStaged || fabNamed h s.fabActive

/-! ### Completions (R287, R290, R299, R331) -/

/-- The number of management's channel among queues. -/
def mgmtQ : Nat := 1024

/-- A completion entry (Table 12-6). -/
def cqEntry (tag status sqhead sqid : Nat) (phase more : Bool) (res : List Byte) : List Byte :=
  leBytes 4 tag ++ leBytes 2 status ++ leBytes 1 ((if phase then 1 else 0) + (if more then 2 else 0)) ++ leBytes 1 0 ++
  leBytes 2 sqhead ++ leBytes 2 sqid ++ leBytes 4 0 ++ (res ++ List.replicate 16 0).take 16

/-- Sends the vector of a queue pair; it signals every completion written so far. -/
def State.signal (s : State) (q : Nat) : State :=
  (s.updQueue q fun x => { x with unsignalled := 0 }).sendMsix (s.ownerOf q) q

/-- Entries of a ring. -/
def Queue.sqSize (x : Queue) : Nat := 2 ^ x.sqLog2
def Queue.cqSize (x : Queue) : Nat := 2 ^ x.cqLog2

/-- R290: writes one completion entry into the next slot of a pair's CQ. -/
def State.writeCq (s : State) (q tag status : Nat) (more : Bool) (res : List Byte) : State :=
  let x := s.queue q
  let bs := cqEntry tag status x.h q x.phase more res
  let slot := x.w % x.cqSize
  let t := s.emit (s.ownerOf q) (.dma (s.ownerOf q) (x.cqBase + 32 * slot) bs false false)
  (t.setQueue q { x with
    w := (x.w + 1) % 65536, phase := if (x.w + 1) % x.cqSize = 0 then !x.phase else x.phase, reserved := x.reserved - 1,
    unsignalled := x.unsignalled + 1, written := x.written ++ [(slot, BitVec.ofNat 256 (leNat bs))] }).count (queueBlock q) 1 1

/-- R299: the moderation of what has just been written. -/
def State.moderate (s : State) (q status : Nat) : State :=
  let x := s.queue q
  if x.unsignalled = 0 then s
  else if x.m ≤ x.unsignalled || x.tau = 0 || 256 ≤ status then s.signal q else s

/-- Writes the completion entries of a message: `n` of them, result bytes 16k to 16k + 15 in entry k (R305). -/
def State.writeEntries (s : State) (id : MsgId) (tag status n : Nat) (res : List Byte) : State :=
  let part (k : Nat) : List Byte := (res.drop (16 * k)).take 16
  if id.src = mgmtQ then
    { s with smb := { s.smb with
      completions := s.smb.completions ++ [(List.range n).map fun k =>
        BitVec.ofNat 256 (leNat (cqEntry tag status (s.smb.ctr % 65536) mgmtQ true (decide (k + 1 < n)) (part k)))],
      reserved := s.smb.reserved - n } }
  else if (s.queue id.src).st = .uncreated then s
  else ((List.range n).foldl (fun s k => s.writeCq id.src tag status (decide (k + 1 < n)) (part k)) s).moderate id.src status

/-- The fetched message of an id. -/
def State.msg (s : State) (id : MsgId) : Option Msg := s.msgs.find? (·.id = id)
/-- A message that is being applied, its completion to come. -/
def State.markApplied (s : State) (id : MsgId) : State :=
  { s with msgs := s.msgs.map fun m => if m.id = id then { m with applied := true } else m }

/-- R280: a pair becomes UNCREATED; what it owns passes to its port's admin queue (R282). -/
def State.uncreate (s : State) (q : Nat) : State :=
  let adm := s.ownerOf q
  let x := s.queue q
  let pass (o : Nat) : Nat := if o = q then adm else o
  { s.setQueue q { gen := (x.gen + 1) % 65536 } with
    plans := s.plans.map fun p => (p.1, { p.2 with owner := pass p.2.owner })
    streams := s.streams.map fun p => (p.1, { p.2 with owner := pass p.2.owner })
    staged := s.staged.map fun c => { c with owner := pass c.owner }
    active := s.active.map fun c => { c with owner := pass c.owner }
    fabStaged := s.fabStaged.map fun c => { c with owner := pass c.owner }
    fabActive := s.fabActive.map fun c => { c with owner := pass c.owner }
    fields := s.fields.map fun p => (p.1, { p.2 with cmdMode := p.2.cmdMode.map pass }) }

/-- A message has been completed: it is gone, with its entries written. -/
def State.finish1 (s : State) (m : Msg) (status : Nat) (res : List Byte) : State :=
  let t := s.writeEntries m.id (sqTag m.entry) status m.slots res
  { t with msgs := t.msgs.filter (·.id ≠ m.id) }

/-- R280: the QUEUE_DELETE messages whose pairs have no fetched entry left complete, and their pairs become UNCREATED. -/
def State.settleDeletes (s : State) : State :=
  s.msgs.foldl (fun s m =>
    if sqOp m.entry = 0x0102 && m.applied then
      let q := hIndex (sqHandle m.entry)
      if s.msgs.any (·.id.src = q) then s
      else (if (s.queue q).deleting then s.uncreate q else s).finish1 m stOK []
    else s) s

/-- Completes a message (R287); a deletion that waited for it goes on. -/
def State.finish (s : State) (m : Msg) (status : Nat) (res : List Byte) : State := (s.finish1 m status res).settleDeletes

/-! ### Doorbells (R288, R289) -/

/-- R289: a doorbell error halts the pair. -/
def State.doorbellError (s : State) (q value code : Nat) (detail : List Byte) : State :=
  let p := s.ownerOf q
  let t := s.updQueue q fun x => { x with st := .halted }
  ((t.count (queueBlock q) 3 1).raise p 3).logFault {
    code, cls := 2, part := if code = stOUT_OF_RANGE then 7 else 6,
    detail := if detail.isEmpty then leBytes 1 p ++ leBytes 1 0 ++ leBytes 2 q ++ leBytes 8 value else detail }

/-- The difference of two ring counters. -/
def ctrDiff (a b : Nat) : Nat := (a + 65536 - b % 65536) % 65536

/-- R289: judges an SQ tail. -/
def State.judgeTail (s : State) (q v time : Nat) : State :=
  let x := s.queue q
  let t := v % 65536
  if 65536 ≤ v || x.sqSize - 1 < ctrDiff t x.h || 32768 ≤ ctrDiff t x.t then s.doorbellError q v stOUT_OF_RANGE []
  else
    let n := ctrDiff t x.t
    s.setQueue q { x with t, stamps := x.stamps ++ (List.range n).map fun i => ((x.t + i) % 65536, time) }

/-- R289: judges a CQ head. -/
def State.judgeHead (s : State) (q v : Nat) : State :=
  let x := s.queue q
  let r := v % 65536
  if 65536 ≤ v || ctrDiff x.w x.r < ctrDiff r x.r then s.doorbellError q v stOUT_OF_RANGE []
  else s.setQueue q { x with r, written := x.written.drop (ctrDiff r x.r) }

/-- R288: a doorbell write that is discarded and counted. -/
def State.doorbellDiscard (s : State) (port : Nat) : State := s.count (portBlock port) 5 1

/-- R288: a doorbell write, of value `v`, that is discarded: the port does not own the pair, or it is not created. -/
def State.doorbellRefused (s : State) (port q v : Nat) : Option State :=
  if s.ownerOf q ≠ port then
    some ((s.doorbellDiscard port).logFault {
      code := stNOT_OWNER, cls := 2, part := 6, detail := leBytes 1 port ++ leBytes 1 0 ++ leBytes 2 q ++ leBytes 8 v })
  else if (s.queue q).st = .uncreated then some (s.doorbellDiscard port)
  else none

/-- R400: a doorbell value reaches its pair: judged while the Milliner runs, latched in VIGIL and WAKING, a tail with its time. -/
def State.takeDoorbell (s : State) (q : Nat) (v : BitVec 32) (tail : Bool) : State :=
  match s.vigil.phase with
  | .up => if tail then s.judgeTail q v.toNat s.now else s.judgeHead q v.toNat
  | .off => s
  | _ =>
    { s with vigil := { s.vigil with phase := .waking, latched := s.vigil.latched ++ [(s.now, if tail then q else q + 1024, v)] } }

/-- R288: an aligned 4-byte doorbell write. -/
def State.doorbell (s : State) (port q : Nat) (v : BitVec 32) (tail : Bool) : State :=
  match s.doorbellRefused port q v.toNat with
  | some t => t
  | none => s.takeDoorbell q v tail

/-- R288: both doorbells of a pair by one aligned 8-byte write, which is one write where it is discarded. -/
def State.doorbells (s : State) (port q : Nat) (v : Word) : State :=
  match s.doorbellRefused port q v.toNat with
  | some t => t
  | none => (s.takeDoorbell q (v.extractLsb' 0 32) true).takeDoorbell q (v.extractLsb' 32 32) false

/-- A host port and a queue pair. -/
def portQueue (port q : Nat) : Bool := port < 4 && q < 1024

/-- SQ_TAIL_DOORBELL. -/
def execSqTailDoorbell (port q : Nat) (v : BitVec 32) (s : State) : Host.Outcome State Fault Refusal :=
  onUnit [.queues, .log, .counters] (portQueue port q) s fun s => s.doorbell port q v true
/-- CQ_HEAD_DOORBELL. -/
def execCqHeadDoorbell (port q : Nat) (v : BitVec 32) (s : State) : Host.Outcome State Fault Refusal :=
  onUnit [.queues, .log, .counters] (portQueue port q) s fun s => s.doorbell port q v false

/-! ### Fetch (R291, R292, R296) -/

/-- R290, R291: free CQ slots beyond those reserved. -/
def Queue.room (x : Queue) : Nat := x.cqSize - 1 - ctrDiff x.w x.r - x.reserved

/-- The Milliner fetches from this pair. -/
def State.fetchable (s : State) (q : Nat) : Bool :=
  let x := s.queue q
  x.st = .active && !x.deleting && x.h ≠ x.t && !(s.port (s.ownerOf q)).d3 && 4 ≤ x.room

/-- The stamp of the next entry of a pair. -/
def State.headTime (s : State) (q : Nat) : Nat :=
  let x := s.queue q
  ((x.stamps.find? (·.1 = x.h)).map (·.2)).getD 0

/-- R424: one of two counts of `n` bits comes before the other, judged within half the range. -/
def countBefore (n a b : Nat) : Bool := a ≠ b && (b + 2 ^ n - a % 2 ^ n) % 2 ^ n < 2 ^ (n - 1)

/-- R292, R424: stamps: time, rank, queue, counter. -/
def stampBefore (a b : Nat × Nat × Nat × Nat) : Bool :=
  countBefore 64 a.1 b.1 || (a.1 = b.1 && (a.2.1 < b.2.1 || (a.2.1 = b.2.1 && (a.2.2.1 < b.2.2.1 ||
    (a.2.2.1 = b.2.2.1 && countBefore 16 a.2.2.2 b.2.2.2)))))

/-- R292: the stamp of the next entry of a pair, or of the management channel, that is available and not decoded; the pair's fetch may
wait. -/
def State.headStamp (s : State) (q : Nat) : Option (Nat × Nat × Nat × Nat) :=
  let x := s.queue q
  if q = mgmtQ then s.smb.waiting.head?.map fun w => (w.2.1, 0, mgmtQ, w.1)
  else if x.st = .active && !x.deleting && x.h ≠ x.t then some (s.headTime q, s.ownerOf q + 1, q, x.h) else none

/-- R296: the entries of the first tier that can be fetched. -/
def State.firstTier (s : State) : List (Nat × (Nat × Nat × Nat × Nat)) :=
  [mgmtQ, 0, 1, 2, 3].filterMap fun q => if q = mgmtQ || s.fetchable q then (s.headStamp q).map fun t => (q, t) else none

/-- R296: the pair that is served next: the first tier in stamp order, then round robin, up to 8 entries in a turn. -/
def State.nextFetch (s : State) : Option Nat :=
  match s.firstTier with
  | x :: xs => some (xs.foldl (fun b y => if stampBefore y.2 b.2 then y else b) x).1
  | [] =>
    let live := (s.queues.map (·.1)).filter fun q => 4 ≤ q && s.fetchable q
    let cur := s.vigil.turn
    if s.vigil.taken < 8 && live.contains cur then some cur
    else match live.find? (cur < ·) with
      | some q => some q
      | none => live.head?

/-- A turn of round robin is used. -/
def State.takeTurn (s : State) (q : Nat) : State :=
  if q < 4 then s
  else { s with vigil := { s.vigil with turn := q, taken := if q = s.vigil.turn && s.vigil.taken < 8 then s.vigil.taken + 1 else 1 } }

/-- R283, R291: a decoded entry: it waits to be applied, with its completion slots reserved; one that breaks its layout completes
MALFORMED. -/
def State.decodeEntry (s : State) (id : MsgId) (time rank : Nat) (e : Entry) : State :=
  let x := msgSpec (sqOp e)
  let m : Msg := {
    id, time, rank, entry := e, slots := match x with | some y => y.slots | none => 1,
    live := match x with | some y => s.handleOk e y.handle | none => false }
  let t : State := { s with msgs := s.msgs ++ [m] }
  if (match x with | some y => entryOk e y | none => false) then t else t.finish m stMALFORMED []

/-- The entry that a read of 64 bytes returned. -/
def entryOf (bs : List Byte) : Entry := BitVec.ofNat 512 (leNat (bs.take 64))

/-- R285, chapter edges: a fetch that fails halts the pair. -/
def State.fetchFails (s : State) (q code : Nat) : State :=
  s.doorbellError q 0 code (leBytes 1 3 ++ leBytes 1 (s.ownerOf q) ++ leBytes 2 0xFFFF ++ leBytes 1 0xFF)

/-- SQ_ENTRY_FETCH: of the pair that is served next; of the management channel, the oldest entry submitted. -/
def State.fetchEntry (s : State) (q : Nat) (rd : DmaRead) : State :=
  if s.vigil.phase ≠ .up then s
  else if s.nextFetch ≠ some q then
    (if q < 1024 && (s.queue q).st = .active && (s.queue q).h ≠ (s.queue q).t && (s.queue q).room < 4 then s.count (queueBlock q) 2 1
     else s)
  else if q = mgmtQ then
    match s.smb.waiting with
    | [] => s
    | w :: ws =>
      let t : State := { s with smb := { s.smb with waiting := ws } }
      t.decodeEntry ⟨mgmtQ, w.1⟩ w.2.1 0 w.2.2
  else
    let x := s.queue q
    match rd with
    | .failed => s.fetchFails q stTIMEOUT
    | .poisoned => s.fetchFails q stDATA_POISON
    | .ok bs =>
      if bs.length < 64 then s.fetchFails q stTIMEOUT
      else
        let e := entryOf bs
        let h' := (x.h + 1) % 65536
        let n := match msgSpec (sqOp e) with | some y => y.slots | none => 1
        let t := s.setQueue q { x with
          h := h', wraps := if h' = 0 then x.wraps + 1 else x.wraps, reserved := x.reserved + n,
          stamps := x.stamps.filter (·.1 ≠ x.h) }
        ((t.takeTurn q).count (queueBlock q) 0 1).decodeEntry ⟨q, x.h⟩ (s.headTime q) (s.ownerOf q + 1) e

/-- SQ_ENTRY_FETCH. -/
def execSqEntryFetch (q : Nat) (rd : DmaRead) (s : State) : Host.Outcome State Fault Refusal :=
  onUnit (finishParts ++ [.log]) (q ≤ 1024) s fun s => s.fetchEntry q rd

/-- INTERRUPT_MODERATION_TIMEOUT (R299). -/
def execInterruptModerationTimeout (q : Nat) (s : State) : Host.Outcome State Fault Refusal :=
  onUnit [.queues] (q < 1024) s fun s => if (s.queue q).unsignalled = 0 then s else s.signal q

/-! ### Applying messages (R291, R292, R294, R295, R302) -/

/-- The stamp of a message. -/
def Msg.stamp (m : Msg) : Nat × Nat × Nat × Nat := (m.time, m.rank, m.id.src, m.id.ctr)

/-- A message is a reset or power-off, which goes ahead of every other (R295). -/
def Msg.isReset (m : Msg) : Bool := sqOp m.entry = 0x0010 || sqOp m.entry = 0x0011

/-- A job message (family 0x04xx). -/
def Msg.isJob (m : Msg) : Bool := sqOp m.entry / 256 = 4

/-- R291, R292, R283: a message may be applied: in ring order within its pair, after every earlier entry where it is fenced, and in
stamp order among ordered messages, those not yet fetched included. -/
def State.mayApply (s : State) (m : Msg) : Bool :=
  s.vigil.phase = .up && !m.applied &&
  !(s.msgs.any fun o => o.id.src = m.id.src && !o.applied && o.isJob = m.isJob && !m.isReset && stampBefore o.stamp m.stamp) &&
  !(sqFence m.entry && s.msgs.any fun o => o.id.src = m.id.src && stampBefore o.stamp m.stamp) &&
  (!opOrdered (sqOp m.entry) ||
    !(s.msgs.any fun o => !o.applied && opOrdered (sqOp o.entry) && (o.isReset || !m.isReset) && o.id ≠ m.id &&
        (stampBefore o.stamp m.stamp || (o.isReset && !m.isReset))) &&
    (m.isReset || !((mgmtQ :: s.queues.map (·.1)).any fun q => match s.headStamp q with
      | some t => stampBefore t m.stamp
      | none => false)))

/-- R302, R303: the channel accepts the message. -/
def chanOk (src : Nat) (c : Chan) : Bool :=
  match c with
  | .any => true
  | .host => src ≠ mgmtQ
  | .control => src = mgmtQ || src < 4
  | .admin => src < 4

/-- R402, R436: what the boot ROM's service serves. -/
def bootServes (s : State) (op : Nat) : Bool :=
  op = 0x0001 || op = 0x0002 || op = 0x0010 || op / 256 = 0x0C || (s.vigil.faultHold.isSome && (op / 256 = 0x0A || op / 256 = 0x0B))

/-- R301, R302, R294: the checks that every message shares. An ordered message whose target was live when it was decoded, and is not
now, is superseded. -/
def State.sharedStatus (s : State) (m : Msg) (x : MsgSpec) : Nat :=
  if s.vigil.bootRom && !bootServes s (sqOp m.entry) then stHELD
  else if !chanOk m.id.src x.chan then stNOT_OWNER
  else if !s.handleOk m.entry x.handle then (if m.live && opOrdered (sqOp m.entry) then stSUPERSEDED else stOUT_OF_RANGE)
  else stOK

/-- Applies a fetched message of an opcode: the shared checks, then the row's own meaning. Nothing happens where there is no such
message, or it may not be applied yet. -/
def State.onMessage (s : State) (id : MsgId) (op : Nat) (body : Msg → State → State) : State :=
  match s.msg id, msgSpec op with
  | some m, some x =>
    if sqOp m.entry = op && s.mayApply m then
      let st := s.sharedStatus m x
      if st = stOK then body m s else s.finish m st []
    else s
  | _, _ => s

/-- A message id that an entry can have. -/
def msgIdOk (id : MsgId) : Bool := id.src ≤ 1024

/-- The form of a message row: it may change what its completion changes, and parts of its own. -/
def onMsg (op : Nat) (ps : List Part) (id : MsgId) (body : Msg → State → State) (s : State) : Host.Outcome State Fault Refusal :=
  onUnit (finishParts ++ ps) (msgIdOk id) s fun s => s.onMessage id op body

/-! ### Payloads and result buffers (R284, R285, R303, R304) -/

/-- The size of the staging buffer (R458). -/
def stagingSize : Nat := 2 ^ 20

/-- The bytes of a payload descriptor: those that the read returned, or the staging buffer's; or the status of a failure. -/
def State.payload (s : State) (m : Msg) (d : PayDesc) (rd : DmaRead) : Except Nat (List Byte) :=
  if d.len = 0 then .error stMALFORMED
  else if m.id.src = mgmtQ then
    if stagingSize < d.addr + d.len then .error stOUT_OF_RANGE
    else
      let bs := (List.range d.len).map fun i => Sparse.get 0 s.smb.staging (d.addr + i)
      if sqNocrc m.entry || (crc32c bs).toNat = d.crc then .ok bs else .error stPAYLOAD_CRC
  else match rd with
    | .failed => .error stTIMEOUT
    | .poisoned => .error stDATA_POISON
    | .ok bs =>
      if bs.length ≠ d.len then .error stTIMEOUT
      else if sqNocrc m.entry || (crc32c bs).toNat = d.crc then .ok bs else .error stPAYLOAD_CRC

/-- R304: a result buffer has room for `n` bytes, and lies in the staging buffer where it is there. -/
def resultRoom (m : Msg) (n : Nat) : Bool :=
  let d := descAt m.entry 16
  n ≤ d.len && (m.id.src ≠ mgmtQ || d.addr + d.len ≤ stagingSize)

/-- Writes result bytes into the buffer of a message (R304, R331). -/
def State.writeResult (s : State) (m : Msg) (bs : List Byte) : State :=
  let d := descAt m.entry 16
  if m.id.src = mgmtQ then
    { s with smb := { s.smb with staging := bs.zipIdx.foldl (fun a p => Sparse.set 0 a (d.addr + p.2) p.1) s.smb.staging } }
  else
    let p := s.ownerOf m.id.src
    if bs.isEmpty then s else s.emit p (.dma p d.addr bs false true)

/-- A message that answers with a result buffer and a result. -/
def State.answerBuffer (s : State) (m : Msg) (bs res : List Byte) : State :=
  if resultRoom m bs.length then (s.writeResult m bs).finish m stOK res else s.finish m stOUT_OF_RANGE []

/-- The opcodes whose messages read a payload. -/
def readsPayload (op : Nat) : Bool := match msgSpec op with | some x => x.desc && !x.result | none => false

/-- R285, R330: the read of a message's payload expires; the message has no effect. -/
def State.readExpires (s : State) (id : MsgId) : State :=
  match s.msg id with
  | some m => if readsPayload (sqOp m.entry) && !m.applied && id.src ≠ mgmtQ then s.finish m stTIMEOUT [] else s
  | none => s

/-- DMA_READ_TIMEOUT. -/
def execDmaReadTimeout (m : MsgId) (s : State) : Host.Outcome State Fault Refusal :=
  onUnit finishParts (msgIdOk m) s fun s => s.readExpires m

end Sys2Proof.Machine
end

