-- ==== Sys2Proof/Machine/Streams.lean ====
section
/-! DEFINITION. Cadence streams as other parts see them (R364, R370 to R372): what a stream uses, its control line, its halt, and
the release of what it holds. -/

namespace Sys2Proof.Machine

/-! ### Segments of a plan -/

/-- The pass indices of a segment in a core of a field. -/
def PlanField.segRun (pf : PlanField) (seg c : Nat) : List Nat :=
  let k := pf.cores.getD c (0, 0)
  let g := (pf.segs.getD seg []).getD c (0, 0)
  (List.range g.2).map fun i => k.1 + g.1 + i

/-- A descriptor of the pass list as loaded. -/
def PlanField.desc (pf : PlanField) (i : Nat) : Desc := pf.descs.getD i 0

/-- A field's part of a plan has a pass in one of some segments. -/
def PlanField.inSegs (pf : PlanField) (segs : List Nat) : Bool := segs.any fun g => allCores.any fun c => !(pf.segRun g c).isEmpty

/-- The fields that some segments use: those with a pass in them, and their input fields. -/
def Plan.segFields (p : Plan) (segs : List Nat) : List Nat :=
  p.fields.filterMap fun pf =>
    if pf.inSegs segs || segs.any (fun g => match p.segs[g]? with | some x => x.inField = pf.field | none => false) then some pf.field
    else none

/-- The cores that some segments use, by field and core. -/
def Plan.segCores (p : Plan) (segs : List Nat) : List (Nat × Nat) :=
  (p.fields.map fun pf => (allCores.filter fun c => segs.any fun g => !(pf.segRun g c).isEmpty).map fun c => (pf.field, c)).flatten

/-! ### Streams -/

def State.stream (s : State) (st : Nat) : Option Stream := Sparse.find s.streams st
def State.putStream (s : State) (st : Nat) (x : Stream) : State := { s with streams := Sparse.put s.streams st x }

/-- The segments that a stream's Almanac names (R352). -/
def Stream.segs (x : Stream) : List Nat := (x.entries.map fun e => if e.seg = 0xFFFF then x.seg else e.seg).eraseDups
/-- The fields of a stream's segments. -/
def State.streamFields (s : State) (x : Stream) : List Nat := match s.plan x.plan with | some p => p.segFields x.segs | none => []
/-- The cores of a stream's segments. -/
def State.streamCores (s : State) (x : Stream) : List (Nat × Nat) := match s.plan x.plan with | some p => p.segCores x.segs | none => []
/-- R362, R364: a stream that is armed, or whose arming has reserved its lanterns. -/
def Stream.claims (x : Stream) : Bool := !x.halted || x.arming.isSome
/-- The port that owns a stream's queue. -/
def State.streamPort (s : State) (x : Stream) : Nat := s.ownerOf x.owner

/-- The field and the first word of a stream's control line (R357). -/
def State.streamLine (s : State) (x : Stream) : Option (Nat × Nat) :=
  (s.plan x.plan).bind fun p => (p.segs[x.seg]?).bind fun g => (p.inField g.inField).map fun pf =>
    (g.inField, commonsAddr g.inField + (pf.comBase + x.inBase) / 8)

/-- Two 32-bit counters as a word. -/
def pairWord (a b : BitVec 32) : Word := a.setWidth 64 ||| (b.setWidth 64 <<< 32)

/-- R358: the control line as Table 15-3 gives it; the unit rewrites it after each change. -/
def State.writeLine (s : State) (x : Stream) : State :=
  match s.streamLine x with
  | none => s
  | some p => s.writeWords p.2 [
      (pairWord x.prod x.orel, false), (pairWord x.cons x.acc, false), (pairWord x.outw x.refused, false),
      (BitVec.ofNat 64 x.t0, false), (0, false), (0, false), (0, false), (0, false)]

/-- Changes a stream, and its control line after it. -/
def State.setStream (s : State) (st : Nat) (x : Stream) : State := (s.putStream st x).writeLine x

/-- R364, R370: the reservation and the pins of a stream are released. -/
def State.releaseStream (s : State) (st : Nat) (x : Stream) : State :=
  let t := x.reserve.foldl (fun s p => s.updField p.1 fun fl => { fl with reserved := fl.reserved - p.2 }) s
  let t := (s.streamCores x).foldl (fun s q => s.updCore q.1 q.2 fun k => { k with pinnedBy := k.pinnedBy.filter (· ≠ 16 + st) }) t
  let t := (s.streamFields x).foldl (fun s f => s.updEdge f fun e => { e with pinnedBy := e.pinnedBy.filter (· ≠ st) }) t
  t.putStream st { x with holds := false, reserve := [] }

/-- The CADENCE_DISARM of a stream whose ticks have delivered completes, and its handle is dead (R372). -/
def State.finishDisarm (s : State) (st : Nat) (x : Stream) : State :=
  let t := if x.holds then s.releaseStream st x else s
  let ms := t.msgs.filter fun m => sqOp m.entry = 0x0503 && m.applied && s.streamOf (sqHandle m.entry) = some st
  let t := ms.foldl (fun s m => s.finish m stOK []) t
  { t with streams := Sparse.del t.streams st, streamGens := Sparse.set 0 t.streamGens st ((x.gen + 1) % 65536) }

/-- R370, R372: a stream whose ticks have all delivered: a halted one releases what it holds, with its record and event; one being
disarmed is gone. -/
def State.settleStream (s : State) (st : Nat) : State :=
  match s.stream st with
  | none => s
  | some x =>
    if !x.ticks.isEmpty then s
    else if x.disarming then s.finishDisarm st x
    else match x.halted && x.holds, x.cause with
      | true, some c =>
        let t := s.releaseStream st x
        (t.logFault { code := c.1, cls := 2, part := 7, handle := (x.handle st).toNat, detail := c.2 }).raise (s.streamPort x) 5
      | _, _ => s

/-- R370: a stream halts: no further tick is dispatched. One that is being armed gives back what it holds, and its message ends with the
cause (log entry 121). -/
def State.haltStream (s : State) (st code : Nat) (detail : List Byte) : State :=
  match s.stream st with
  | none => s
  | some x =>
    if x.disarming then s
    else if x.arming.isSome then s.releaseStream st { x with halted := true, cause := some (code, detail) }
    else if x.halted then s
    else (s.putStream st { x with halted := true, cause := some (code, detail) }).settleStream st

/-- The lanterns that the streams which are not halted reserve. -/
def State.reservedByStreams (s : State) : Nat :=
  (s.streams.map fun p => if p.2.claims then (p.2.reserve.map (·.2)).sum else 0).sum

/-- The most recently armed stream that is not halted. -/
def State.newestStream (s : State) : Option Nat :=
  (s.streams.foldl (fun (b : Option (Nat × Stream)) p => if !p.2.claims || !p.2.holds then b else match b with
    | none => some p
    | some q => if q.2.armedAt < p.2.armedAt then some p else b) none).map (·.1)

/-- R371: streams halt, most recently armed first, until the effective pool covers the reservations. -/
def State.fitStreams : Nat → State → State
  | 0, s => s
  | fuel + 1, s =>
    if s.effPool < s.reservedByStreams then match s.newestStream with
      | some st =>
        let n := match s.stream st with | some x => (x.reserve.map (·.2)).sum | none => 0
        State.fitStreams fuel (s.haltStream st stLANTERN_DENIED (leBytes 2 (min n 65535) ++ leBytes 6 0))
      | none => s
    else s

/-- R392: a lowered pool recalls the loans that no grant holds; held grants and reservations stay. -/
def State.recallLoans (s : State) : State :=
  { s with
    fields := s.fields.foldl (fun m p => Sparse.set {} m p.1 { p.2 with lent := p.2.heldL }) s.fields
    lanterns := { s.lanterns with rows := [] } }

/-- R392, R371: what follows a change of the pool's limits. -/
def State.poolChanged (before s : State) : State :=
  if s.effPool < before.effPool then State.fitStreams s.streams.length s.recallLoans
  else if before.effPool < s.effPool then s.serveStarts s.lanterns.queue.length
  else s

/-! ### The control line (R358, R359, R361) -/

/-- R359: the host writes ic.prod. A write that goes back is discarded; samples beyond the room are refused, with a record. -/
def State.writeProd (s : State) (st : Nat) (v : BitVec 32) : State :=
  match s.stream st with
  | none => s
  | some x =>
    let k := (v - x.acc).toNat
    let room := 2 ^ x.inLog2 - 1 - (x.acc - x.cons).toNat
    if k = 0 || 2 ^ 31 ≤ k then s
    else
      let acc := x.acc + BitVec.ofNat 32 (min k room)
      let t := s.setStream st { x with
        prod := v, acc, refused := BitVec.ofNat 32 (min (x.refused.toNat + (k - room)) 0xFFFFFFFF) }
      if k ≤ room then t
      else t.logFault {
        code := stINPUT_OVERRUN, cls := 2, part := 7, handle := (x.handle st).toNat,
        detail := leBytes 1 st ++ leBytes 3 0 ++ leBytes 4 acc.toNat }

/-- R361: the host writes ic.orel: it releases entries that have been written; any other value is discarded. -/
def State.writeOrel (s : State) (st : Nat) (v : BitVec 32) : State :=
  match s.stream st with
  | none => s
  | some x => if (v - x.orel).toNat ≤ (x.outw - x.orel).toNat then s.setStream st { x with orel := v } else s

/-- The bytes of a write that fall on a range of unit bytes. -/
def bytesOn (bs : List (Option Byte)) (at_ lo len : Nat) : List (Option Byte) :=
  (List.range len).map fun i => if at_ ≤ lo + i then (bs.getD (lo + i - at_) none) else none

/-- A counter that a write gives whole. -/
def wholeCtr (bs : List (Option Byte)) : Option (BitVec 32) :=
  if bs.all (·.isSome) then some (BitVec.ofNat 32 (leNat (bs.filterMap id))) else none

/-- R358: a write into the commons reaches the counters of the control lines it falls on; no other byte of a line is written. -/
def State.writeLines (s : State) (at_ : Nat) (bs : List (Option Byte)) (ep : Bool) : State × List (Option Byte) :=
  s.streams.foldl (fun r q => match s.streamLine q.2 with
    | none => r
    | some l =>
      let lo := l.2 * 8
      if at_ + bs.length ≤ lo || lo + 64 ≤ at_ then r
      else
        let t := match wholeCtr (bytesOn bs at_ lo 4), ep with | some v, false => r.1.writeProd q.1 v | _, _ => r.1
        let t := match wholeCtr (bytesOn bs at_ (lo + 4) 4), ep with | some v, false => t.writeOrel q.1 v | _, _ => t
        (t, r.2.zipIdx.map fun p => if lo ≤ at_ + p.2 && at_ + p.2 < lo + 64 then none else p.1)) (s, bs)

/-! ### Sleeping parts (R342, R378, R379, R382) -/

/-- R382: a sleeping core is asked to wake. -/
def State.wakeCore (s : State) (f c : Nat) : State :=
  if (s.field f).health = .lost || (s.core f c).level = .run then s else s.updCore f c fun k => { k with waking := true }

/-- A sleeping edge unit is asked to wake. -/
def State.wakeEdge (s : State) (f : Nat) : State :=
  if (s.edge f).level = .run then s else s.updEdge f fun e => { e with waking := true }

/-- A pin on a core, which is woken. -/
def State.pinCore (s : State) (f c n : Nat) : State :=
  (s.wakeCore f c).updCore f c fun k => { k with pinnedBy := if k.pinnedBy.contains n then k.pinnedBy else k.pinnedBy ++ [n] }

/-- R106, R378: the registers of the BUs of a core are lost. -/
def State.loseBus (s : State) (f c : Nat) : State :=
  let t := allBus.foldl (fun s u => s.updBu f c u fun b => b.lose (s.freeCtr + u)) s
  { t with freeCtr := s.freeCtr + 128 }

/-- A core goes to retain, where its rows are kept, or to off, where they are lost and read 0 (R378, R342). -/
def State.sleepCore (s : State) (f c : Nat) (off : Bool) : State :=
  let t := (s.loseBus f c).updCore f c fun k => {
    k with level := if off then .off else .retain, waking := false, predictor := [], aligns := [], lanesOf := [], closing := [] }
  if off then
    let t := allBus.foldl (fun s u => s.updBu f c u fun b => { b with scrub := [] }) t
    t.fillMem { lo := rowAddr f c 0 0, hi := rowAddr f c 0 0 + 0x400000, fill := .zero }
  else t

/-- An edge unit stops, and its registers are lost (R224). -/
def State.sleepEdge (s : State) (f : Nat) (lvl : Level) : State :=
  { s.updEdge f fun e => { e with level := lvl, waking := false, v := [], epoch := some s.freeCtr } with freeCtr := s.freeCtr + 1 }

end Sys2Proof.Machine
end

