-- ==== Sys2Proof/Machine/Power.lean ====
section
/-! DEFINITION. Power, heat and the guarded inputs that only slow the unit (R375 to R383, R392 to R395, R438 to R448): sleep and
wake of domains, the FCK step, and the limits that the unit imposes on itself. -/

namespace Sys2Proof.Machine

/-! ### Idle parts (R381, R224) -/

/-- A core holds rows of a resident plan: every core of a plan's field has its row window (R177). -/
def State.holdsRows (s : State) (f : Nat) : Bool := s.plans.any fun p => (p.2.inField f).isSome

/-- A group is open in some BU of a core. -/
def State.groupOpen (s : State) (f c : Nat) : Bool := allBus.any fun u => (s.bu f c u).groups.any (·.2.isOpen)

/-- R381: a core is idle but for the pins on it. -/
def State.coreQuiet (s : State) (f c : Nat) : Bool :=
  let k := s.core f c
  k.window.isEmpty && k.run.isEmpty && k.held.isEmpty && k.drains.isEmpty && k.fifo.isEmpty && !k.stopped && !s.groupOpen f c &&
    !(allBus.any fun u => !(s.bu f c u).queue.isEmpty)

/-- R381, R342: the idle hold time of a core expires. The hold that follows a window access ends first. -/
def State.coreHoldExpires (s : State) (f c : Nat) : State :=
  let k := s.core f c
  if k.level ≠ .run || !s.coreQuiet f c then s
  else if k.pinnedBy.contains 1 then s.updCore f c fun k => { k with pinnedBy := k.pinnedBy.filter (· ≠ 1) }
  else if k.pinnedBy.isEmpty then s.sleepCore f c (!s.holdsRows f)
  else s

/-- CORE_IDLE_HOLD_EXPIRY. -/
def execCoreIdleHoldExpiry (f c : Nat) (s : State) : Host.Outcome State Fault Refusal :=
  onUnit [.freeCtr, .mem, .bus, .cores] (coreExists f c) s fun s => s.coreHoldExpires f c

/-- R224: the idle hold time of an edge unit expires. -/
def State.edgeHoldExpires (s : State) (f : Nat) : State :=
  let e := s.edge f
  if e.level = .run && e.postings.isEmpty && e.pinnedBy.isEmpty then s.sleepEdge f .retain else s

/-- EDGE_IDLE_HOLD_EXPIRY. -/
def execEdgeIdleHoldExpiry (f : Nat) (s : State) : Host.Outcome State Fault Refusal :=
  onUnit [.freeCtr, .edges] (decide (f < 96)) s fun s => s.edgeHoldExpires f

/-- A switched domain of the unit (R23, R378). Fields stand at a physical row and column. -/
inductive PowerDomain where
  | core (row col c : Nat)
  | service (row col : Nat)
  | edge (row col : Nat)
  | segment (k : Nat)
  | milliner (i : Nat)
deriving DecidableEq, Repr

/-- R23: the 1,086 switched domains. -/
def powerDomains : List PowerDomain :=
  (physFields.flatMap fun q => (allCores.map fun c => PowerDomain.core q.1 q.2 c) ++ [.service q.1 q.2, .edge q.1 q.2]) ++
    (List.range 24).map .segment ++ [.milliner 0, .milliner 1]

/-- R380: the links of a link segment. -/
def segmentLinks (k : Nat) : List Nat := (List.range 64).filter fun l => linkSegment l = k
/-- R257: the bulk slots of a service segment. -/
def segmentSlots (k : Nat) : List Nat := (List.range 16).filter fun m => slotSegment m = k

/-- R402, R436: where no image runs, and after a UNIT_FATAL fault, the boot ROM serves alone and no field has power. -/
def State.fieldsOff (s : State) : Bool := s.vigil.noFirmware.isSome || s.vigil.faultHold.isSome

/-- R399, R402: steps 4 to 7 of the last start have run. -/
def State.started (s : State) : Bool := s.vigil.phase = .up && s.vigil.noFirmware.isNone

/-- R380, Table 17-5: a brim segment at run: a link segment with a link that is not disabled, and every service segment, whose slots
alone go off. In OFF and VIGIL no segment is; while the unit resets, and where no image runs, those whose module links stay ACTIVE are. -/
def State.segmentRuns (s : State) (k : Nat) : Bool :=
  if s.started then k % 3 = 0 || (segmentLinks k).any fun l => (s.brim l).st ≠ .disabled
  else match s.vigil.phase with
    | .up | .waking => (segmentSlots k).any fun m => (s.slot m).st = .active
    | _ => false

/-- R380: the bulk slots of a service segment have power: one of them holds a module that is not fenced. -/
def State.slotsRun (s : State) (k : Nat) : Bool :=
  s.segmentRuns k && (segmentSlots k).any fun m => (s.slot m).present && !(s.slot m).fenced

/-- The logical field at a place, where fields have power. -/
def State.poweredAt (s : State) (q : Nat × Nat) : Option Nat :=
  if s.vigil.phase = .up && !s.fieldsOff then s.logicalAt q else none

/-- R378, R380: the level of a switched domain. A spare field's are off; in OFF, VIGIL, a reset of the unit and without an image or after a
UNIT_FATAL fault so are all of every field. -/
def State.domainLevel (s : State) (d : PowerDomain) : Level :=
  match d with
  | .segment k => if s.segmentRuns k then .run else .off
  | .core r q c => match s.poweredAt (r, q) with | some f => (s.core f c).level | none => .off
  | .service r q => match s.poweredAt (r, q) with | some f => (s.field f).service | none => .off
  | .edge r q => match s.poweredAt (r, q) with | some f => (s.edge f).level | none => .off
  | .milliner _ => if s.started then .run else .off

/-- A domain of the unit. -/
def domainExists (d : Domain) : Bool :=
  match d with | .core f c => coreExists f c | .edge f => decide (f < 96) | .service f => decide (f < 96)

/-- R379: a domain that was waking is at run, where fields have power. -/
def State.domainWakes (s : State) (d : Domain) : State :=
  if s.fieldsOff then s
  else match d with
  | .core f c => if (s.core f c).waking then s.updCore f c fun k => { k with level := .run, waking := false } else s
  | .edge f => if (s.edge f).waking then s.updEdge f fun e => { e with level := .run, waking := false } else s
  | .service f => if (s.field f).serviceWaking then s.updField f fun x => { x with service := .run, serviceWaking := false } else s

/-- DOMAIN_WAKE_COMPLETE. -/
def execDomainWakeComplete (d : Domain) (s : State) : Host.Outcome State Fault Refusal :=
  onUnit [.cores, .fields, .edges] (domainExists d) s fun s => s.domainWakes d

/-! ### The FCK step (R293, R376, R377) -/

/-- R293, Table 12-7: the effective FCK step. -/
def State.effFck (s : State) : Nat :=
  let q := s.requests.foldl (fun n p => capAt n p.2.fck) 4
  capAt (capAt (capAt q s.limits.heatFck) s.limits.busFck) s.limits.flowFck

/-- R377: every field changes to the effective step. -/
def State.stepChange (s : State) : State :=
  if s.vigil.fckStep = s.effFck then s
  else { s with vigil := { s.vigil with fckStep := s.effFck } }.count unitBlock 0 1

/-- FCK_STEP_CHANGE. -/
def execFckStepChange (s : State) : Host.Outcome State Fault Refusal :=
  onUnit [.counters] true s fun s => s.stepChange

/-! ### Limits that the unit imposes (R394, R440) -/

/-- R394, R440: the least pool limit that the unit imposes: 2,000, or the standing reserve and the reservations. -/
def State.poolFloor (s : State) : Nat := max 2000 (standingReserve + (allFields.map fun f => (s.field f).reserved).sum)

/-- Changes the limits that the unit imposes: THERMAL_SHRINK where they changed, and what follows for the pool. -/
def State.setLimits (s : State) (l : Limits) : State :=
  if l = s.limits then s else s.poolChanged { s.raiseAll 4 with limits := l }

/-- A limit lowered by 1,000 lanterns, not below the floor. -/
def State.shrunk (s : State) (l : Option Nat) : Option Nat :=
  let cur := l.getD 20000
  some (min cur (max s.poolFloor (cur - 1000)))

/-- A limit raised by 1,000 lanterns, until it is lifted. -/
def grown (l : Option Nat) : Option Nat := l.bind fun n => if 20000 ≤ n + 1000 then none else some (n + 1000)

/-- A required pool limit, not below the floor; 20,000 is none. -/
def State.poolLimit (s : State) (n : Nat) : Option Nat := if 20000 ≤ n then none else some (max n s.poolFloor)

/-- The temperatures of the logical fields that are mapped. -/
def State.temps (s : State) : List Int := (allFields.filter fun f => (s.field f).health ≠ .lost).map fun f => (s.field f).temp

/-- Some field is at least this hot, in degrees. -/
def State.anyHot (s : State) (d : Int) : Bool := s.temps.any fun t => decide (16 * d ≤ t)
/-- Every field is at most this hot. -/
def State.allCool (s : State) (d : Int) : Bool := s.temps.all fun t => decide (t ≤ 16 * d)

/-- R394: a steward's report; the pool limit falls as soon as a field reaches 95 degrees. -/
def State.thermalReport (s : State) (f : Nat) (t : Int) : State :=
  let was := s.anyHot 95
  let s := s.updField f fun x => { x with temp := t }
  if s.anyHot 95 && !was then s.setLimits { s.limits with heatPool := s.shrunk s.limits.heatPool } else s

/-- THERMAL_REPORT. -/
def execThermalReport (f : Nat) (t : Int) (s : State) : Host.Outcome State Fault Refusal :=
  onUnit (poolParts ++ [.limits]) (decide (f < 96)) s fun s => s.thermalReport f t

/-- Table 16-8: what follows while a condition lasts. -/
def State.thermalTimer (s : State) (k : ThermalTimer) : State :=
  let l := s.limits
  match k with
  | .shrink => if s.anyHot 95 then s.setLimits { l with heatPool := s.shrunk l.heatPool } else s
  | .ceiling => if s.anyHot 100 then s.setLimits { l with heatFck := some (l.heatFck.getD 4 - 1) } else s
  | .recoverPool => if s.allCool 90 then s.setLimits { l with heatPool := grown l.heatPool } else s
  | .recoverCeiling =>
    if s.allCool 90 && l.heatPool.isNone then
      s.setLimits { l with heatFck := l.heatFck.bind fun n => if 4 ≤ n + 1 then none else some (n + 1) }
    else s

/-- THERMAL_LIMIT_TIMER. -/
def execThermalLimitTimer (k : ThermalTimer) (s : State) : Host.Outcome State Fault Refusal :=
  onUnit (poolParts ++ [.limits]) true s fun s => s.thermalTimer k

/-! ### Guarded inputs (R438, R439) -/

/-- Table 18-3 as R439 fills it. -/
def rangeDetail (reading : Int) (num : Nat) : List Byte :=
  leBytes 1 0xFF ++ leBytes 1 0 ++ leBytes 2 0xFFFF ++ leBytes 4 (reading % 4294967296).toNat ++ leBytes 4 num

/-- R439: an input leaves its range, or returns to it; nothing is recorded in between. `f` and `c` place inputs 3 and 4. -/
def State.noteRange (s : State) (num f c : Nat) (reading : Int) (ok : Bool) : State :=
  let out := s.sensors.out.contains (num, f, c)
  if ok = !out then s
  else
    let l := if ok then s.sensors.out.filter (· ≠ (num, f, c)) else s.sensors.out ++ [(num, f, c)]
    State.logFault { s with sensors := { s.sensors with out := l } } {
      code := stOUT_OF_RANGE, cls := if ok then 1 else 2, part := 8, field := f, core := c, detail := rangeDetail reading num }

/-- R442: the bus voltage under the guard, after the filter time of its row of Table 19-2. -/
def State.busVoltage (s : State) (mv : Nat) : State :=
  let s : State := { s with sensors := { s.sensors with busMv := mv } }
  let ok : Bool := 44000 ≤ mv && mv ≤ 58000
  let t := s.noteRange 1 0xFF 0xFF mv ok
  let l := t.limits
  if ok then t.setLimits { l with busPool := none, busFck := none }
  else if 42000 ≤ mv && mv < 44000 then t.setLimits { l with busPool := t.poolLimit 10000 }
  else if 40000 ≤ mv && mv < 42000 then t.setLimits { l with busPool := t.poolLimit 10000, busFck := some 0 }
  else t

/-- BUS_UNDERVOLTAGE. -/
def execBusUndervoltage (mv : Nat) (s : State) : Host.Outcome State Fault Refusal :=
  onUnit (poolParts ++ [.limits, .sensors]) true s fun s => s.busVoltage mv

/-- R444: a mean of the input power above 24 kW lowers the limit, one at or below 22 kW lifts it step by step. -/
def State.inputPower (s : State) (w : Nat) : State :=
  let s : State := { s with sensors := { s.sensors with watts := w } }
  let t := s.noteRange 2 0xFF 0xFF w (w ≤ 24000)
  let l := t.limits
  if 24000 < w then t.setLimits { l with powerPool := t.shrunk l.powerPool }
  else if w ≤ 22000 then t.setLimits { l with powerPool := grown l.powerPool }
  else t

/-- INPUT_POWER_EXCESS. -/
def execInputPowerExcess (watts : Nat) (s : State) : Host.Outcome State Fault Refusal :=
  onUnit (poolParts ++ [.limits, .sensors]) true s fun s => s.inputPower watts

/-- A limit of which none is the least restrictive: lowered at once, raised once a higher value has been required for 10 s. -/
def coolantLimit (cur req : Option Nat) (held : Bool) : Option Nat :=
  match req, cur with
  | some r, some k => if r ≤ k || held then some r else some k
  | some r, none => some r
  | none, some k => if held then none else some k
  | none, none => none

/-- R447: a filtered sample of the coolant flow, in 0.1 L/min; a silent sensor is taken as 15 L/min. -/
def State.coolantFlow (s : State) (flow : Option Nat) (slow held : Bool) : State :=
  let q := flow.getD 150
  let s : State := { s with sensors := { s.sensors with flow := q } }
  let t := s.noteRange 6 0xFF 0xFF q (flow.isSome && 300 ≤ q)
  let l := t.limits
  t.setLimits { l with
    flowPool := coolantLimit l.flowPool (if q < 300 then t.poolLimit (1000 * (q / 15)) else none) held
    flowFck := coolantLimit l.flowFck (if q < 100 && slow then some 0 else none) held }

/-- COOLANT_FLOW_SAMPLE. -/
def execCoolantFlowSample (flow : Option Nat) (slow held : Bool) (s : State) : Host.Outcome State Fault Refusal :=
  onUnit (poolParts ++ [.limits, .sensors]) true s fun s => s.coolantFlow flow slow held

/-- R447: a filtered sample of the inlet temperature, in 1/16 degree; a silent sensor is taken as 45 degrees. -/
def State.coolantInlet (s : State) (temp : Option Int) (held : Bool) : State :=
  let q := temp.getD 720
  let s : State := { s with sensors := { s.sensors with inlet := q } }
  let t := s.noteRange 5 0xFF 0xFF q (temp.isSome && decide (320 ≤ q ∧ q ≤ 640))
  let l := t.limits
  let req := if 640 < q then t.poolLimit (20000 - 2000 * cdiv (q - 640).toNat 16) else none
  t.setLimits { l with inletPool := coolantLimit l.inletPool req held }

/-- COOLANT_INLET_SAMPLE. -/
def execCoolantInletSample (t : Option Int) (held : Bool) (s : State) : Host.Outcome State Fault Refusal :=
  onUnit (poolParts ++ [.limits, .sensors]) true s fun s => s.coolantInlet t held

/-- R448, R439: LEAK_L reads high, or low again. -/
def State.leak (s : State) (high : Bool) : State :=
  State.noteRange { s with sensors := { s.sensors with leak := high } } 7 0xFF 0xFF (if high then 1 else 0) (!high)

/-- LEAK_DETECT. -/
def execLeakDetect (s : State) : Host.Outcome State Fault Refusal := onUnit [.sensors, .log, .counters] true s fun s => s.leak true
/-- LEAK_CLEAR. -/
def execLeakClear (s : State) : Host.Outcome State Fault Refusal := onUnit [.sensors, .log, .counters] true s fun s => s.leak false

/-! ### VCK (R374, R375) -/

/-- R374: the fields on the VCK tree, by depth: breadth first over the fields whose repeaters work, from the root. -/
def vckDepths (failed : List (Nat × Nat)) : Nat → Nat → List (Nat × Nat) → List ((Nat × Nat) × Nat) → List ((Nat × Nat) × Nat)
  | 0, _, _, seen => seen
  | fuel + 1, d, frontier, seen =>
    let next := ((frontier.map fun q => (List.range 4).filterMap fun p => hbNeighbour q.1 q.2 p).flatten.filter fun b =>
      !failed.contains b && !seen.any (·.1 = b)).eraseDups
    if next.isEmpty then seen else vckDepths failed fuel (d + 1) next (seen ++ next.map fun b => (b, d))

/-- R374: the root of the tree. -/
def vckRootOf (failed : List (Nat × Nat)) : Option (Nat × Nat) :=
  [(5, 5), (5, 6), (6, 5), (6, 6)].find? fun q => !failed.contains q

/-- The tree under a root. -/
def vckTree (failed : List (Nat × Nat)) : Option (Nat × Nat) → List ((Nat × Nat) × Nat)
  | none => []
  | some r => vckDepths failed 106 1 [r] [(r, 0)]

/-- The repeater that feeds one: its neighbour one level up, the lowest row and then column first. -/
def vckParent (tree : List ((Nat × Nat) × Nat)) (q : Nat × Nat) : Option (Nat × Nat) :=
  match tree.find? (·.1 = q) with
  | none => none
  | some x =>
    let ups := ((List.range 4).filterMap fun p => hbNeighbour q.1 q.2 p).filter fun b => tree.any fun y => y.1 = b && y.2 + 1 = x.2
    ups.foldl (fun (b : Option (Nat × Nat)) u => match b with
      | none => some u
      | some v => if u.1 < v.1 || (u.1 = v.1 && u.2 < v.2) then some u else b) none

/-- R375: a repeater sees no edge: its field holds over, and the repeater that feeds it has failed. At the root it is the line from
segment 0 that is silent. -/
def State.vckLoss (s : State) (q : Nat × Nat) : State :=
  let v := s.vigil
  let t : State := { s with vigil := { v with vckHoldover := if v.vckHoldover.contains q then v.vckHoldover else v.vckHoldover ++ [q] } }
  match vckParent (vckTree v.vckFailed v.vckRoot) q with
  | some p =>
    { t with vigil := { t.vigil with vckFailed := if v.vckFailed.contains p then v.vckFailed else v.vckFailed ++ [p] } }.degrade
  | none => t

/-- VCK_EDGE_LOSS. -/
def execVckEdgeLoss (r c : Nat) (s : State) : Host.Outcome State Fault Refusal :=
  onUnit [] (physExists r c) s fun s => s.vckLoss (r, c)

end Sys2Proof.Machine
end

