-- ==== Sys2Proof/Machine/Device.lean ====
section
/-! DEFINITION. Messages of the device, queue, power, bulk, counter, telemetry, fault-log and diagnostic families (R301, R305,
R321 to R326; Tables 13-3, 13-4, 13-11 to 13-13, 13-15). -/

namespace Sys2Proof.Machine

/-! ### Device, 0x00xx -/

/-- The mask of the slots that a condition holds for. -/
def State.slotMask (s : State) (p : Slot → Bool) : Nat := ((List.range 16).map fun m => if p (s.slot m) then 2 ^ m else 0).sum

/-- DEVICE_NOP echoes bytes 16 to 31. -/
def execDeviceNop (m : MsgId) (s : State) : Host.Outcome State Fault Refusal :=
  onMsg 0x0001 [] m (fun x s => s.finish x stOK ((List.range 16).map fun i => BitVec.ofNat 8 (eByte x.entry (16 + i)))) s

/-- The logical fields that a condition on their health holds for. -/
def State.healthyFields (s : State) : Nat := (allFields.filter fun f => (s.field f).health = .healthy).length

/-- The streams that are armed and not halted. -/
def State.armedStreams (s : State) : Nat := (s.streams.filter fun p => !p.2.halted).length

/-- DEVICE_INFO. -/
def execDeviceInfo (m : MsgId) (s : State) : Host.Outcome State Fault Refusal :=
  onMsg 0x0002 [] m (fun x s => s.finish x stOK (leBytes 1 s.stateCode ++ leBytes 1 s.flags ++ leBytes 1 s.healthyFields ++
    leBytes 1 s.vigil.spares.length ++ leBytes 2 (s.slotMask (·.present)) ++ leBytes 2 (s.slotMask (·.fenced)) ++
    leBytes 1 (if s.vigil.mset then 1 else 0) ++ leBytes 1 s.vigil.fckStep ++ leBytes 2 s.plans.length ++ leBytes 4 s.armedStreams)) s

/-! ### Queue administration, 0x01xx -/

/-- R279: a queue number that administration may name. -/
def adminQueue (q : Nat) : Bool := 4 ≤ q && q < 1024

/-- QUEUE_CREATE (R280, R281, R299). -/
def queueCreateMsg (m : Msg) (s : State) : State :=
  let e := m.entry
  let q := eNum e 16 2
  let sq := eByte e 18
  let cq := eByte e 19
  let mm := eNum e 20 2
  if !adminQueue q then s.finish m stOUT_OF_RANGE []
  else if s.ownerOf q ≠ m.id.src then s.finish m stNOT_OWNER []
  else if (s.queue q).st ≠ .uncreated || sq < 4 || 16 < sq || cq < 4 || 16 < cq || mm < 1 || 256 < mm ||
      eNum e 24 8 % 4096 ≠ 0 || eNum e 32 8 % 4096 ≠ 0 then s.finish m stOUT_OF_RANGE []
  else
    let t := s.setQueue q {
      st := .active, gen := (s.queue q).gen, sqBase := eNum e 24 8, cqBase := eNum e 32 8, sqLog2 := sq, cqLog2 := cq, m := mm,
      tau := eNum e 22 2 }
    t.finish m stOK (leBytes 8 (t.queueHandle q).toNat)

/-- QUEUE_CREATE. -/
def execQueueCreate (m : MsgId) (s : State) : Host.Outcome State Fault Refusal := onMsg 0x0101 [] m queueCreateMsg s

/-- QUEUE_DELETE (R280): fetch stops, and the message completes once every fetched entry has. -/
def queueDeleteMsg (m : Msg) (s : State) : State :=
  let q := hIndex (sqHandle m.entry)
  if s.ownerOf q ≠ m.id.src then s.finish m stNOT_OWNER []
  else if q < 4 then s.finish m stOUT_OF_RANGE []
  else ((s.updQueue q fun x => { x with deleting := true }).markApplied m.id).settleDeletes

/-- QUEUE_DELETE. -/
def execQueueDelete (m : MsgId) (s : State) : Host.Outcome State Fault Refusal := onMsg 0x0102 [] m queueDeleteMsg s

/-- QUEUE_ASSIGN (R279). -/
def queueAssignMsg (m : Msg) (s : State) : State :=
  let q := eNum m.entry 16 2
  let p := eByte m.entry 18
  if !adminQueue q || 3 < p then s.finish m stOUT_OF_RANGE []
  else if s.ownerOf q ≠ m.id.src then s.finish m stNOT_OWNER []
  else if (s.queue q).st ≠ .uncreated then s.finish m stOUT_OF_RANGE []
  else (s.setOwner q p).finish m stOK []

/-- QUEUE_ASSIGN. -/
def execQueueAssign (m : MsgId) (s : State) : Host.Outcome State Fault Refusal := onMsg 0x0103 [.owner] m queueAssignMsg s

/-- QUEUE_MODERATE (R299): for completions written after it. -/
def queueModerateMsg (m : Msg) (s : State) : State :=
  let q := hIndex (sqHandle m.entry)
  let mm := eNum m.entry 16 2
  if s.ownerOf q ≠ m.id.src then s.finish m stNOT_OWNER []
  else if q < 4 || mm < 1 || 256 < mm then s.finish m stOUT_OF_RANGE []
  else (s.updQueue q fun x => { x with m := mm, tau := eNum m.entry 18 2 }).finish m stOK []

/-- QUEUE_MODERATE. -/
def execQueueModerate (m : MsgId) (s : State) : Host.Outcome State Fault Refusal := onMsg 0x0104 [] m queueModerateMsg s

/-- The code of a queue pair's state. -/
def QState.code : QState → Nat
  | .uncreated => 0
  | .active => 1
  | .halted => 2

/-- QUEUE_QUERY. -/
def queueQueryMsg (m : Msg) (s : State) : State :=
  let q := eNum m.entry 16 2
  let x := s.queue q
  if 1024 ≤ q then s.finish m stOUT_OF_RANGE []
  else s.finish m stOK (leBytes 1 x.st.code ++ leBytes 1 (s.ownerOf q) ++ leBytes 2 x.h ++ leBytes 2 x.t ++ leBytes 2 x.w ++
    leBytes 2 x.r ++ leBytes 1 x.sqLog2 ++ leBytes 1 x.cqLog2 ++ leBytes 2 x.m ++ leBytes 2 x.tau)

/-- QUEUE_QUERY. -/
def execQueueQuery (m : MsgId) (s : State) : Host.Outcome State Fault Refusal := onMsg 0x0105 [] m queueQueryMsg s

/-! ### Power, 0x07xx (R293) -/

/-- The source of a message among those that hold shared limits: 0 management, 1 to 4 the ports. -/
def State.sourceOf (s : State) (m : Msg) : Nat := if m.id.src = mgmtQ then 0 else s.ownerOf m.id.src + 1
def State.request (s : State) (i : Nat) : Request := Sparse.get {} s.requests i
def State.setRequest (s : State) (i : Nat) (x : Request) : State := { s with requests := Sparse.set {} s.requests i x }

/-- POOL_SET. -/
def poolSetMsg (m : Msg) (s : State) : State :=
  let n := eNum m.entry 16 2
  if n < 2000 || 20000 < n then s.finish m stOUT_OF_RANGE []
  else
    let i := s.sourceOf m
    let t := s.poolChanged (s.setRequest i { s.request i with pool := some n })
    t.finish m (if t.effPool = n then stOK else stSUPERSEDED) (leBytes 2 t.effPool)

/-- POOL_SET. -/
def execPoolSet (m : MsgId) (s : State) : Host.Outcome State Fault Refusal :=
  onMsg 0x0701 [.cores, .edges, .streamGens, .requests, .lanterns, .log] m poolSetMsg s

/-- FCK_CEILING_SET. -/
def fckCeilingMsg (m : Msg) (s : State) : State :=
  let n := eByte m.entry 16
  if 4 < n then s.finish m stOUT_OF_RANGE []
  else
    let i := s.sourceOf m
    let t := s.setRequest i { s.request i with fck := some n }
    t.finish m (if t.effFck = n then stOK else stSUPERSEDED) (leBytes 1 t.effFck)

/-- FCK_CEILING_SET. -/
def execFckCeilingSet (m : MsgId) (s : State) : Host.Outcome State Fault Refusal := onMsg 0x0702 [.requests] m fckCeilingMsg s

/-- The lanterns that the grants of a field's cores hold. -/
def State.grantedIn (s : State) (f : Nat) : Nat :=
  (allCores.map fun c => ((s.core f c).window.map fun w => if w.lantern = .granted then Desc.lantern w.desc else 0).sum).sum

/-- The lanterns that grants hold. -/
def State.granted (s : State) : Nat := (allFields.map s.grantedIn).sum

/-- The highest junction temperature of the mapped fields, in degrees. -/
def State.hottest (s : State) : Int := s.temps.foldl max (-2048) / 16

/-- POWER_QUERY. -/
def execPowerQuery (m : MsgId) (s : State) : Host.Outcome State Fault Refusal :=
  onMsg 0x0703 [] m (fun x s => s.finish x stOK (leBytes 2 s.effPool ++ leBytes 2 (min s.granted 65535) ++ leBytes 1 s.vigil.fckStep ++
    leBytes 1 (s.hottest % 256).toNat ++ leBytes 2 (min s.sensors.watts 65535) ++ leBytes 2 (20000 - s.limits.heatPool.getD 20000))) s

/-! ### Bulk, 0x09xx -/

/-- R272: an engine of the slot holds a word. -/
def Slot.busy (x : Slot) : Bool := x.engines.any fun e => !e.2.queue.isEmpty

/-- BULK_QUERY. -/
def execBulkQuery (m : MsgId) (s : State) : Host.Outcome State Fault Refusal :=
  onMsg 0x0901 [] m (fun x s => s.finish x stOK (leBytes 2 (s.slotMask (·.present)) ++ leBytes 2 (s.slotMask (·.fenced)) ++
    leBytes 2 (s.slotMask fun y => decide (y.st = .active)) ++ leBytes 2 (s.slotMask Slot.busy))) s

/-- The engines of a module are reset: registers, pointers, queues and status. -/
def Slot.resetEngines (x : Slot) : Slot := { x with engines := [], holder := none }

/-- BULK_ENGINE_RESET. -/
def bulkEngineResetMsg (m : Msg) (s : State) : State :=
  let i := eByte m.entry 16
  if 16 ≤ i || !s.slotUp i then s.finish m stOUT_OF_RANGE []
  else if (s.slot i).holder.isSome then s.finish m stIN_USE []
  else (s.updSlot i Slot.resetEngines).finish m stOK []

/-- BULK_ENGINE_RESET. -/
def execBulkEngineReset (m : MsgId) (s : State) : Host.Outcome State Fault Refusal := onMsg 0x0902 [.slots] m bulkEngineResetMsg s

/-! ### Counters and telemetry, 0x0Axx -/

/-- A block of Table 18-6. -/
def blockExists (b : Nat) : Bool := b % 2 ^ 24 < blockIndices (b / 2 ^ 24)

/-- R425: a counter's slot. -/
def Counter.word (x : Counter) (err : Bool) : Nat :=
  x.val % 2 ^ (if err then 16 else 48) + (if x.ovf then 2 ^ 62 else 0) + (if err then 2 ^ 63 else 0)

/-- R425: a block as COUNTER_READ writes it. -/
def State.blockBytes (s : State) (b : Nat) : List Byte :=
  let ev := eventCounters (b / 2 ^ 24)
  let n := ev + errorCounters (b / 2 ^ 24)
  leBytes 4 b ++ leBytes 2 n ++ leBytes 2 0 ++ leBytes 8 s.now ++
    ((List.range n).map fun i => leBytes 8 ((s.counter b i).word (decide (ev ≤ i)))).flatten

/-- The block that a counter message names. -/
def counterBlock (m : Msg) : Nat := if sqOp m.entry = 0x0A01 then eNum m.entry 32 4 else eNum m.entry 16 4

/-- R321: an earlier counter message of the same stamp time and block is still to be applied. -/
def State.counterWaits (s : State) (m : Msg) : Bool :=
  s.msgs.any fun o => (sqOp o.entry = 0x0A01 || sqOp o.entry = 0x0A02) && !o.applied && o.time = m.time && stampBefore o.stamp m.stamp &&
    (counterBlock o = counterBlock m || counterBlock o = 0xFFFFFFFF || counterBlock m = 0xFFFFFFFF)

/-- COUNTER_READ. -/
def counterReadMsg (m : Msg) (s : State) : State :=
  let b := counterBlock m
  if s.counterWaits m then s
  else if !blockExists b then s.finish m stOUT_OF_RANGE []
  else let bs := s.blockBytes b; s.answerBuffer m bs (leBytes 4 bs.length)

/-- COUNTER_READ. -/
def execCounterRead (m : MsgId) (s : State) : Host.Outcome State Fault Refusal := onMsg 0x0A01 [] m counterReadMsg s

/-- R423: zeroes the counters of a block, or all; when a _CORRECTED counter last wrote its record stays known. -/
def State.clearCounters (s : State) (b : Nat) : State :=
  { s with counters := s.counters.foldl (fun m p =>
      Sparse.set {} m p.1 (if b = 0xFFFFFFFF || p.1 / 64 = b then { last := p.2.last } else p.2)) [] }

/-- COUNTER_CLEAR. -/
def counterClearMsg (m : Msg) (s : State) : State :=
  let b := counterBlock m
  if s.counterWaits m then s
  else if b ≠ 0xFFFFFFFF && !blockExists b then s.finish m stOUT_OF_RANGE []
  else (s.clearCounters b).finish m stOK []

/-- COUNTER_CLEAR. -/
def execCounterClear (m : MsgId) (s : State) : Host.Outcome State Fault Refusal := onMsg 0x0A02 [] m counterClearMsg s

/-- The low bits of an integer. -/
def intNum (n : Nat) (v : Int) : Nat := (v % (2 ^ n : Nat)).toNat

/-- R322: the record of a field. Its power is a reading that the model has no source for (log entry 3). -/
def State.fieldRecord (s : State) (f : Nat) : State × List Byte :=
  let x := s.field f
  if x.health = .lost then (s, leBytes 8 (2 ^ 64 - 1))
  else
    let r := s.fresh
    let mask (l : Level) : Nat := (allCores.map fun c => if (s.core f c).level = l then 2 ^ c else 0).sum
    (r.1, leBytes 2 (intNum 16 x.temp) ++ leBytes 2 (fld r.2 0 16) ++ leBytes 1 (mask .run) ++ leBytes 1 (mask .retain) ++
      leBytes 2 (min (s.grantedIn f) 65535))

/-- R322: the unit record. -/
def State.unitRecord (s : State) : List Byte :=
  leBytes 4 s.sensors.busMv ++ leBytes 4 s.sensors.watts ++ leBytes 2 (intNum 16 s.sensors.inlet) ++ leBytes 2 s.sensors.flow ++
    leBytes 20 0

/-- TELEMETRY_READ. -/
def telemetryMsg (m : Msg) (s : State) : State :=
  if !resultRoom m 800 then s.finish m stOUT_OF_RANGE []
  else
    let r := allFields.foldl (fun (p : State × List Byte) f => let r := p.1.fieldRecord f; (r.1, p.2 ++ r.2)) (s, [])
    r.1.answerBuffer m (r.2 ++ s.unitRecord) []

/-- TELEMETRY_READ. -/
def execTelemetryRead (m : MsgId) (s : State) : Host.Outcome State Fault Refusal := onMsg 0x0A03 [.freeCtr] m telemetryMsg s

/-! ### Fault log, 0x0Bxx (R323) -/

/-- The sequence number of the oldest record held. -/
def FaultLog.oldest (l : FaultLog) : Nat := (l.next - l.recs.length) % 2 ^ 32

/-- R323: how many records before the one to start at: a number before the oldest starts at the oldest. -/
def FaultLog.skip (l : FaultLog) (first : Nat) : Nat :=
  let d := (first + 2 ^ 32 - l.oldest) % 2 ^ 32
  if 2 ^ 31 ≤ d then 0 else min d l.recs.length

/-- FAULT_READ. -/
def faultReadMsg (m : Msg) (s : State) : State :=
  let len := (descAt m.entry 16).len
  if len = 0 || len % 64 ≠ 0 then s.finish m stOUT_OF_RANGE []
  else
    let l := s.log
    let k := l.skip (eNum m.entry 32 4)
    let rs := (l.recs.drop k).take (len / 64)
    if !resultRoom m (64 * rs.length) then s.finish m stOUT_OF_RANGE []
    else
      let t : State := { s with log := { l with
        recs := l.recs.zipIdx.map fun p => (p.1.1, p.1.2 || (decide (k ≤ p.2) && decide (p.2 < k + rs.length))) } }
      t.answerBuffer m ((rs.map fun r => leBytes 64 r.1.toNat).flatten)
        (leBytes 4 rs.length ++ leBytes 4 ((l.oldest + k + rs.length) % 2 ^ 32) ++ leBytes 4 l.oldest ++
          leBytes 2 (s.counter unitBlock 6).val)

/-- FAULT_READ. -/
def execFaultRead (m : MsgId) (s : State) : Host.Outcome State Fault Refusal := onMsg 0x0B01 [.log] m faultReadMsg s

/-- FAULT_INFO. -/
def execFaultInfo (m : MsgId) (s : State) : Host.Outcome State Fault Refusal :=
  onMsg 0x0B02 [] m (fun x s => s.finish x stOK (leBytes 4 s.log.oldest ++ leBytes 4 (s.log.next % 2 ^ 32) ++
    leBytes 2 (s.counter unitBlock 6).val)) s

/-! ### Diagnostics, 0x0Dxx (R325, R326) -/

/-- R325: the map of the logical fields, then the spares. -/
def State.mapBytes (s : State) : List Byte :=
  let cell (q : Nat × Nat) : List Byte := leBytes 1 q.1 ++ leBytes 1 q.2
  let sp := s.vigil.spares.take 16
  (allFields.map fun f => cell (if (s.field f).health = .lost then (0xFF, 0xFF) else s.physOf f)).flatten ++
    (sp.map cell).flatten ++ List.replicate (2 * (16 - sp.length)) 0xFF

/-- FIELD_MAP. -/
def execFieldMap (m : MsgId) (s : State) : Host.Outcome State Fault Refusal :=
  onMsg 0x0D01 [] m (fun x s => s.answerBuffer x s.mapBytes []) s

/-- A field belongs to a job that has started and not completed, or to a stream that is armed or has its reservation (R326, R318). -/
def State.fieldBusy (s : State) (f : Nat) : Bool :=
  (s.jobs.any fun j => j.tick.isNone && j.st ≠ .waiting && (s.planField j.plan f).isSome) ||
  s.streams.any fun p => p.2.claims && (s.streamFields p.2).contains f

/-- DIAG_RUN (R326): it starts, and its completion is written when the test ends; tests of several fields may run at once. -/
def diagRunMsg (m : Msg) (s : State) : State :=
  let e := m.entry
  let spare := eByte e 16
  let a := eByte e 17
  if 1 < spare || 15 < eByte e 19 then s.finish m (if 15 < eByte e 19 then stMALFORMED else stOUT_OF_RANGE) []
  else if spare = 1 then
    if !s.vigil.spares.contains (a, eByte e 18) then s.finish m stOUT_OF_RANGE []
    else { s.markApplied m.id with vigil := { s.vigil with diag := s.vigil.diag ++ [{ msg := some m.id, field := none }] } }
  else if 96 ≤ a || (s.field a).health = .lost then s.finish m stOUT_OF_RANGE []
  else if s.plans.any fun p => (p.2.inField a).isSome then s.finish m stIN_USE []
  else
    let t := allCores.foldl (fun s c => s.wakeCore a c) ((s.updField a fun x => { x with diag := true }).wakeEdge a)
    { t.markApplied m.id with vigil := { t.vigil with diag := t.vigil.diag ++ [{ msg := some m.id, field := some a }] } }

/-- DIAG_RUN. -/
def execDiagRun (m : MsgId) (s : State) : Host.Outcome State Fault Refusal := onMsg 0x0D02 [.cores, .edges] m diagRunMsg s

/-- The oldest test ends: bank contents of the tested field are unspecified (R326). After a reset of the port of its queue no completion
is written (R414). -/
def State.diagEnds (s : State) (fail : Option Nat) (bus : Nat) : State :=
  match s.vigil.diag with
  | [] => s
  | r :: rs =>
    let t : State := { s with vigil := { s.vigil with diag := rs } }
    let t := match r.field with
      | some a => (t.updField a fun x => { x with diag := rs.any (·.field = some a) }).unspecify (rowAddr a 0 0 0)
          (rowAddr a 0 0 0 + 0x2000000) 0 4096
      | none => t
    match r.msg.bind t.msg with
    | some m => t.finish m stOK (leBytes 1 (if fail.isNone then 1 else 0) ++ leBytes 1 (fail.getD 0) ++ leBytes 2 bus)
    | none => t

/-- DIAG_RUN_COMPLETE. -/
def execDiagRunComplete (firstFail : Option Nat) (bus : Nat) (s : State) : Host.Outcome State Fault Refusal :=
  onUnit (finishParts ++ [.freeCtr, .mem]) (match firstFail with | some i => decide (i < 4) | none => true) s fun s =>
    s.diagEnds firstFail bus

/-- R326: an injection into a stored word; its check bits stay. -/
def Stored.inject (x : Stored) (kind b0 b1 : Nat) : Stored :=
  match kind with
  | 0 => { x with data := x.data ^^^ (1#64 <<< b0) }
  | 1 => { x with data := x.data ^^^ (1#64 <<< b0) ^^^ (1#64 <<< b1) }
  | _ => { x with poison := true }

/-- The operands of DIAG_INJECT are in range. -/
def injectOk (e : Entry) : Bool :=
  let kind := eByte e 23
  let b0 := eByte e 24
  let b1 := eByte e 25
  eByte e 16 < 96 && eByte e 17 < 8 && eByte e 18 < 128 && eByte e 19 < 2 && eNum e 20 2 < 2048 && eByte e 22 < 8 && kind < 3 &&
    b0 < 64 && b1 < 64 && (kind ≠ 0 || b1 = 0) && (kind ≠ 1 || b0 ≠ b1) && (kind ≠ 2 || (b0 = 0 && b1 = 0))

/-- DIAG_INJECT. -/
def diagInjectMsg (m : Msg) (s : State) : State :=
  let e := m.entry
  let f := eByte e 16
  if !injectOk e || (s.field f).health = .lost then s.finish m stOUT_OF_RANGE []
  else if s.fieldBusy f then s.finish m stIN_USE []
  else
    let a := rowAddr f (eByte e 17) (eByte e 18) (eByte e 19 * 2048 + eNum e 20 2) + eByte e 22
    let t := s.wakeCore f (eByte e 17)
    State.finish { t with mem := t.mem.set a ((t.mem.get a).inject (eByte e 23) (eByte e 24) (eByte e 25)) } m stOK []

/-- DIAG_INJECT. -/
def execDiagInject (m : MsgId) (s : State) : Host.Outcome State Fault Refusal := onMsg 0x0D03 [.mem, .cores] m diagInjectMsg s

end Sys2Proof.Machine
end

