-- ==== Sys2Proof/Machine/Engines.lean ====
section
/-! DEFINITION. The near-memory engines (R269 to R273): command words, queues, the vector buffer and the operations. -/

namespace Sys2Proof.Machine

/-! ### Words (Tables 11-4, 11-5) -/

def ecOp (w : Word) : Nat := fld w 56 8
def ecD (w : Word) : Nat := fld w 51 5
def ecA (w : Word) : Nat := fld w 46 5
def ecYs (w : Word) : Bool := bit w 45
def ecXs (w : Word) : Bool := bit w 44
/-- The container in bytes. -/
def ecC (w : Word) : Nat := if fld w 42 2 = 0 then 2 else 1
def ecImm (w : Word) : Nat := fld w 0 28
/-- Registers that a STORE writes. -/
def ecCount (w : Word) : Nat := ecImm w % 16 + 1

/-- R272: the word keeps Tables 11-4 and 11-5. -/
def engWordOk (w : Word) : Bool :=
  fld w 28 14 = 0 && fld w 42 2 ≤ 1 &&
  (match ecOp w with
   | 0x01 | 0x02 | 0x04 | 0x08 | 0x09 | 0x0A => true
   | 0x03 => 1 ≤ ecImm w && ecImm w ≤ 65536
   | 0x05 => 1 ≤ ecImm w && ecImm w ≤ 47
   | 0x06 => ecD w + ecCount w ≤ 32
   | _ => false)

/-! ### Engines of a slot -/

def Slot.engine (x : Slot) (e : Nat) : Engine := Sparse.get {} x.engines e
def Slot.setEngine (x : Slot) (e : Nat) (v : Engine) : Slot := { x with engines := Sparse.set {} x.engines e v }
def State.engine (s : State) (m e : Nat) : Engine := (s.slot m).engine e
def State.updEngine (s : State) (m e : Nat) (g : Engine → Engine) : State :=
  s.updSlot m fun x => x.setEngine e (g (x.engine e))
def Engine.reg (g : Engine) (i : Nat) : EngReg := Sparse.get {} g.regs i
def Engine.setReg (g : Engine) (i : Nat) (v : EngReg) : Engine := { g with regs := Sparse.set {} g.regs i v }

/-- The engines that a target names: one, or all eight. -/
def engTargets (e : Option Nat) : List Nat := match e with | some i => [i] | none => List.range 8

/-- R272: every target has a free queue entry. -/
def State.engRoom (s : State) (m : Nat) (e : Option Nat) : Bool :=
  (engTargets e).all fun i => (s.engine m i).queue.length < 64

/-- Queues a word at its targets, in the same position of each. -/
def State.engSend (s : State) (m : Nat) (e : Option Nat) (w : Word) (who : Option (Nat × Nat × Nat)) : State :=
  ((engTargets e).foldl (fun s i => s.updEngine m i fun g => { g with queue := g.queue ++ [(w, who)] })
    (s.bulkRequest m [{ chan := e.getD 0 }])).count (slotBlock m) 3 1

/-- R272, R273: discards a word: counted, ERR set, and a CONTAINED record with a code and the word. -/
def State.engDiscard (s : State) (m : Nat) (e : Option Nat) (w : Word) (port code : Nat) : State :=
  (((engTargets e).foldl (fun s i => s.updEngine m i fun g => { g with err := true }) s).count (slotBlock m) 6 1).logFault {
    code, cls := 2, part := 3, detail := leBytes 1 port ++ leBytes 1 0 ++ leBytes 2 0xFFFF ++ leBytes 8 w.toNat }

/-! ### Channel-local lines (R262) -/

/-- The word address of word `i` of a channel-local line. -/
def chanWord (m e line i : Nat) : Nat :=
  let b := line % 2 ^ 28 * 64 + 8 * i
  bulkAddr m + (b / 256 * 2048 + e * 256 + b % 256) / 8

/-- Reads lines of a channel as words with poison. -/
def State.chanLines (s : State) (m e line n : Nat) : State × List (Word × Bool) :=
  (List.range n).foldl (fun (a : State × List (Word × Bool)) i =>
    let r := a.1.readLine (chanWord m e (line + i) 0) { acc := 0 }
    (r.1, a.2 ++ r.2)) (s, [])

/-- Container `i` of words, as a value. -/
def lineElt (ws : List (Word × Bool)) (c : Nat) (signed : Bool) (i : Nat) : Int :=
  let per := 8 / c
  let v := fld (ws.getD (i / per) (0, false)).1 (8 * c * (i % per)) (8 * c)
  if signed then sext (8 * c) v else v

/-- A line of the vector buffer as words. -/
def bufWords (x : BitVec 512 × BitVec 8) : List (Word × Bool) := wordsOfRow { bits := x.1, poison := x.2 }

/-- R270: the y lines of a DOT: from the buffer where it holds them, loaded into it where they fit, else streamed. -/
def State.engY (s : State) (m e n : Nat) (fits : Bool) : State × List (Word × Bool) :=
  let g := s.engine m e
  let py := g.py.toNat
  if fits then
    if g.bufLine ≤ py && py + n ≤ g.bufLine + g.bufLen then
      (s, ((List.range n).map fun i => bufWords (Sparse.get (0, 0) g.buf (py + i))).flatten)
    else
      let r := s.chanLines m e py n
      let lines := (chunksOf 8 r.2.length r.2).map rowOfWords
      (r.1.updEngine m e fun g => { g with
        bufLine := py, bufLen := n,
        buf := lines.zipIdx.foldl (fun b p => Sparse.set (0, 0) b (py + p.2) (p.1.bits, p.1.poison)) [] }, r.2)
  else s.chanLines m e py n

/-! ### Operations (Table 11-5) -/

/-- Clamps to 48 bits: the value, and whether it changed. -/
def sat48 (v : Int) : Int × Bool :=
  let r := clampInt (-(pow2 47)) (pow2 47 - 1) v
  (r, decide (r ≠ v))

/-- A register with a new value. -/
def EngReg.put (x : EngReg) (v : Int) (poison : Bool) : EngReg :=
  let r := sat48 v
  { val := BitVec.ofInt 48 r.1, sat := x.sat || r.2, poison }

/-- ZERO. -/
def engOpZero (m e : Nat) (w : Word) (s : State) : State := s.updEngine m e fun g => g.setReg (ecD w) {}

/-- SETI. -/
def engOpSeti (m e : Nat) (w : Word) (s : State) : State :=
  s.updEngine m e fun g => g.setReg (ecD w) ((g.reg (ecD w)).put (sext 28 (ecImm w)) false)

/-- DOT (R270). -/
def engOpDot (m e : Nat) (w : Word) (s : State) : State :=
  let n := ecImm w
  let c := ecC w
  let lines := cdiv (n * c) 64
  let x := s.chanLines m e (s.engine m e).px.toNat lines
  let y := x.1.engY m e lines (n * c ≤ 8192)
  let sum := ((List.range n).map fun i => lineElt x.2 c (ecXs w) i * lineElt y.2 c (ecYs w) i).sum
  let used := cdiv (n * c) 8
  let bad := (x.2.take used).any (·.2) || (y.2.take used).any (·.2)
  y.1.updEngine m e fun g =>
    let d := g.reg (ecD w)
    { g.setReg (ecD w) (d.put (d.val.toInt + sum) (d.poison || bad)) with
      px := g.px + BitVec.ofNat 28 lines, err := g.err || bad }

/-- ADD. -/
def engOpAdd (m e : Nat) (w : Word) (s : State) : State :=
  s.updEngine m e fun g =>
    let d := g.reg (ecD w)
    let a := g.reg (ecA w)
    g.setReg (ecD w) (d.put (d.val.toInt + a.val.toInt) (d.poison || a.poison))

/-- SHR. -/
def engOpShr (m e : Nat) (w : Word) (s : State) : State :=
  s.updEngine m e fun g =>
    let d := g.reg (ecD w)
    g.setReg (ecD w) (d.put (roundShift d.val.toInt (ecImm w) 0 0) d.poison)

/-- The clamped INT32 of a register, as its bits. -/
def EngReg.int32 (x : EngReg) : BitVec 32 := BitVec.ofInt 32 (clampInt (-2147483648) 2147483647 x.val.toInt)

/-- STORE. -/
def engOpStore (m e : Nat) (w : Word) (s : State) : State :=
  let g := s.engine m e
  let n := ecCount w
  let t := (List.range (cdiv n 2)).foldl (fun s i =>
    let lo := g.reg (ecD w + 2 * i)
    let hi := g.reg (ecD w + 2 * i + 1)
    let a := chanWord m e g.pz.toNat i
    if 2 * i + 1 < n then
      s.writeWord a (lo.int32.setWidth 64 ||| (hi.int32.setWidth 64 <<< 32)) (lo.poison || hi.poison)
    else s.mergeWord a ((leBytes 4 lo.int32.toNat).map some ++ List.replicate 4 none) lo.poison) s
  t.updEngine m e fun g => { g with pz := g.pz + 1 }

/-- PTRX. -/
def engOpPtrx (m e : Nat) (w : Word) (s : State) : State := s.updEngine m e fun g => { g with px := BitVec.ofNat 28 (ecImm w) }
/-- PTRY. -/
def engOpPtry (m e : Nat) (w : Word) (s : State) : State := s.updEngine m e fun g => { g with py := BitVec.ofNat 28 (ecImm w) }
/-- PTRZ. -/
def engOpPtrz (m e : Nat) (w : Word) (s : State) : State := s.updEngine m e fun g => { g with pz := BitVec.ofNat 28 (ecImm w) }

/-- R269: an engine executes the word at the front of its queue, strictly in order, and counts it done. Nothing happens where this
word is not the front, or the slot is empty. -/
def engStep (op : Nat → Nat → Word → State → State) (m e : Nat) (w : Word) (s : State) : State :=
  match (s.engine m e).queue with
  | [] => s
  | q :: rest =>
    if q.1 = w && (s.slot m).present then
      (op m e w (s.updEngine m e fun g => { g with queue := rest })).updEngine m e fun g => { g with done := g.done + 1 }
    else s

/-- An engine of the unit's slots, and a word that the row executes. -/
def engOk (m e : Nat) (w : Word) (op : Nat) : Bool := m < 16 && e < 8 && ecOp w = op && engWordOk w

/-- ZERO. -/
def execEngZero (m e : Nat) (w : Word) (s : State) : Host.Outcome State Fault Refusal :=
  onPart [.slots] (engOk m e w 0x01) s (engStep engOpZero m e w)
/-- SETI. -/
def execEngSeti (m e : Nat) (w : Word) (s : State) : Host.Outcome State Fault Refusal :=
  onPart [.slots] (engOk m e w 0x02) s (engStep engOpSeti m e w)
/-- DOT. -/
def execEngDot (m e : Nat) (w : Word) (s : State) : Host.Outcome State Fault Refusal :=
  onPart [.out, .mem, .bus, .ports, .log, .counters, .slots] (engOk m e w 0x03) s (engStep engOpDot m e w)
/-- ENGINE_ADD. -/
def execEngAdd (m e : Nat) (w : Word) (s : State) : Host.Outcome State Fault Refusal :=
  onPart [.slots] (engOk m e w 0x04) s (engStep engOpAdd m e w)
/-- SHR. -/
def execEngShr (m e : Nat) (w : Word) (s : State) : Host.Outcome State Fault Refusal :=
  onPart [.slots] (engOk m e w 0x05) s (engStep engOpShr m e w)
/-- STORE. -/
def execEngStore (m e : Nat) (w : Word) (s : State) : Host.Outcome State Fault Refusal :=
  onPart [.out, .mem, .bus, .ports, .log, .counters, .slots] (engOk m e w 0x06) s (engStep engOpStore m e w)
/-- PTRX. -/
def execEngPtrx (m e : Nat) (w : Word) (s : State) : Host.Outcome State Fault Refusal :=
  onPart [.slots] (engOk m e w 0x08) s (engStep engOpPtrx m e w)
/-- PTRY. -/
def execEngPtry (m e : Nat) (w : Word) (s : State) : Host.Outcome State Fault Refusal :=
  onPart [.slots] (engOk m e w 0x09) s (engStep engOpPtry m e w)
/-- PTRZ. -/
def execEngPtrz (m e : Nat) (w : Word) (s : State) : Host.Outcome State Fault Refusal :=
  onPart [.slots] (engOk m e w 0x0A) s (engStep engOpPtrz m e w)

end Sys2Proof.Machine
end

