-- ==== Sys2Proof/Machine/Moves.lean ====
section
/-! DEFINITION. REDUCE and MOVE passes (R126 to R129, R164, R252 to R255, R265 to R268, R273): participants and pairing, operands,
node results, the endpoints of a move, and the messages that a pass sends to other units. -/

namespace Sys2Proof.Machine

/-! ### Messages to other units (R249, R251) -/

/-- The unit's fabric ordinal (R320). -/
def State.ordinal (s : State) : Nat := match s.fabActive with | some x => x.ordinal | none => 0

/-- R251: the route table entry of an ordinal. -/
def State.routeEntry (s : State) (n : Nat) : BitVec 128 :=
  match s.fabActive with | some x => Sparse.get 0 x.routes n | none => 0

/-- Fields of a fabric address (Table 10-9). -/
def faOrdinal (a : Word) : Nat := fld a 49 15
def faField (a : Word) : Nat := fld a 42 7
def faRegion (a : Word) : Nat := fld a 40 2
def faOff (a : Word) : Nat := fld a 0 28

/-- A fabric address from its fields. -/
def mkFa (ordinal field region off : Nat) : Word :=
  BitVec.ofNat 64 (ordinal * 2 ^ 49 + field * 2 ^ 42 + region * 2 ^ 40 + off)

/-- R249, R251: a message leaves for an ordinal. One for this unit is delivered to it; one without a valid route comes back as a
negative acknowledgement LINK_LOST. Answers its number. -/
def State.postMsg (s : State) (dst : Nat) (m : FabMsg) : State × Nat :=
  let no := s.mesh.msgNo
  let m := { m with no, src := s.ordinal }
  let e := s.routeEntry dst
  let m : FabMsg :=
    if dst = s.ordinal then { m with here := true }
    else if bit e 116 then { m with route := e.setWidth 112, hops := fld e 112 4 }
    else { m with kind := 3, pass := stLINK_LOST, words := [], here := true }
  ({ s with mesh := { s.mesh with msgs := s.mesh.msgs ++ [m], msgNo := no + 1 } }, no)

/-- The next message number of a job (R249). -/
def State.nextMsgId (s : State) (h : Word) : State × Nat :=
  (s.updJob h fun j => { j with msgNo := (j.msgNo + 1) % 65536 }, match s.job h with | some j => j.msgNo | none => 0)

/-! ### REDUCE: participants and pairing (R126, R164) -/

/-- The bits of a number set among the first `n`. -/
def maskList (n m : Nat) : List Nat := (List.range n).filter fun i => nbit m i

/-- The participants of a REDUCE's level, in rank order. -/
def reduceParts (d : Desc) : List Nat :=
  match Desc.rdLevel d with
  | 0 => maskList 8 (Desc.rdCores d)
  | 1 => maskList 96 (Desc.rdFields d)
  | _ => (List.range (Desc.rdUnits d)).map fun i => Desc.rdFirst d + i

/-- The participant fields by which the REDUCE passes of a tree are matched. -/
def reduceKey (d : Desc) : Nat :=
  match Desc.rdLevel d with
  | 0 => Desc.rdCores d
  | 1 => Desc.rdFields d
  | _ => Desc.rdFirst d + 65536 * Desc.rdUnits d

/-- Which participant of its level a core is. -/
def State.reduceSelf (s : State) (f c : Nat) (d : Desc) : Nat :=
  match Desc.rdLevel d with | 0 => c | 1 => f | _ => s.ordinal

/-- R164: the ordinal of a REDUCE pass, which PLAN_LOAD counts. -/
def State.reduceOrdinal (s : State) (f : Nat) (wp : WinPass) : Nat :=
  match s.job wp.job, s.plan wp.plan with
  | some j, some p => ((p.reduces.find? fun r => r.1 = j.seg && r.2.1 = f && r.2.2.1 = wp.idx).map (·.2.2.2)).getD 0
  | _, _ => 0

/-- What a participant of rank `r` among `n` does from round `k` on. -/
inductive ReduceStep where
  /-- It is the root. -/
  | root
  /-- It sends its operand to this rank, in this round. -/
  | send (dest round : Nat)
  /-- It is rank 0 of the node of this round, with this rank. -/
  | wait (partner round : Nat)
deriving DecidableEq, Repr

/-- R126: the next node of a participant; an unpaired last rank passes upward. -/
def reduceNext (r n : Nat) : Nat → Nat → ReduceStep
  | 0, _ => .root
  | fuel + 1, k =>
    if n ≤ 2 ^ k then .root
    else if r / 2 ^ k % 2 = 1 then .send (r - 2 ^ k) k
    else if r + 2 ^ k < n then .wait (r + 2 ^ k) k
    else reduceNext r n fuel (k + 1)

/-- What a REDUCE pass of a core does next. -/
def State.reduceStep (s : State) (f c : Nat) (wp : WinPass) : ReduceStep :=
  let ps := reduceParts wp.desc
  reduceNext ((ps.findIdx? (· = s.reduceSelf f c wp.desc)).getD 0) ps.length 17 wp.round

/-! ### Operands (R127, R254) -/

/-- The accumulator words of a group: word-rows, then lanes. -/
def groupWords (g : Group) : List Nat :=
  ((List.range (groupRows g.count g.pair)).map fun i => (List.range 16).map fun l => (g.base + i) * 16 + l).flatten

/-- R81, R127: a participant's raw slot words, by BU. -/
def State.captureOperand (s : State) (f c grp : Nat) : State × List (Nat × List AccWord) :=
  let g0 := (s.bu f c 0).group grp
  let t := s.checkGroup f c grp 0 g0.count
  (t, allBus.map fun u => let b := t.bu f c u; (u, (groupWords (b.group grp)).map b.accWord))

/-- Half of a word or the whole, as signed numbers with flags. -/
def AccWord.slots (x : AccWord) (pair : Bool) : List SlotVal :=
  if pair then [x.slot true 0, x.slot true 1] else [x.slot false 0]

/-- R127: a node of sums on one word. -/
def nodeAdd (pair : Bool) (a b : AccWord) : AccWord :=
  (((a.slots pair).zip (b.slots pair)).zipIdx).foldl (fun (x : AccWord) (p : (SlotVal × SlotVal) × Nat) =>
    let v := p.1.1.add pair p.1.2.val p.1.2.poison
    x.put pair p.2 { v with sat := v.sat || p.1.2.sat }) a

/-- R123: the better of two (value, index) pairs is the second; SAT is never set. -/
def nodeBetter (csel : Nat) (a b : SlotVal × SlotVal) (pair : Bool) : Bool :=
  (if csel = 2 then b.1.val < a.1.val else a.1.val < b.1.val) ||
    (a.1.val = b.1.val && slotIndex pair b.2.val < slotIndex pair a.2.val)

/-- A pair kept by a node of a maximum or minimum, with the poison of both. DEDUCED: such a node sets no SAT, so the pair keeps the SAT
it came with, and the other's SAT goes with it (log entry 31). -/
def nodePick (csel : Nat) (pair : Bool) (a b : SlotVal × SlotVal) : SlotVal × SlotVal :=
  let w := if nodeBetter csel a b pair then b else a
  ({ w.1 with poison := a.1.poison || b.1.poison }, { w.2 with poison := a.2.poison || b.2.poison })

/-- R123, R127: a node on the words of a group in one BU. A pair of INT32 stands in two word-rows, one of INT16-pair in one word. -/
def nodeWords (g : Group) (a b : List AccWord) : List AccWord :=
  if g.csel = 0 then (a.zip b).map fun p => nodeAdd g.pair p.1 p.2
  else if g.pair then (a.zip b).map fun p =>
    let w := nodePick g.csel true (p.1.slot true 0, p.1.slot true 1) (p.2.slot true 0, p.2.slot true 1)
    (p.1.put true 0 w.1).put true 1 w.2
  else (List.range a.length).map fun i =>
    -- word i: row i ÷ 16; the value row is even, its index row odd
    let v := i / 32 * 32 + i % 16
    let at_ (l : List AccWord) (k : Nat) : SlotVal := (l.getD k {}).slot false 0
    let w := nodePick g.csel false (at_ a v, at_ a (v + 16)) (at_ b v, at_ b (v + 16))
    (a.getD i {}).put false 0 (if i / 16 % 2 = 0 then w.1 else w.2)

/-- Writes words back into a group of a BU. -/
def Bu.putGroup (b : Bu) (g : Group) (ws : List AccWord) : Bu :=
  ((groupWords g).zip ws).foldl (fun b p => b.setAccWord p.1 p.2) b

/-- R254: the operand as message data: slot words in order, then one SAT bit per slot, zero bytes to a multiple of 64. A 64-bit
word is poisoned where a slot in it is. -/
def operandData (pair : Bool) (ws : List (Nat × List AccWord)) : List (Word × Bool) :=
  let all := (ws.map (·.2)).flatten
  let data := (chunksOf 2 all.length all).map fun l =>
    ((l.zipIdx.foldl (fun (w : Word) (p : AccWord × Nat) => w ||| (p.1.data.setWidth 64 <<< (32 * p.2))) 0), l.any fun x => x.poison ≠ 0)
  let sats := (all.map fun x => if pair then [bit x.sat 0, bit x.sat 1] else [bit x.sat 0]).flatten
  padWords 8 (data ++ packWords 1 (sats.map fun b => (if b then 1 else 0, false)))

/-- The words of an operand from message data, for a group. -/
def operandWords (g : Group) (ws : List (Word × Bool)) : List (Nat × List AccWord) :=
  let n := (groupWords g).length
  let total := 128 * n
  let satAt := cdiv total 2
  let per := if g.pair then 2 else 1
  allBus.map fun u => (u, (List.range n).map fun i =>
    let k := u * n + i
    let w := ws.getD (k / 2) (0, false)
    let d : BitVec 32 := w.1.extractLsb' (32 * (k % 2)) 32
    let sb (h : Nat) : Bool := bit (ws.getD (satAt + (k * per + h) / 64) (0, false)).1 ((k * per + h) % 64)
    { data := d, good := d, sat := putBit (putBit 0 0 (sb 0)) 1 (g.pair && sb 1), poison := if w.2 then 3 else 0 })

/-! ### REDUCE_PASS, REDUCE_NODE_COMBINE -/

/-- R252: at most 64 KiB to a message. -/
def msgChunks (ws : List (Word × Bool)) : List (List (Word × Bool)) := chunksOf 8192 ws.length ws

/-- R228: the bytes of one BU's words of an operand in a packet: the slots and their SAT bits. -/
def operandBytes (n : Nat) : Nat := 4 * n + cdiv (2 * n) 8

/-- The same operand, whatever words of it are there. -/
def Operand.same (a b : Operand) : Bool := { a with words := [] } = { b with words := [] }

/-- R228: an operand in packets of at most 4,192 bytes. -/
def State.sendOperandPackets (s : State) (o : Operand) (p : Packet) : State :=
  let n := 4192 / max 1 (operandBytes ((o.words.headD (0, [])).2.length))
  (chunksOf (max 1 n) o.words.length o.words).foldl (fun s ws => s.sendPacket { p with operand := some { o with words := ws } }) s

/-- R127, R254: sends a participant's operand to the node of a round: over Hatband at levels 0 and 1, in messages at level 2. -/
def State.sendOperand (s : State) (f c : Nat) (wp : WinPass) (rank round : Nat) : State :=
  let d := wp.desc
  let r := s.captureOperand f c (Desc.grp d)
  let k := s.reduceOrdinal f wp
  let dst := (reduceParts d).getD rank 0
  if Desc.rdLevel d ≤ 1 then
    let df := if Desc.rdLevel d = 0 then f else dst
    let o : Operand := {
      job := wp.job, field := df, core := (if Desc.rdLevel d = 0 then dst else 0xFF), level := Desc.rdLevel d, ordinal := k,
      parts := reduceKey d, round, words := r.2 }
    r.1.sendOperandPackets o { no := 0, cls := .d, src := f, dst := df, who := some (f, c, wp.serial), job := wp.job, idx := wp.idx }
  else
    let data := operandData ((s.bu f c 0).group (Desc.grp d)).pair r.2
    (msgChunks data).zipIdx.foldl (fun s p =>
      let id := s.nextMsgId wp.job
      let t := id.1.postMsg dst {
        no := 0, kind := 2, tag := Config.jobTag wp.job, addr := mkFa dst f 0 p.2, id := id.2, pass := k, rank := 1, round := round,
        words := p.1 }
      t.1.updPass f c wp.serial fun w => { w with msgs := w.msgs ++ [t.2] }) r.1

/-- The REDUCE of a core goes on from the round it has reached: it sends and closes its group, waits at a node, or is the root,
which drains at the last level (R164). -/
def State.reduceGo (s : State) (f c serial : Nat) : State :=
  match (s.core f c).pass serial with
  | none => s
  | some wp =>
    match s.reduceStep f c wp with
    | .wait _ k => s.updPass f c serial fun w => { w with round := k }
    | .send r k =>
      let t := (s.sendOperand f c wp r k).closeGroup (s.passCtx f c wp) (Desc.grp wp.desc) serial
      t.updPass f c serial fun w => { w with done := true }
    | .root =>
      let d := wp.desc
      let ts := if Desc.dest d = 0 then [] else (List.range (Desc.n d)).map Todo.drain ++ [.close]
      match s.planField wp.plan f with
      | none => s
      | some pf =>
        let mo := s.maskBits pf wp (Desc.mo d && Desc.dest d ≠ 0) (Desc.maskO d) (128 * Desc.o d)
        (mo.1.updPass f c serial fun w => { w with done := true, todo := ts, mask := mo.2 }).runPass f c serial

/-- R185: a REDUCE starts in its turn; its operands travel once it is the head and its dependencies are met. -/
def State.startReduce (s : State) (f c : Nat) (wp : WinPass) : State :=
  let t := s.beginPass f c wp
  match (t.core f c).pass wp.serial with
  | none => t
  | some w => if t.mayWork f c w then t.reduceGo f c wp.serial else t

/-- REDUCE_PASS. -/
def execReducePass (f c p : Nat) (s : State) : Host.Outcome State Fault Refusal :=
  onPart [.out, .mem, .bus, .cores, .ports, .winReqs, .jobs, .log, .counters, .mesh] (placeExists f c p) s fun s =>
    match (s.core f c).window[p]? with
    | some wp => if Desc.kind wp.desc = 6 then s.startReduce f c wp else s
    | none => s

/-- An operand that reached a node whole: with the words of all 128 BUs. At level 2, `parts` holds the sender's ordinal. -/
def State.operandFor (s : State) (f c : Nat) (wp : WinPass) (partner round : Nat) : Option Operand :=
  let d := wp.desc
  let k := s.reduceOrdinal f wp
  s.mesh.operands.find? fun o =>
    o.job = wp.job && o.level = Desc.rdLevel d && o.ordinal = k && o.round = round && o.words.length = 128 &&
    (match Desc.rdLevel d with
     | 0 => o.field = f && o.core = c && o.parts = reduceKey d
     | 1 => o.field = f && o.parts = reduceKey d
     | _ => o.parts = (reduceParts d).getD partner 0)

/-- R127, R129: a node that holds both operands combines them into the slots of its rank 0. -/
def State.combine (s : State) (f c : Nat) (wp : WinPass) : State :=
  match s.reduceStep f c wp with
  | .wait partner k =>
    match s.operandFor f c wp partner k with
    | none => s
    | some o =>
      let grp := Desc.grp wp.desc
      let t := s.checkGroup f c grp 0 ((s.bu f c 0).group grp).count
      let t := o.words.foldl (fun s p => s.updBu f c p.1 fun b =>
        let g := b.group grp
        b.putGroup g (nodeWords g ((groupWords g).map b.accWord) p.2)) t
      let t : State := { t with mesh := { t.mesh with operands := t.mesh.operands.filter (· ≠ o) } }
      (t.updPass f c wp.serial fun w => { w with round := k + 1 }).reduceGo f c wp.serial
  | _ => s

/-- REDUCE_NODE_COMBINE. -/
def execReduceNodeCombine (f c p : Nat) (s : State) : Host.Outcome State Fault Refusal :=
  onPart [.out, .mem, .bus, .cores, .ports, .winReqs, .jobs, .log, .counters, .mesh] (placeExists f c p) s fun s =>
    match (s.core f c).window[p]? with
    | some wp => if Desc.kind wp.desc = 6 && wp.started && !wp.done && wp.fault.isNone then s.combine f c wp else s
    | none => s

/-! ### Timeouts (R129, R253, R255) -/

/-- R255: the head's wait expires: a TIMEOUT record, and LINK_LOST where a link of the path is down. -/
def State.waitExpires (s : State) (f c : Nat) (wp : WinPass) (part path link peer level : Nat) (down : Bool) : State :=
  let e : PassFault := { code := stTIMEOUT, part, detail := waitDetail path link peer level }
  if down then (s.faultRec f c wp e).failHead f c wp.serial { e with code := stLINK_LOST } else s.failHead f c wp.serial e

/-- The link by which messages to an ordinal leave, and whether it is down. -/
def State.firstLink (s : State) (ordinal : Nat) : Nat × Bool :=
  let l := fld (s.routeEntry ordinal) 0 6
  (l, decide ((s.brim l).st ≠ .active))

/-- R431: the timeouts of a job that a field's remap pauses do not run. -/
def State.isPaused (s : State) (h : Word) : Bool := match s.job h with | some j => j.paused | none => false

/-- R129, R253: the wait of a REDUCE at a node expires, where the partner's operand has not arrived. -/
def State.reduceTimeout (s : State) (f c : Nat) (wp : WinPass) : State :=
  if Desc.kind wp.desc = 6 && wp.started && !wp.done && wp.fault.isNone && !s.isPaused wp.job then
    match s.reduceStep f c wp with
    | .wait partner k =>
      let peer := (reduceParts wp.desc).getD partner 0
      if (s.operandFor f c wp partner k).isSome then s else
      match Desc.rdLevel wp.desc with
      | 0 => s.waitExpires f c wp 4 0 0xFF 0xFFFF 0 false
      | 1 => s.waitExpires f c wp 4 0 0xFF 0xFFFF 1 (s.pathDown peer f)
      | _ => let l := s.firstLink peer; s.waitExpires f c wp 5 1 l.1 peer 2 l.2
    | _ => s
  else s

/-- REDUCE_TIMEOUT. -/
def execReduceTimeout (f c p : Nat) (s : State) : Host.Outcome State Fault Refusal :=
  onPart (endParts ++ [.out, .ports, .winReqs]) (placeExists f c p) s fun s => match (s.core f c).window[p]? with
    | some wp => s.reduceTimeout f c wp
    | none => s

/-- R255: a wait of a pass that has left its window, or that is no REDUCE, expires: the records, and the end of the job. -/
def State.passWaitExpires (s : State) (h : Word) (f c idx part path link peer : Nat) (down : Bool) : State :=
  match s.job h with
  | none => s
  | some j =>
    if j.isEnded then s
    else
      let rec_ (code : Nat) (s : State) : State := s.logFault {
        code, cls := 3, part, field := f, core := c, handle := j.named, pass := idx, detail := waitDetail path link peer 0xFF }
      let code := if down then stLINK_LOST else stTIMEOUT
      let t := rec_ stTIMEOUT s
      ((if down then rec_ stLINK_LOST t else t).updJob h fun j => { j with failCode := code }).endJob h code (some (f, c, idx))

/-- The REDUCE in the window of a core with this pass index, of a level that a condition admits. -/
def State.waitingReduce (s : State) (f c idx : Nat) (lvl : Nat → Bool) : Option WinPass :=
  (s.core f c).window.find? fun w => w.idx = idx && Desc.kind w.desc = 6 && lvl (Desc.rdLevel w.desc)

/-- A pass index is one of a core. -/
def passExists (f c idx : Nat) : Bool := coreExists f c && idx < 65536

/-- UNIT_TIMEOUT: the wait of pass `idx` of a core for Hatband (R253). -/
def State.unitTimeout (s : State) (f c idx : Nat) : State :=
  match s.waitingReduce f c idx (· ≤ 1) with
  | some wp => s.reduceTimeout f c wp
  | none =>
    match s.mesh.packets.find? fun p => p.idx = idx && (match p.who with | some w => w.1 = f && w.2.1 = c | none => false) with
    | none => s
    | some p =>
      if s.isPaused p.job then s
      else
        -- what is late is discarded (R129, R255)
        let t : State := { s with mesh := { s.mesh with packets := s.mesh.packets.filter fun q => q.job ≠ p.job || q.who ≠ p.who } }
        t.passWaitExpires p.job f c idx 4 0 0xFF 0xFFFF (s.pathDown p.src p.dst)

/-- UNIT_TIMEOUT. -/
def execUnitTimeout (f c p : Nat) (s : State) : Host.Outcome State Fault Refusal :=
  onPart (endParts ++ [.out, .ports, .winReqs]) (passExists f c p) s fun s => s.unitTimeout f c p

/-- FABRIC_TIMEOUT: the wait of pass `idx` of a core for another unit (R253). -/
def State.fabricTimeout (s : State) (f c idx : Nat) : State :=
  match s.waitingReduce f c idx (2 ≤ ·) with
  | some wp => s.reduceTimeout f c wp
  | none =>
    match s.mesh.awaited.find? fun a => a.field = f && a.core = c && a.idx = idx with
    | none => s
    | some a =>
      let l := s.firstLink (faOrdinal a.msg.addr)
      if s.isPaused a.job then s else s.passWaitExpires a.job f c idx 5 1 l.1 (faOrdinal a.msg.addr) l.2

/-- FABRIC_TIMEOUT. -/
def execFabricTimeout (f c p : Nat) (s : State) : Host.Outcome State Fault Refusal :=
  onPart (endParts ++ [.out, .ports, .winReqs]) (passExists f c p) s fun s => s.fabricTimeout f c p

/-! ### Endpoints of a move (R250, R263, R266) -/

/-- The word address of 64-byte unit `i` of an endpoint in this unit, for a plan. -/
def State.endpoint (s : State) (plan : Nat) (fa : Word) (i : Nat) : Option Nat :=
  if faRegion fa = 2 then
    some (bulkAddr (fld fa 45 4) + (fld fa 42 3 * 2 ^ 28 + faOff fa) * 8 + 8 * i)
  else match s.planField plan (faField fa) with
    | none => none
    | some pf =>
      let off := faOff fa
      if faRegion fa = 0 then
        let q := off / 2 ^ 25 % 8 * 128 + off / 2 ^ 18 % 128 + i
        some (rowAddr (faField fa) (q % 1024 / 128) (q % 128) (pf.rowBase + off / 64 % 4096 + q / 1024))
      else some (commonsAddr (faField fa) + (pf.comBase + off) / 8 + 8 * i)

/-- Reads 64-byte units of an endpoint. -/
def State.readUnits (s : State) (plan : Nat) (fa : Word) (first n : Nat) (who : Who) : State × List (Word × Bool) :=
  (List.range n).foldl (fun (a : State × List (Word × Bool)) i =>
    match a.1.endpoint plan fa (first + i) with
    | none => a
    | some w => let r := if faRegion fa = 2 then a.1.readLine w who else a.1.readWords w who 8; (r.1, a.2 ++ r.2)) (s, [])

/-- What a move's reads are recorded under. -/
def moveWho (wp : WinPass) : Who := { acc := 0, handle := wp.named, pass := wp.idx }

/-- 64-byte units that a move transfers. -/
def moveUnits (d : Desc) : Nat := Desc.mvLen d / 64
/-- The source and destination of a move. -/
def moveSrc (d : Desc) : Word := BitVec.ofNat 64 (Desc.mvSrc d)
def moveDst (d : Desc) : Word := BitVec.ofNat 64 (Desc.mvDst d)

/-- The pass at a window place, where it is a MOVE of a kind. -/
def State.moveAt (s : State) (f c p kind : Nat) : Option WinPass :=
  ((s.core f c).window[p]?).bind fun wp => if Desc.kind wp.desc = 9 && Desc.mvKind wp.desc = kind then some wp else none

/-- R185: a MOVE starts in its turn, once its dependencies are met; it issues no bank instruction. -/
def State.beginMove (s : State) (f c : Nat) (wp : WinPass) : State :=
  if s.mayStart f c wp then s.updPass f c wp.serial fun w => { w with started := true, issued := true } else s

/-- The transfer of a MOVE that has started, which goes on while the pass is the head and holds no fault (log entry 47). -/
def State.moveRun (s : State) (f c : Nat) (wp : WinPass) (go : State → WinPass → State) : State :=
  let t := s.beginMove f c wp
  match (t.core f c).pass wp.serial with
  | some w => if w.started && w.fault.isNone && (t.core f c).isHead w.serial then go t w else t
  | none => t

/-- The same, once. -/
def State.moveOnce (s : State) (f c : Nat) (wp : WinPass) (go : State → WinPass → State) : State :=
  s.moveRun f c wp fun t w => if w.done then t else go t w

/-! ### FIELD and FABRIC -/

/-- MOVE_FIELD: the source is read, and its writes travel over Hatband. -/
def State.moveField (s : State) (f c : Nat) (wp : WinPass) : State :=
  let d := wp.desc
  let dst := moveDst d
  let r := s.readUnits wp.plan (moveSrc d) 0 (moveUnits d) (moveWho wp)
  let ws := ((chunksOf 8 r.2.length r.2).zipIdx.map fun p => match r.1.endpoint wp.plan dst p.2 with
    | none => []
    | some a => p.1.zipIdx.map fun q => (a + q.2, q.1.1, q.1.2)).flatten
  (r.1.sendWrites (faField (moveSrc d)) (faField dst) ws (f, c, wp.serial) wp.job wp.idx true).updPass f c wp.serial fun w =>
    { w with done := true }

/-- MOVE_FIELD. -/
def execMoveField (f c p : Nat) (s : State) : Host.Outcome State Fault Refusal :=
  onPart [.out, .mem, .bus, .cores, .ports, .log, .counters, .mesh] (placeExists f c p) s fun s => match s.moveAt f c p 1 with
    | some wp => s.moveOnce f c wp fun t w => t.moveField f c w
    | none => s

/-- R252, R266: the address of the message that starts at unit 1,024 × k of a move: the same core and BU one linear row on in banks,
64 KiB on in commons. -/
def moveMsgAddr (dst : Word) (k : Nat) : Word :=
  let off := faOff dst
  let row := off / 64 % 4096
  mkFa (faOrdinal dst) (faField dst) (faRegion dst)
    (if faRegion dst = 0 then off - 64 * row + 64 * ((row + k) % 4096) else (off + 65536 * k) % 2 ^ 28)

/-- MOVE_FABRIC: messages of at most 64 KiB in ascending address order, each awaiting its acknowledgement. -/
def State.moveFabric (s : State) (f c : Nat) (wp : WinPass) : State :=
  let d := wp.desc
  let dst := moveDst d
  let r := s.readUnits wp.plan (moveSrc d) 0 (moveUnits d) (moveWho wp)
  let t := (msgChunks r.2).zipIdx.foldl (fun s p =>
    let id := s.nextMsgId wp.job
    let m : FabMsg := {
      no := 0, kind := 1, tag := Config.jobTag wp.job, addr := moveMsgAddr dst p.2, id := id.2, words := p.1 }
    let t := id.1.postMsg (faOrdinal dst) m
    let t1 := t.1.updPass f c wp.serial fun w => { w with msgs := w.msgs ++ [t.2] }
    { t1 with mesh := { t1.mesh with awaited := t1.mesh.awaited ++
      [{ no := t.2, field := f, core := c, serial := wp.serial, id := id.2, job := wp.job, idx := wp.idx, msg := m }] } }) r.1
  t.updPass f c wp.serial fun w => { w with done := true }

/-- MOVE_FABRIC. -/
def execMoveFabric (f c p : Nat) (s : State) : Host.Outcome State Fault Refusal :=
  onPart [.out, .mem, .bus, .cores, .ports, .jobs, .log, .counters, .mesh] (placeExists f c p) s fun s =>
    match s.moveAt f c p 2 with
    | some wp => s.moveOnce f c wp fun t w => t.moveFabric f c w
    | none => s

/-! ### Bulk (R265 to R268, R273) -/

/-- The slot of a move's bulk endpoint. -/
def moveSlot (d : Desc) : Nat := fld (if faRegion (moveSrc d) = 2 then moveSrc d else moveDst d) 45 4

/-- R257: no way leads between the module's segment and the field of the move's other endpoint. -/
def State.moveCut (s : State) (d : Desc) : Bool :=
  if faRegion (moveSrc d) = 2 then s.brimCut (slotSegment (moveSlot d)) (faField (moveDst d))
  else s.brimCutFrom (faField (moveSrc d)) (slotSegment (moveSlot d))

/-- R274: a pass of the head asks an empty or fenced slot. -/
def State.slotGone (s : State) (f c serial m : Nat) : State :=
  s.failHead f c serial { code := stLINK_LOST, part := 3, detail := waitDetail 2 m 0xFFFF 0xFF }

/-- A copy out of a module, once its command frame can go: the rows or commons are written as the frames come back. -/
def State.copyOut (s : State) (f c : Nat) (wp : WinPass) : State :=
  let d := wp.desc
  let m := moveSlot d
  if !(s.slot m).waiting.isEmpty || !(s.slot m).frameRoom then s
  else
    let r := (s.bulkRequest m [{ chan := fld (moveSrc d) 2 3 }]).readUnits wp.plan (moveSrc d) 0 (moveUnits d) (moveWho wp)
    let t := (chunksOf 8 r.2.length r.2).zipIdx.foldl (fun s p => match s.endpoint wp.plan (moveDst d) p.2 with
      | none => s
      | some a => s.writeWords a p.1) r.1
    (t.count (slotBlock m) 0 (Desc.mvLen d)).updPass f c wp.serial fun w => { w with done := true }

/-- A copy into a module: its words go in data frames, and it is done once the buffer chip has acknowledged them (R267). -/
def State.copyIn (s : State) (f c : Nat) (wp : WinPass) : State :=
  let d := wp.desc
  let m := moveSlot d
  match s.endpoint wp.plan (moveDst d) 0 with
  | none => s
  | some a =>
    let r := s.readUnits wp.plan (moveSrc d) 0 (moveUnits d) (moveWho wp)
    let t := (r.1.bulkRequest m (writeItems { chan := 0, who := some (f, c, wp.serial), job := wp.job, idx := wp.idx } (a - bulkAddr m)
      r.2)).writeWords a r.2
    (t.count (slotBlock m) 1 (Desc.mvLen d)).updPass f c wp.serial fun w => { w with done := true }

/-- BULK_COPY copies while its module's link is ACTIVE and a way leads to its field; a slot that is gone ends its job. -/
def State.bulkCopy (s : State) (f c : Nat) (wp : WinPass) : State :=
  let d := wp.desc
  let m := moveSlot d
  if !s.slotUp m then s.slotGone f c wp.serial m
  else if (s.slot m).st ≠ .active || s.moveCut d then s
  else if faRegion (moveSrc d) = 2 then s.copyOut f c wp
  else s.copyIn f c wp

/-- BULK_COPY. -/
def execBulkCopy (f c p : Nat) (s : State) : Host.Outcome State Fault Refusal :=
  onPart (endParts ++ [.out, .ports, .winReqs]) (placeExists f c p) s fun s =>
    match s.moveAt f c p 3 with
    | some wp => s.moveOnce f c wp fun t w => t.bulkCopy f c w
    | none => s

/-- R268: the head's BULK_COPY has waited 1 ms for its module; what it did not write is unspecified. -/
def State.bulkCopyTimeout (s : State) (f c : Nat) (wp : WinPass) : State :=
  let d := wp.desc
  let m := moveSlot d
  if (s.core f c).isHead wp.serial && wp.started && (!wp.done || s.bulkBusy f c wp.serial) && wp.fault.isNone && !s.isPaused wp.job then
    let dst := moveDst d
    let t := (List.range (moveUnits d)).foldl (fun s i => match s.endpoint wp.plan dst i with
      | some a => s.unspecify a (a + 8) 0 4096
      | none => s) s
    t.waitExpires f c wp 3 2 m 0xFFFF 0xFF ((s.slot m).st ≠ .active)
  else s

/-- BULK_COPY_TIMEOUT. -/
def execBulkCopyTimeout (f c p : Nat) (s : State) : Host.Outcome State Fault Refusal :=
  onPart (endParts ++ [.out, .ports, .winReqs]) (placeExists f c p) s fun s => match s.moveAt f c p 3 with
    | some wp => s.bulkCopyTimeout f c wp
    | none => s

/-- R273: the engine that a BULK_ENGINE names; none is broadcast. -/
def moveEngine (d : Desc) : Option Nat :=
  let off := (fld (moveDst d) 42 3 * 2 ^ 28 + faOff (moveDst d)) * 64
  if off < 512 then some (off / 64) else none

/-- R273: sends words to the engines while their queues have room; the rest wait, and none is discarded for want of space. A word that
breaks Table 11-4 or 11-5 is discarded as R272 states (log entry 100). -/
def State.sendEngineWords (s : State) (f c serial m : Nat) (e : Option Nat) : List Word → State
  | [] => s.updPass f c serial fun w => { w with words := [] }
  | w :: ws =>
    if !engWordOk w then State.sendEngineWords (s.engDiscard m e w 0xFF stMALFORMED) f c serial m e ws
    else if s.engRoom m e then State.sendEngineWords (s.engSend m e w (some (f, c, serial))) f c serial m e ws
    else s.updPass f c serial fun x => { x with words := w :: ws }

/-- BULK_ENGINE: the pass takes the module's engines, reads its words and sends them; a slot that is gone ends its job. -/
def State.bulkEngine (s : State) (f c : Nat) (wp : WinPass) : State :=
  let d := wp.desc
  let m := fld (moveDst d) 45 4
  if !s.slotUp m then s.slotGone f c wp.serial m
  else if (s.slot m).st ≠ .active || s.brimCutFrom (faField (moveSrc d)) (slotSegment m) || (match (s.slot m).holder with | some q => q ≠ (f, c, wp.serial) | none => false) then s
  else if wp.done then s.sendEngineWords f c wp.serial m (moveEngine d) wp.words
  else
    let r := s.readUnits wp.plan (moveSrc d) 0 (moveUnits d) (moveWho wp)
    let t := (r.1.updSlot m fun x => { x with holder := some (f, c, wp.serial) }).updPass f c wp.serial fun w => { w with done := true }
    if r.2.any (·.2) then t.failHead f c wp.serial { code := stUNCORRECTABLE }
    else t.sendEngineWords f c wp.serial m (moveEngine d) (r.2.map (·.1))

/-- BULK_ENGINE. -/
def execBulkEngine (f c p : Nat) (s : State) : Host.Outcome State Fault Refusal :=
  onPart (endParts ++ [.out, .ports, .winReqs]) (placeExists f c p) s fun s => match s.moveAt f c p 4 with
    | some wp => s.moveRun f c wp fun t w => if w.done && w.words.isEmpty then t else t.bulkEngine f c w
    | none => s

end Sys2Proof.Machine
end

