-- ==== Sys2Proof/Machine/HostPort.lean ====
section
/-! DEFINITION. The host ports (R318, R319, R327 to R348): window messages, BAR0 registers and the admin queue, the bank window,
command addresses, engine addresses, bulk accesses, MSI-X and D3hot. -/

namespace Sys2Proof.Machine

/-! ### Window messages, 0x06xx -/

/-- R346: the cores of a field wake, and are pinned at run until data mode is set. The host's GOPENs count from here (R119). -/
def State.toCommandMode (s : State) (f q : Nat) : State :=
  let t := allCores.foldl (fun s c => (allBus.foldl (fun s u => s.updBu f c u fun b =>
    { b with invalidSeen := false, opens := if b.opensOf.isNone then [] else b.opens }) s).pinCore f c 0) s
  t.updField f fun x => { x with cmdMode := some q, cmdEnding := false }

/-- WINDOW_MODE. Data mode is set once every FIFO of the field is empty (R346). -/
def windowModeMsg (m : Msg) (s : State) : State :=
  let f := eByte m.entry 16
  let mode := eByte m.entry 17
  let x := s.field f
  if 96 ≤ f || 1 < mode || x.health = .lost then s.finish m stOUT_OF_RANGE []
  else if (match x.cmdMode with | some q => decide (q ≠ m.id.src) | none => false) then s.finish m stNOT_OWNER []
  else if mode = 1 then
    if s.fieldBusy f then s.finish m stIN_USE [] else (s.toCommandMode f m.id.src).finish m stOK []
  else if x.cmdMode.isNone then s.finish m stOK []
  else if allCores.all fun c => (s.core f c).fifo.isEmpty then (s.toDataMode f).finish m stOK []
  else s

/-- WINDOW_MODE. -/
def execWindowMode (m : MsgId) (s : State) : Host.Outcome State Fault Refusal := onMsg 0x0601 [.bus, .cores] m windowModeMsg s

/-- WINDOW_BASE (R319). -/
def windowBaseMsg (m : Msg) (s : State) : State :=
  let base := eNum m.entry 16 8
  if base % 2 ^ 34 ≠ 0 || 0x02FC00000000 < base then s.finish m stOUT_OF_RANGE []
  else (s.updPort (s.ownerOf m.id.src) fun x => { x with bar2 := BitVec.ofNat 64 base }).finish m stOK []

/-- WINDOW_BASE. -/
def execWindowBase (m : MsgId) (s : State) : Host.Outcome State Fault Refusal := onMsg 0x0602 [] m windowBaseMsg s

/-- WINDOW_QUERY. -/
def execWindowQuery (m : MsgId) (s : State) : Host.Outcome State Fault Refusal :=
  onMsg 0x0603 [] m (fun x s => s.finish x stOK (leBytes 8 (s.port (s.ownerOf x.id.src)).bar2.toNat ++
    leBytes 12 (allFields.map fun f => if (s.field f).cmdMode.isSome then 2 ^ f else 0).sum ++ leBytes 12 0)) s

/-! ### MSI-X (R348) -/

/-- R348: a vector that a port may send: an event's, or that of a pair that it owns. -/
def State.ownsVector (s : State) (p v : Nat) : Bool := 1024 ≤ v || s.ownerOf v = p

/-- R348: sends every pending vector that is not masked any more. -/
def State.flushMsix (s : State) (p : Nat) : State :=
  let x := s.port p
  if !x.msixEnable || x.funcMask then s
  else
    let due := x.msixPending.filter fun v => !bit (x.msix v) 96
    (due.filter (s.ownsVector p)).foldl (fun s v => s.emit p (.msix p v))
      (s.setPort p { x with msixPending := x.msixPending.filter fun v => bit (x.msix v) 96 })

/-- Writes part of an MSI-X table entry; the mask bit that this clears sends what is pending. -/
def State.writeMsix (s : State) (p v lo len : Nat) (val : Word) : State :=
  let x := s.port p
  let mask : BitVec 128 := BitVec.ofNat 128 ((2 ^ len - 1) * 2 ^ lo)
  let e := (x.msix v &&& ~~~mask) ||| ((val.setWidth 128 <<< lo) &&& mask)
  State.flushMsix (s.setPort p { x with msixTable := Sparse.set (1#128 <<< 96) x.msixTable v e }) p

/-- The change of a mask, or of MSI-X Enable. -/
def State.unmask (s : State) (p : Nat) (x : MsixChange) : State :=
  match x with
  | .vector v => s.writeMsix p v 96 32 0
  | .function => (s.updPort p fun y => { y with funcMask := false }).flushMsix p
  | .enable => (s.updPort p fun y => { y with msixEnable := true }).flushMsix p

/-- The Vigil domain has power and the ports answer: a cold start has reached step 3 of Table 17-1 (R400). -/
def State.powered (s : State) : Bool := s.vigil.phase ≠ .off && !(s.port 0).crs

/-- R400: BAR0 writes have effect: not while a reset is held before step 3 of its start. -/
def State.barLive (s : State) : Bool :=
  match s.vigil.phase with
  | .off => false
  | .waking => !(s.vigil.holdReset || s.vigil.holdPower)
  | _ => true

/-- R400: a vector's mask is in BAR0, whose writes may be without effect; the other changes are configuration writes. -/
def State.mayUnmask (s : State) (x : MsixChange) : Bool := match x with | .vector _ => s.barLive | _ => s.powered

/-- The vector is one of a port's table. -/
def msixExists (x : MsixChange) : Bool := match x with | .vector v => decide (v < 1088) | _ => true

/-- MSIX_UNMASK. -/
def execMsixUnmask (port : Nat) (x : MsixChange) (s : State) : Host.Outcome State Fault Refusal :=
  onUnit [] (port < 4 && msixExists x) s fun s => if s.mayUnmask x then s.unmask port x else s

/-! ### Power state of a port (R332) -/

/-- D3HOT_ENTRY. -/
def execD3hotEntry (port : Nat) (s : State) : Host.Outcome State Fault Refusal :=
  onUnit [] (decide (port < 4)) s fun s => if s.powered then s.updPort port fun x => { x with d3 := true } else s

/-- D0_RETURN: the writes that waited are sent. -/
def execD0Return (port : Nat) (s : State) : Host.Outcome State Fault Refusal :=
  onUnit [] (decide (port < 4)) s fun s =>
    if (s.port port).d3 then
      { s.updPort port fun x => { x with d3 := false, held := [] } with out := s.out ++ (s.port port).held }
    else s

/-! ### BAR0 (R333 to R337) -/

/-- A BAR0 write that is discarded and counted. -/
def State.barDiscard (s : State) (p : Nat) : State := s.count (portBlock p) 3 1

/-- Table 14-6. -/
def State.portId (s : State) (p : Nat) : Word :=
  BitVec.ofNat 64 (p + (s.port p).width * 2 ^ 8 + (s.port p).speed * 2 ^ 16 +
    ((List.range 1024).filter fun q => s.ownerOf q = p).length * 2 ^ 32)

/-- Table 14-7. -/
def State.adminSizes (s : State) (p : Nat) : Word :=
  let x := s.port p
  BitVec.ofNat 64 (x.sqLog2 + x.cqLog2 * 2 ^ 8 + (if x.enable then 2 ^ 16 else 0) + (if (s.queue p).st = .active then 2 ^ 17 else 0) +
    (if (s.queue p).st = .halted then 2 ^ 18 else 0) + (if x.err then 2 ^ 19 else 0))

/-- R10, R11, R334: the value of the 64-bit register at quadword `i` of BAR0; 0 from every reserved field and offset. -/
def State.barReg (s : State) (p i : Nat) : Word :=
  let x := s.port p
  match i with
  | 0 => s.idrev
  | 1 => s.unitState
  | 2 => s.vigil.vigilTime
  | 3 => s.portId p
  | 4 => x.eventCause
  | 5 => x.eventMask
  | 6 => x.sqBase
  | 7 => x.cqBase
  | 8 => s.adminSizes p
  | 9 => s.heldWord
  | 10 => s.replaceDetail
  | 11 => x.bar2
  | _ => 0

/-- R10, R333, R335: what an aligned read of 1, 2, 4 or 8 bytes of BAR0 returns: registers, the latched half of VIGIL_TIME after a read of
its low half, the MSI-X table and its pending bits; 0 elsewhere. While a reset is held before step 3 of its start, only UNIT_STATE and
VIGIL_TIME read so, and all else as 0 (R400). -/
def State.barRead (s : State) (p off size : Nat) : List Byte :=
  let x := s.port p
  let word (w : Word) : List Byte := (leBytes 8 w.toNat).drop (off % 8) |>.take size
  if s.vigil.phase = .waking && !s.barLive && off / 8 ≠ 1 && off / 8 ≠ 2 then List.replicate size 0
  else if off = 0x14 && size = 4 then leBytes 4 x.timeLatch.toNat
  else if off < 0x60 then word (s.barReg p (off / 8))
  else if 0x200000 ≤ off && off < 0x204400 then
    word ((x.msix ((off - 0x200000) / 16)).extractLsb' (off / 8 % 2 * 64) 64)
  else if 0x300000 ≤ off && off < 0x300088 then
    word (BitVec.ofNat 64 (((List.range 64).filter fun i => x.msixPending.contains ((off - 0x300000) / 8 * 64 + i)).map (2 ^ ·)).sum)
  else List.replicate size 0

/-- VIGIL_TIME_LOW_READ (R335). -/
def execVigilTimeLowRead (port tag : Nat) (s : State) : Host.Outcome State Fault Refusal :=
  onUnit [] (decide (port < 4)) s fun s =>
    if s.powered then
      (s.updPort port fun x => { x with timeLatch := s.vigil.vigilTime.extractLsb' 32 32 }).emit port
        (.cpl port tag (s.barRead port 0x10 4) false)
    else s

/-- R337: bits of EVENT_CAUSE are cleared. -/
def State.clearCause (s : State) (p : Nat) (v : Word) : State :=
  if s.barLive then s.updPort p fun x => { x with eventCause := x.eventCause &&& ~~~v } else s

/-- EVENT_CAUSE_WRITE. -/
def execEventCauseWrite (port : Nat) (v : Word) (s : State) : Host.Outcome State Fault Refusal :=
  onUnit [] (decide (port < 4)) s fun s => s.clearCause port v

/-- R337: a new EVENT_MASK; a cleared mask bit whose cause is set sends its vector. -/
def State.writeMask (s : State) (p : Nat) (v : Word) : State :=
  if !s.barLive then s
  else
    let x := s.port p
    let due := (List.range 64).filter fun i => bit x.eventMask i && !bit v i && bit x.eventCause i
    due.foldl (fun s i => s.sendMsix p (1024 + i)) (s.setPort p { x with eventMask := v })

/-- EVENT_MASK_WRITE. -/
def execEventMaskWrite (port : Nat) (v : Word) (s : State) : Host.Outcome State Fault Refusal :=
  onUnit [] (decide (port < 4)) s fun s => s.writeMask port v

/-! ### The admin queue (R336) -/

/-- ADMIN_SIZES.SQ_LOG2, CQ_LOG2 and ENABLE of a written value. -/
def asSq (v : Word) : Nat := fld v 0 5
def asCq (v : Word) : Nat := fld v 8 5
def asEnable (v : Word) : Bool := bit v 16

/-- R336: bring-up of admin queue p, with the sizes and bases that its registers hold. -/
def State.bringUp (s : State) (p : Nat) : State :=
  let x := s.port p
  let ok (n : Nat) : Bool := 4 ≤ n && n ≤ 16
  if !x.enable || (s.queue p).st ≠ .uncreated then s
  else if ok x.sqLog2 && ok x.cqLog2 then
    (s.setQueue p {
      st := .active, gen := (s.queue p).gen, sqBase := x.sqBase.toNat, cqBase := x.cqBase.toNat, sqLog2 := x.sqLog2,
      cqLog2 := x.cqLog2 }).setPort p { x with err := false }
  else s.setPort p { x with err := true }

/-- R336: sizes written while ENABLE is 1 are discarded, and counted where they would change. -/
def State.sizesWhileEnabled (s : State) (p : Nat) (v : Word) : State :=
  if asSq v = (s.port p).sqLog2 && asCq v = (s.port p).cqLog2 then s else s.barDiscard p

/-- ADMIN_SIZES written with ENABLE = 1. In VIGIL it wakes the unit, and while the unit starts it is kept (R400). -/
def State.adminEnable (s : State) (p : Nat) (v : Word) : State :=
  if !s.powered then s
  else if (s.port p).enable then s.sizesWhileEnabled p v
  else
    let t := s.updPort p fun x => { x with enable := true, sqLog2 := asSq v, cqLog2 := asCq v }
    match s.vigil.phase with
    | .up => t.bringUp p
    | .vigil => { t with vigil := { t.vigil with phase := .waking } }
    | _ => t

/-- ADMIN_ENABLE. -/
def execAdminEnable (port : Nat) (v : Word) (s : State) : Host.Outcome State Fault Refusal :=
  onUnit [.queues, .counters] (port < 4 && asEnable v) s fun s => s.adminEnable port v

/-- ADMIN_SIZES written with ENABLE = 0: fetch stops, and the teardown begins. -/
def State.adminDisable (s : State) (p : Nat) (v : Word) : State :=
  if !s.barLive then s
  else if (s.port p).enable then
    let t := (s.sizesWhileEnabled p v).updPort p fun x => { x with enable := false }
    if (s.queue p).st = .uncreated then t else t.updQueue p fun x => { x with deleting := true }
  else s.updPort p fun x => { x with sqLog2 := asSq v, cqLog2 := asCq v }

/-- ADMIN_DISABLE. -/
def execAdminDisable (port : Nat) (v : Word) (s : State) : Host.Outcome State Fault Refusal :=
  onUnit [.queues, .counters] (port < 4 && !asEnable v) s fun s => s.adminDisable port v

/-- R336: the teardown of an admin queue is complete once every entry fetched from it has completed. ENABLE set in the meantime
brings it up again. -/
def State.teardown (s : State) (p : Nat) : State :=
  let q := s.queue p
  if (q.deleting || (q.st = .uncreated && !(s.port p).enable)) && !s.msgs.any (·.id.src = p) then
    let t := if q.deleting then s.uncreate p else s
    (t.updPort p fun x => { x with err := false }).bringUp p
  else s

/-- ADMIN_TEARDOWN_COMPLETE. -/
def execAdminTeardownComplete (port : Nat) (s : State) : Host.Outcome State Fault Refusal :=
  onUnit [.fields, .queues, .plans, .streams, .staged, .active, .fabStaged, .fabActive] (decide (port < 4)) s fun s =>
    s.teardown port

/-! ### Other BAR0 writes -/

/-- The bits of a 64-bit register that a write of `size` bytes at byte `lo` of it covers. -/
def laneMask (lo size : Nat) : Word := BitVec.ofNat 64 ((2 ^ (8 * size) - 1) * 2 ^ (8 * lo))

/-- A register's value after a write of part of it. -/
def mergeLanes (old v : Word) (lo size : Nat) : Word :=
  (old &&& ~~~(laneMask lo size)) ||| ((v <<< (8 * lo)) &&& laneMask lo size)

/-- ADMIN_SIZES as its writable fields read. -/
def Port.sizes (x : Port) : Word := BitVec.ofNat 64 (x.sqLog2 + x.cqLog2 * 2 ^ 8 + (if x.enable then 2 ^ 16 else 0))

/-- A write to a register of Table 14-4. -/
def State.writeReg (s : State) (p off size : Nat) (v : Word) : State :=
  let x := s.port p
  let lo := off % 8
  let base (old : Word) : Word := mergeLanes old v lo size &&& 0xFFFFFFFFFFFFF000#64
  match off / 8 with
  | 4 => s.clearCause p (mergeLanes 0 v lo size)
  | 5 => s.writeMask p (mergeLanes x.eventMask v lo size)
  | 6 => if x.enable then s.barDiscard p else s.setPort p { x with sqBase := base x.sqBase }
  | 7 => if x.enable then s.barDiscard p else s.setPort p { x with cqBase := base x.cqBase }
  | 8 =>
    let w := mergeLanes x.sizes v lo size
    if asEnable w then s.adminEnable p w else s.adminDisable p w
  | _ => s

/-- R288, R333: a BAR0 write by its region. -/
def State.barWrite (s : State) (p off size : Nat) (v : Word) : State :=
  let aligned := (size = 4 || size = 8) && off % size = 0
  if 0x100000 ≤ off && off < 0x102000 && s.powered then
    let q := (off - 0x100000) / 8
    if !aligned then s.doorbellDiscard p
    else if size = 8 then s.doorbells p q v
    else s.doorbell p q (v.extractLsb' 0 32) (off % 8 = 0)
  else if !s.barLive then
    -- R400: ADMIN_SIZES with ENABLE = 1 is kept
    if s.powered && aligned && off = 0x40 && asEnable v then s.adminEnable p v else s
  else if !aligned then s.barDiscard p
  else if off < 0x60 then s.writeReg p off size v
  else if 0x200000 ≤ off && off < 0x204400 then
    let o := off - 0x200000
    s.writeMsix p (o / 16) (8 * (o % 16)) (8 * size) v
  else if 0x300000 ≤ off && off < 0x300088 then s
  else s.barDiscard p

/-- BAR0_REGISTER_WRITE. -/
def execBar0RegisterWrite (port off size : Nat) (v : Word) (s : State) : Host.Outcome State Fault Refusal :=
  onUnit [.queues, .log, .counters] (port < 4 && off + size ≤ 0x400000) s fun s => s.barWrite port off size v

/-! ### The bank window (R338 to R343) -/

/-- A region of Table 14-10, by unit address. -/
inductive Region14 where
  | bank (f : Nat)
  | commons (f off : Nat)
  | command (f off : Nat)
  | engine (m off : Nat)
  | bulk (m off : Nat)
  | unused
deriving DecidableEq, Repr

/-- Table 14-10. -/
def regionOf (a : Nat) : Region14 :=
  if a < 0x600000000 then .bank (a / 2 ^ 28)
  else if 0x800000000 ≤ a && a < 0x8C0000000 && a % 0x2000000 < 0x1800000 then
    .commons ((a - 0x800000000) / 0x2000000) (a % 0x2000000)
  else if 0xC00000000 ≤ a && a < 0xC60000000 then .command ((a - 0xC00000000) / 2 ^ 24) (a % 2 ^ 24)
  else if 0xC80000000 ≤ a && a < 0xC80100000 then .engine ((a - 0xC80000000) / 2 ^ 16) (a % 2 ^ 16)
  else if 0x10000000000 ≤ a && a < 0x30000000000 then .bulk ((a - 0x10000000000) / 2 ^ 37) (a % 2 ^ 37)
  else .unused

/-- The logical field of a region. -/
def Region14.field : Region14 → Option Nat
  | .bank f => some f
  | .commons f _ => some f
  | .command f _ => some f
  | _ => none

/-- R339: pieces of a run of bytes between 64-byte boundaries: address and length. -/
def piecesOf : Nat → Nat → Nat → List (Nat × Nat)
  | 0, _, _ => []
  | fuel + 1, a, len =>
    let n := min len (64 - a % 64)
    if len = 0 then [] else (a, n) :: piecesOf fuel (a + n) (len - n)

/-- R340: the posted writes of a port that have not landed. -/
def State.unlanded (s : State) (port : Nat) : List Nat :=
  (s.bus.map fun p => (p.2.queue.filter fun x => x.write && x.port = port).map (·.req)).flatten

/-- Registers a window read: pieces served already, and how many are to come. -/
def State.openRead (s : State) (port tag addr len waiting : Nat) (got : List (Nat × List Byte × Bool)) : State :=
  State.completeReads { s with
    winReqs := s.winReqs ++ [{ id := s.reqNo, port, tag, addr, len, waiting, got, behind := s.unlanded port }]
    reqNo := s.reqNo + 1 }

/-- R342: an access to a core below run wakes it, and pins it for its idle hold time. -/
def State.wakeForAccess (s : State) (f c : Nat) : State :=
  if (s.core f c).level = .run then s else s.pinCore f c 1

/-- Queues an access at the BU of an address (R100). -/
def State.queueAccess (s : State) (a : Nat) (x : WinAcc) : State :=
  match placeOf (a / 8) with
  | .bank f c u row _ =>
    (s.wakeForAccess f c).updBu f c u fun b => { b with queue := b.queue ++ [{ x with row, byte := a % 64 }] }
  | _ => s

/-- R169: the way of a commons offset holds a byte of a resident plan's window. -/
def State.wayPinned (s : State) (f off : Nat) : Bool :=
  let w := off / 0x180000
  s.plans.any fun p => match p.2.inField f with
    | some pf => pf.comLen ≠ 0 && pf.comBase / 0x180000 ≤ w && w ≤ (pf.comBase + pf.comLen - 1) / 0x180000
    | none => false

/-- A window record: the port, and the address that it rejects (Table 18-3). -/
def State.windowRec (s : State) (port part code addr : Nat) (f : Option Nat) : State :=
  s.logFault {
    code, cls := 2, part, field := f.getD 0xFF,
    detail := leBytes 1 port ++ leBytes 1 0 ++ leBytes 2 0xFFFF ++ leBytes 8 addr }

/-- R341, R434: how an access meets a field that has failed: none where it is served, else the state with the record that a lost
field's access writes. The cause of the loss is no longer held (log entry 3). -/
def State.fieldRefuses (s : State) (r : Region14) : Option State :=
  match r.field with
  | none => none
  | some f => match (s.field f).health with
    | .healthy => none
    | .failed _ _ => some s
    | .lost =>
      let v := s.fresh
      some (v.1.logFault {
        code := stFIELD_LOST, cls := 2, part := 6, field := f, detail := leBytes 1 v.2.toNat ++ leBytes 1 1 ++ leBytes 2 0xFFFF })

/-- Counts a window access that is refused. -/
def State.windowRefused (s : State) (port : Nat) : State := s.count (portBlock port) 4 1

/-- R264, R274: a slot that does not serve accesses: the record that names it. -/
def State.slotRefuses (s : State) (m : Nat) : Option State :=
  if s.slotUp m then none
  else some (s.logFault { code := stLINK_LOST, cls := 2, part := 3, detail := waitDetail 2 m 0xFFFF 0xFF })

/-- Reads pieces of stored bytes, at word address `base` + address ÷ 8. -/
def State.readPieces (s : State) (wordOf : Nat → Nat) (ps : List (Nat × Nat)) : State × List (Nat × List Byte × Bool) :=
  ps.foldl (fun (a : State × List (Nat × List Byte × Bool)) p =>
    let r := a.1.readBytes (wordOf p.1) (p.1 % 8) p.2 { acc := 1 }
    (r.1, a.2 ++ [(p.1, r.2.1, r.2.2)])) (s, [])

/-- Bytes of a read of registers, by a function that gives the byte at an address. -/
def bytesBy (f : Nat → Byte) (ps : List (Nat × Nat)) : List (Nat × List Byte × Bool) :=
  ps.map fun p => (p.1, (List.range p.2).map fun i => f (p.1 + i), false)

/-- R345: what a read of a command address returns, by the target's core and BU; none for broadcast. -/
def State.cmdStatus (s : State) (f c u : Nat) : Word :=
  let k := s.core f c
  let b := s.bu f c u
  BitVec.ofNat 64 (b.executed.toNat + (if k.fifo.isEmpty then 0 else 2 ^ 32) + (64 - k.fifo.length) * 2 ^ 33 +
    (if b.invalidSeen then 2 ^ 40 else 0))

/-- The target of a command address (Table 14-11): core and BU, where broadcast has no BU number. -/
def cmdTarget (off : Nat) : Nat × Option Nat := (off / 2 ^ 21 % 8, if off / 2 ^ 20 % 2 = 1 then none else some (off / 2 ^ 13 % 128))
/-- Table 14-11: a broadcast address has cmd.bu 0. -/
def cmdAddrOk (off : Nat) : Bool := off / 2 ^ 20 % 2 = 0 || off / 2 ^ 13 % 128 = 0

/-- Table 11-6. -/
def Engine.status (g : Engine) : Word :=
  BitVec.ofNat 64 (g.done.toNat + (if g.queue.isEmpty then 0 else 2 ^ 32) + (if g.regs.any (·.2.sat) then 2 ^ 33 else 0) +
    (if g.err then 2 ^ 34 else 0) + (64 - g.queue.length) * 2 ^ 40)

/-- R271: the engine at an offset of a slot's range; none for broadcast. -/
def engineAt (off : Nat) : Option (Option Nat) :=
  if off / 8 * 8 = 0x8000 then some none
  else if off / 8 % 512 = 0 && off < 0x8000 then some (some (off / 0x1000)) else none

/-- A byte of a word. -/
def wordByte (w : Word) (i : Nat) : Byte := w.extractLsb' (8 * i) 8

/-- The request that a window access at offset `off` makes of a module, and the counts of its bytes (Table 18-6). -/
def State.countBulk (s : State) (m off : Nat) (write : Bool) (n : Nat) : State :=
  (s.bulkRequest m [{ chan := off / 256 % 8 }]).count (slotBlock m) (if write then 1 else 0) n

/-- R345: the words of a write, in ascending order: a whole word, or none where it is covered only in part. -/
def wordUnits : Nat → List (Option Byte) → List (Option Word)
  | 0, _ => []
  | fuel + 1, bs =>
    if bs.isEmpty then []
    else
      let u := bs.take 8
      let rest := wordUnits fuel (bs.drop 8)
      if u.all (·.isNone) then rest
      else (if u.length = 8 && u.all (·.isSome) then some (mergeBytes 0 u) else none) :: rest

/-- The units of a write that starts at byte `off`. -/
def unitsAt (off : Nat) (bs : List (Option Byte)) : List (Option Word) := wordUnits 66 (List.replicate (off % 8) none ++ bs)

/-- R257, R261, R345, R347: an access that cannot be passed on yet, so that flow control holds it: a write of more command words than
the FIFO has room for, an access to a module whose link trains, and a read beyond 256 outstanding ones of the port. -/
def State.accWaits (s : State) (port : Nat) (x : HostAcc) : Bool :=
  s.vigil.phase = .up && ((!x.write && 256 ≤ (s.winReqs.filter (·.port = port)).length) ||
    match regionOf x.addr with
    | .bulk m _ => s.slotUp m && (s.slot m).st ≠ .active
    | .engine m _ => s.slotUp m && (s.slot m).st ≠ .active
    | .command f off =>
      x.write && (s.field f).cmdMode.isSome && cmdAddrOk off &&
        64 < (s.core f (cmdTarget off).1).fifo.length +
          ((unitsAt off x.bytes).filter fun w => match w with | some v => commandOk v && !x.ep | none => false).length
    | _ => false)

/-- A window read in HELD, READY or RUNNING. -/
def State.serveRead (s : State) (port addr len tag : Nat) : State :=
  let ps := piecesOf 65 addr len
  let ur (t : State) : State := t.emit port (.unsupported port tag)
  if len = 0 then
    let v := s.fresh
    v.1.openRead port tag addr 0 0 [(addr, leBytes 4 v.2.toNat, false)]
  else match s.fieldRefuses (regionOf addr) with
    | some t => ur t
    | none => match regionOf addr with
      | .bank _ =>
        let id := s.reqNo
        let t := s.openRead port tag addr len ps.length []
        ps.foldl (fun s p => s.queueAccess p.1 { port, write := false, row := 0, byte := 0, len := p.2, req := id }) t
      | .commons f off =>
        if s.wayPinned f off then
          let r := s.readPieces (fun a => commonsAddr f + a % 0x2000000 / 8) ps
          r.1.openRead port tag addr len 0 r.2
        else (s.windowRec port 2 stOUT_OF_RANGE addr (some f)).openRead port tag addr len 0 (bytesBy (fun _ => 0) ps)
      | .command f _ =>
        let byte (a : Nat) : Byte :=
          let t := cmdTarget (a % 2 ^ 24)
          match (s.field f).cmdMode, t.2 with
          | some _, some u => wordByte (s.cmdStatus f t.1 u) (a % 8)
          | _, _ => 0
        s.openRead port tag addr len 0 (bytesBy byte ps)
      | .engine m off =>
        match s.slotRefuses m, engineAt off with
        | some t, _ => ur t
        | none, none => ur s
        | none, some e =>
          if 8 < off % 8 + len then ur s
          else
            let w := match e with | some i => (s.engine m i).status | none => 0
            s.openRead port tag addr len 0 (bytesBy (fun a => wordByte w (a % 8)) ps)
      | .bulk m off =>
        match s.slotRefuses m with
        | some t => ur t
        | none =>
            let r := (s.countBulk m off false len).readPieces (fun a => bulkAddr m + a % 2 ^ 37 / 8) ps
            r.1.openRead port tag addr len 0 r.2
      | .unused => ur s

/-- A read that a port can receive: within the aperture and one 4 KiB page. -/
def readExists (port off len : Nat) : Bool := port < 4 && off < 2 ^ 34 && off % 4096 + len ≤ 4096

/-! ### Window writes -/

/-- R102: an invalid command word is discarded: one count and one record for its target. -/
def State.discardCommand (s : State) (f c : Nat) (bu : Option Nat) (port : Nat) (w : Word) : State :=
  match bu with
  | some u => s.discardWord f c u port w
  | none =>
    ((allBus.foldl (fun s u => s.updBu f c u fun b => { b with invalidSeen := true }) s).count (coreBlock f c) 17 1).logFault {
      code := stMALFORMED, cls := 2, part := 0, field := f, core := c,
      detail := leBytes 1 port ++ leBytes 1 0 ++ leBytes 2 0xFFFF ++ leBytes 8 w.toNat }

/-- R345: the words of one TLP enter the core's FIFO; invalid ones are discarded, and so are those that the write covers in part or
brings poisoned. -/
def State.writeCommands (s : State) (port f off : Nat) (bs : List (Option Byte)) (ep : Bool) : State :=
  let t := cmdTarget off
  let ws := unitsAt off bs
  ws.foldl (fun s w => match w with
    | none => s.count (coreBlock f t.1) 17 1
    | some x =>
      if commandOk x && !ep then s.updCore f t.1 fun k => { k with fifo := k.fifo ++ [{ port, bu := t.2, w := x }] }
      else s.discardCommand f t.1 t.2 port x) s

/-- R344: a write to a command address. -/
def State.commandWrite (s : State) (port addr f off : Nat) (bs : List (Option Byte)) (ep : Bool) : State :=
  if (s.field f).cmdMode.isNone || !cmdAddrOk off then (s.windowRefused port).windowRec port 6 stOUT_OF_RANGE addr (some f)
  else s.writeCommands port f off bs ep

/-- R272: a word for the engines of a slot. -/
def State.engineWord (s : State) (port m : Nat) (e : Option Nat) (w : Word) : State :=
  if !engWordOk w then s.engDiscard m e w port stMALFORMED
  else if !s.engRoom m e then s.engDiscard m e w port stCAPACITY
  else s.engSend m e w none

/-- R271, R273: a write to an engine address: one aligned word; anything else there is a word that breaks its layout. While a pass holds the
engines, every write is discarded with NOT_OWNER. -/
def State.engineWrite (s : State) (port m off : Nat) (bs : List (Option Byte)) (ep : Bool) : State :=
  match s.slotRefuses m, engineAt off with
  | some t, _ => t
  | none, none => s
  | none, some e =>
    let v := mergeBytes 0 (List.replicate (off % 8) none ++ bs)
    if (s.slot m).holder.isSome then s.engDiscard m e v port stNOT_OWNER
    else match unitsAt off bs with
      | [some w] => if ep then s.engDiscard m e w port stDATA_POISON else s.engineWord port m e w
      | _ => s.engDiscard m e v port stMALFORMED

/-- The bytes of a write that fall into pieces: address and bytes. -/
def writePieces (a : Nat) (bs : List (Option Byte)) : List (Nat × List (Option Byte)) :=
  (piecesOf 10 a bs.length).map fun p => (p.1, (bs.drop (p.1 - a)).take p.2)

/-- A window write in HELD, READY or RUNNING. -/
def State.serveWrite (s : State) (port addr : Nat) (bs : List (Option Byte)) (ep : Bool) : State :=
  match s.fieldRefuses (regionOf addr) with
  | some t => t
  | none => match regionOf addr with
    | .bank _ =>
      (writePieces addr bs).foldl (fun s p =>
        let t := s.queueAccess p.1 { port, write := true, row := 0, byte := 0, bytes := p.2, len := p.2.length, ep, req := s.reqNo }
        { t with reqNo := t.reqNo + 1 }) s
    | .commons f off =>
      if s.wayPinned f off then
        let r := s.writeLines (commonsAddr f * 8 + off) bs ep
        r.1.writeBytes (commonsAddr f + off / 8) (off % 8) r.2 ep
      else s.windowRec port 2 stOUT_OF_RANGE addr (some f)
    | .command f off => s.commandWrite port addr f off bs ep
    | .engine m off => s.engineWrite port m off bs ep
    | .bulk m off =>
      match s.slotRefuses m with
      | some t => t
      | none =>
        (s.countBulk m off true (bs.filter (·.isSome)).length).writeBytes (bulkAddr m + off / 8) (off % 8) bs ep
    | .unused => s

/-- R338, R341: a window access that its port passes on. -/
def State.windowNow (s : State) (port : Nat) (x : HostAcc) : State :=
  match s.vigil.phase, x.write with
  | .off, _ => s
  | .up, false => (s.count (portBlock port) 0 1).serveRead port x.addr x.len x.tag
  | .up, true => (s.count (portBlock port) 1 1).serveWrite port x.addr x.bytes x.ep
  | _, false => ((s.count (portBlock port) 0 1).windowRefused port).emit port (.abort port x.tag)
  | _, true => (s.count (portBlock port) 1 1).windowRefused port

/-- The accesses that flow control holds at a port go on in order, up to the first that still waits (R345; log entry 101). -/
def State.passHeld (port : Nat) : Nat → State → State
  | 0, s => s
  | n + 1, s => match (s.port port).stalled with
    | [] => s
    | x :: rest =>
      if s.accWaits port x then s
      else State.passHeld port n ((s.updPort port fun y => { y with stalled := rest }).windowNow port x)

/-- The accesses held at a port go on. -/
def State.passPort (s : State) (port : Nat) : State := State.passHeld port (s.port port).stalled.length s

/-- A window access of a port, behind those that it holds. -/
def State.windowAccess (s : State) (port : Nat) (x : HostAcc) : State :=
  let t := s.passPort port
  if !(t.port port).stalled.isEmpty || t.accWaits port x then t.updPort port fun y => { y with stalled := y.stalled ++ [x] }
  else t.windowNow port x

/-- A tick of an idle unit: VIGIL_TIME counts, and what flow control holds goes on where it can. -/
def State.idle (s : State) : State := (List.range 4).foldl State.passPort s.idleTick

/-- What a window access can change. -/
def windowParts : List Part := [.freeCtr, .mem, .bus, .cores, .winReqs, .reqNo, .streams, .log, .counters, .slots]

/-- A window read at an offset of a port's aperture. -/
def State.windowRead (s : State) (port off len tag : Nat) : State :=
  s.windowAccess port { write := false, addr := (s.port port).bar2.toNat + off, len, tag }

/-- R343: a port logs a write that it receives with EP set, under AER: a poisoned TLP, with a header that the spec does not give (log
entries 3 and 110). -/
def State.logPoisoned (s : State) (port : Nat) : State :=
  let a := s.fresh
  let b := a.1.fresh
  b.1.updPort port fun x => { x with conf := { x.conf with uncorrectable := x.conf.uncorrectable ||| 0x1000, headerLog := a.2 ++ b.2 } }

/-- A window write at an offset of a port's aperture. -/
def State.windowWrite (s : State) (port off : Nat) (bs : List (Option Byte)) (ep : Bool) : State :=
  (if ep && s.vigil.phase ≠ .off then s.logPoisoned port else s).windowAccess port { write := true, addr := (s.port port).bar2.toNat + off, bytes := bs, ep }

/-- WINDOW_READ. -/
def execWindowRead (port off len tag : Nat) (s : State) : Host.Outcome State Fault Refusal :=
  onUnit windowParts (readExists port off len) s fun s => s.windowRead port off len tag

/-- A write that a port can receive: within the aperture and one 4 KiB page, at most 512 bytes (R339). -/
def writeExists (port off len : Nat) : Bool := port < 4 && off < 2 ^ 34 && off % 4096 + len ≤ 4096 && 1 ≤ len && len ≤ 512

/-- WINDOW_WRITE. -/
def execWindowWrite (port off : Nat) (bytes : List (Option Byte)) (ep : Bool) (s : State) : Host.Outcome State Fault Refusal :=
  onUnit windowParts (writeExists port off bytes.length) s fun s => s.windowWrite port off bytes ep

/-- COMMAND_WORD_WRITE: a window write that falls on a command address. -/
def execCommandWordWrite (port off : Nat) (bytes : List (Option Byte)) (s : State) : Host.Outcome State Fault Refusal :=
  onUnit windowParts (writeExists port off bytes.length) s fun s =>
    match regionOf ((s.port port).bar2.toNat + off) with
    | .command _ _ => s.windowWrite port off bytes false
    | _ => s

/-- A word-aligned engine address of the unit (R271). -/
def engineAddr (a : Nat) : Bool :=
  a % 8 = 0 && (match regionOf a with | .engine _ off => (engineAt off).isSome | _ => false)

/-- BULK_ENGINE_WORD_WRITE. -/
def execBulkEngineWordWrite (port addr : Nat) (w : Word) (s : State) : Host.Outcome State Fault Refusal :=
  onUnit windowParts (port < 4 && engineAddr addr) s fun s =>
    s.windowAccess port { write := true, addr, bytes := (leBytes 8 w.toNat).map some }

/-- The access is one that a port can receive. -/
def bulkAccessOk (port off : Nat) (a : BulkAccess) : Bool :=
  match a with
  | .read len _ => readExists port off len
  | .write bs _ => writeExists port off bs.length

/-- HOST_BULK_ACCESS: a window access that falls on a bulk module. -/
def execHostBulkAccess (port off : Nat) (a : BulkAccess) (s : State) : Host.Outcome State Fault Refusal :=
  onUnit windowParts (bulkAccessOk port off a) s fun s =>
    match regionOf ((s.port port).bar2.toNat + off) with
    | .bulk _ _ => (match a with
      | .read len tag => s.windowRead port off len tag
      | .write bs ep => s.windowWrite port off bs ep)
    | _ => s

end Sys2Proof.Machine
end

