-- ==== Sys2Proof/Machine/Jobs.lean ====
section
/-! DEFINITION. Jobs (R311 to R317, R180, R181, R389): submission, start, completion, deadline, cancel and query. -/

namespace Sys2Proof.Machine

/-- R312: the handle of a job, from its submission entry. The SQ counter has wrapped since then where it stands at or below it. -/
def State.jobHandle (s : State) (m : Msg) : Word :=
  let q := s.queue m.id.src
  mkHandle 3 m.id.src m.id.ctr (if m.id.ctr < q.h then q.wraps else q.wraps - 1)

/-- Table 13-8. -/
def Job.result (j : Job) : List Byte :=
  leBytes 8 j.handle.toNat ++ leBytes 2 j.drain.toNat ++ leBytes 2 j.failPass ++ leBytes 1 (j.failField.getD 0xFF) ++
    leBytes 1 (j.failCore.getD 0xFF)

/-- Table 7-11 for a bulk slot that is not there: nothing is available. The spec states no amount needed (log entry 3). -/
def State.slotCapacity (s : State) : State × List Byte :=
  let v := s.fresh
  (v.1, capDetail 0x05 0xFF 0xFF 0xFF (fld v.2 0 32) 0)

/-- The port that a queue's messages come through. -/
def State.samePort (s : State) (a b : Nat) : Bool := a < 1024 && b < 1024 && s.ownerOf a = s.ownerOf b

/-- JOB_SUBMIT: the checks of R313 in order; a job that passes them waits to start. -/
def jobSubmitMsg (rd : DmaRead) (m : Msg) (s : State) : State :=
  let e := m.entry
  match s.plan (hIndex (sqHandle e)) with
  | none => s.finish m stOUT_OF_RANGE []
  | some p =>
    let fields := p.fields.map (·.field)
    let din := descAt e 16
    let dout := descAt e 32
    if !s.samePort p.owner m.id.src then s.finish m stNOT_OWNER []
    else if !s.isReady || !p.sealed then s.finish m stHELD []
    else match p.segs[eNum e 48 2]? with
      | none => s.finish m stOUT_OF_RANGE []
      | some g =>
        if g.cadence then s.finish m stOUT_OF_RANGE []
        else if din.len ≠ g.inLen || dout.len ≠ g.outLen then s.finish m stSHAPE_MISMATCH []
        else if p.broken || fields.any (fun f => (s.field f).health ≠ .healthy) then s.finish m stFIELD_LOST []
        else if p.slots.any (fun i => !s.slotUp i) then let r := s.slotCapacity; r.1.finish m stCAPACITY r.2
        else if fields.any (fun f => (s.field f).cmdMode.isSome) then s.finish m stIN_USE []
        else match s.payload m din rd with
          | .error st => s.finish m st []
          | .ok bs =>
            let h := s.jobHandle m
            { s.markApplied m.id with jobs := s.jobs ++ [{
                handle := h, named := h.toNat, msg := some m.id, plan := hIndex (sqHandle e), seg := eNum e 48 2, time := m.time,
                rank := m.rank, input := bs, outAddr := dout.addr, outLen := dout.len, limit := eNum e 52 4, startTime := s.now }] }

/-- JOB_SUBMIT. -/
def execJobSubmit (m : MsgId) (rd : DmaRead) (s : State) : Host.Outcome State Fault Refusal :=
  onMsg 0x0401 [.freeCtr, .jobs] m (jobSubmitMsg rd) s

/-- R316, R317: the status of a job that JOB_CANCEL or R295 reaches before its completion is written: that of its failing pass, or of the
loss that ended it, and else SUPERSEDED, before a deadline's TIMEOUT and a refusal to start. -/
def Job.superseded (j : Job) : Nat :=
  match j.st with
  | .ended st => if j.began && !j.limitExpired then st else stSUPERSEDED
  | _ => stSUPERSEDED

/-! ### Start (R314, R180, R389) -/

/-- The stamp of a job's submission. -/
def Job.stamp (j : Job) : Nat × Nat × Nat × Nat :=
  (j.time, j.rank, (match j.msg with | some i => i.src | none => 0), (match j.msg with | some i => i.ctr | none => 0))

/-- Two lists of fields share one. -/
def shareField (a b : List Nat) : Bool := a.any b.contains

/-- R314, R364: what a job waits for: a job that shares a field and comes before it or has started, and has not completed; an earlier one
of the same queue that has not started; or a stream that holds one of its fields. -/
def State.jobHeldUp (s : State) (j : Job) : Bool :=
  let fs := s.planFields j.plan
  (s.jobs.any fun k => k.tick.isNone && k.handle ≠ j.handle &&
    (((stampBefore k.stamp j.stamp || k.st ≠ .waiting) && shareField (s.planFields k.plan) fs) ||
      (stampBefore k.stamp j.stamp && k.st = .waiting &&
        (match k.msg, j.msg with | some a, some b => a.src = b.src | _, _ => false)))) ||
  s.streams.any fun p => p.2.holds && shareField (s.streamFields p.2) fs

/-- The passes of a segment in each core: field, core and pass indices. -/
def Plan.segPasses (p : Plan) (seg : Nat) : List (Nat × Nat × List Nat) :=
  (p.fields.map fun pf => (allCores.map fun c => (pf.field, c, pf.segRun seg c)).filter fun x => !x.2.2.isEmpty).flatten

/-- Hands the passes of a run to its cores, which wake (R382). -/
def State.handRuns (s : State) (h : Word) (runs : List (Nat × Nat × List Nat)) : State :=
  runs.foldl (fun s x => (s.wakeCore x.1 x.2.1).updCore x.1 x.2.1 fun k =>
    { k with run := k.run ++ x.2.2.map fun i => (h, i), routed := [] }) s

/-- R389: the lantern requests of a job start. -/
def State.startRequests (s : State) (p : Plan) (runs : List (Nat × Nat × List Nat)) : State :=
  runs.foldl (fun s x => match p.inField x.1 with
    | none => s
    | some pf => match x.2.2.find? fun i => 2 < Desc.lantern (pf.desc i) with
      | some i => s.startRequest x.1 x.2.1 (Desc.lantern (pf.desc i) - 2)
      | none => s) s

/-- Copies an input to its place in the commons (R172). -/
def State.copyInput (s : State) (p : Plan) (g : Segment) (bs : List Byte) : State :=
  match p.inField g.inField with
  | none => s
  | some pf => s.writeBytes (commonsAddr g.inField + (pf.comBase + g.inOff) / 8) 0 (bs.map some) false

/-- JOB_START (R314): the checks of R180, then the input is copied and the cores begin. While a field waits for its remap the job
pauses (R431). -/
def State.startJob (s : State) (h : Word) : State :=
  match s.job h with
  | none => s
  | some j =>
    if j.st ≠ .waiting || s.vigil.phase ≠ .up || s.jobHeldUp j then s
    else match s.plan j.plan with
      | none => s
      | some p =>
        let fields := p.fields.map (·.field)
        match p.segs[j.seg]? with
        | none => s
        | some g =>
          if fields.any (fun f => (s.field f).health = .lost) || p.broken then s.endJob h stFIELD_LOST none
          else if fields.any (fun f => (s.field f).health ≠ .healthy) then s
          else if p.slots.any (fun i => !s.slotUp i) then s.endJob h stCAPACITY none
          else if fields.any (fun f => (s.field f).cmdMode.isSome) then s.endJob h stIN_USE none
          else
            let runs := p.segPasses j.seg
            let t := (s.copyInput p g j.input).updJob h fun j => { j with
              st := .running, began := true, startTime := s.now, left := (runs.map fun x => x.2.2.length).sum }
            let t : State := { t with mesh := { t.mesh with late := t.mesh.late.filter (· ≠ Config.jobTag h) } }
            (t.handRuns h runs).startRequests p runs

/-- JOB_START. -/
def execJobStart (h : Word) (s : State) : Host.Outcome State Fault Refusal :=
  onUnit endParts true s fun s => s.startJob h

/-! ### Completion (R315, R316) -/

/-- The output region that an offset of a job's output lies in belongs to a pass that has committed. -/
def State.outCommitted (s : State) (j : Job) (off : Nat) : Bool :=
  match (s.plan j.plan).bind fun p => p.regions.find? fun r => r.seg = j.seg && r.off ≤ off && off < r.off + r.vecs * r.bytes with
  | some r => j.committed.contains (r.field, r.pass)
  | none => false

/-- R315, R343: the output blocks of the passes that committed, written through the submitting queue's port; each poisoned block
travels alone, with EP set. -/
def State.writeOutputs (s : State) (j : Job) : State :=
  match j.msg with
  | none => s
  | some id =>
    let port := s.ownerOf id.src
    (j.outs.filter fun o => s.outCommitted j o.1).foldl (fun s o => s.emit port (.dma port (j.outAddr + o.1) o.2.1 o.2.2 true)) s

/-- The requests that a job start entered are withdrawn with the job. -/
def State.dropStartRequests (s : State) (fields : List Nat) : State :=
  s.setQueueL (s.lanterns.queue.filter fun r => !(r.serial.isNone && fields.contains r.field))

/-- The result of a job: Table 7-11 where its start was refused for want of a bulk slot (R179, R180), else Table 13-8. -/
def State.jobResult (s : State) (j : Job) (status : Nat) : State × List Byte :=
  if status = stCAPACITY && j.failPass = 0xFFFF then s.slotCapacity else (s, j.result)

/-- A job's completion is written, and then those of the JOB_CANCEL messages that named it (R317). -/
def State.finishJob (s : State) (j : Job) (status : Nat) : State :=
  let r := s.jobResult j status
  let t := (r.1.writeOutputs j).dropStartRequests (s.planFields j.plan)
  let t : State := { t with jobs := t.jobs.filter (·.handle ≠ j.handle) }
  let t := match j.msg.bind t.msg with | some m => t.finish m status r.2 | none => t
  (t.msgs.filter fun m => m.applied && sqOp m.entry = 0x0402 && sqHandle m.entry = j.handle).foldl (fun s m => s.finish m stOK []) t

/-- R157: a drain or delivery of a job is on its way: over Hatband, to another unit, or to a module. -/
def State.outstandingOf (s : State) (h : Word) : Bool :=
  s.mesh.packets.any (·.job = h) || s.mesh.awaited.any (·.job = h) || s.slots.any fun p => p.2.unacked.any fun i => i.job = h && i.who.isSome

/-- R316: the status of a job whose passes are done, none while a pass, a drain or a delivery is outstanding. -/
def State.jobStatus (s : State) (j : Job) : Option Nat :=
  match j.st with
  | .waiting => none
  | .ended st => if s.mesh.packets.any (·.job = j.handle) then none else some st
  | .running =>
    if j.left ≠ 0 || s.outstandingOf j.handle then none else some (if bit j.drain dsPoison then stDATA_POISON else stOK)

/-- JOB_COMPLETE (R316). -/
def State.completeJob (s : State) (h : Word) : State :=
  match s.job h with
  | none => s
  | some j => if j.tick.isSome then s else match s.jobStatus j with
    | some st => s.finishJob j st
    | none => s

/-- JOB_COMPLETE. -/
def execJobComplete (h : Word) (s : State) : Host.Outcome State Fault Refusal :=
  onUnit (finishParts ++ [.freeCtr, .jobs, .lanterns]) true s fun s => s.completeJob h

/-- JOB_LIMIT_EXPIRY (R316): the deadline of a running job, which does not run while the job pauses (R431). -/
def State.limitExpires (s : State) (h : Word) : State :=
  match s.job h with
  | none => s
  | some j => if j.tick.isNone && j.st = .running && j.limit ≠ 0 && !j.paused then
    (s.endJob h stTIMEOUT none).updJob h fun j => { j with limitExpired := true } else s

/-- JOB_LIMIT_EXPIRY. -/
def execJobLimitExpiry (h : Word) (s : State) : Host.Outcome State Fault Refusal :=
  onUnit endParts true s fun s => s.limitExpires h

/-! ### Cancel and query -/

/-- A job is cancelled: it ends with SUPERSEDED, unless it has ended at a pass before (R316, R317). -/
def State.cancelJob (s : State) (h : Word) : State :=
  (s.endJob h stSUPERSEDED none).updJob h fun j => { j with cancelled := true, st := .ended j.superseded }

/-- JOB_CANCEL: its completion follows the job's (R317). -/
def jobCancelMsg (m : Msg) (s : State) : State :=
  let h := sqHandle m.entry
  if hOwner h ≠ m.id.src then s.finish m stNOT_OWNER [] else (s.markApplied m.id).cancelJob h

/-- JOB_CANCEL. -/
def execJobCancel (m : MsgId) (s : State) : Host.Outcome State Fault Refusal :=
  onMsg 0x0402 endParts m jobCancelMsg s

/-- A time between two moments of VIGIL_TIME in µs, saturating. -/
def microseconds (a b : Nat) : Nat := min ((b - a) / 10) 0xFFFFFFFF

/-- JOB_QUERY. -/
def jobQueryMsg (m : Msg) (s : State) : State :=
  match s.job (sqHandle m.entry) with
  | none => s.finish m stOUT_OF_RANGE []
  | some j =>
    let code := match j.st with | .waiting => 0 | .ended _ => 2 | .running => if j.left = 0 then 2 else 1
    let start := if j.st = .waiting then s.now else j.startTime
    let since := match j.msg.bind s.msg with | some x => x.time | none => j.time
    s.finish m stOK (leBytes 1 code ++ leBytes 3 0 ++ leBytes 4 (microseconds since start) ++ leBytes 4 (microseconds start s.now) ++
      leBytes 4 (min j.waitUs 0xFFFFFFFF))

/-- JOB_QUERY. -/
def execJobQuery (m : MsgId) (s : State) : Host.Outcome State Fault Refusal := onMsg 0x0403 [] m jobQueryMsg s

end Sys2Proof.Machine
end

