-- ==== Sys2Proof/Machine/Seal.lean ====
section
/-! DEFINITION. The device configuration (R308, R406 to R408): its image, its validation, and the messages that stage, seal,
discard and name it. -/

namespace Sys2Proof.Machine

/-! ### The image (Table 17-3) -/

/-- cfg.policy. -/
def cfgPolicy (b : List Byte) : Nat := bytesAt b 8 4
/-- cfg.sigkey. -/
def cfgSigKey (b : List Byte) : Nat := bytesAt b 896 1
/-- cfg.key[i], x and y. -/
def cfgKey (b : List Byte) (i : Nat) : Nat × Nat :=
  (beNat ((b.drop (64 + 96 * i)).take 48), beNat ((b.drop (112 + 96 * i)).take 48))
/-- A key slot is not empty. -/
def cfgHas (b : List Byte) (i : Nat) : Bool := ((b.drop (64 + 96 * i)).take 96).any (· ≠ 0)

/-- A key of a configuration. -/
def Config.key (c : Config) (i : Nat) : Nat × Nat := cfgKey c.image i
/-- A configuration holds a key. -/
def Config.hasKey (c : Config) (i : Nat) : Bool := cfgHas c.image i
/-- R176: plans must be signed. -/
def Config.plansSigned (c : Config) : Bool := nbit (cfgPolicy c.image) 0

/-- Step 1 of R407: magic, revision, CRC, reserved fields, keys on the curve. -/
def cfgShapeOk (b : List Byte) : Bool :=
  let zero (o n : Nat) : Bool := ((b.drop o).take n).all (· = 0)
  b.length = 1024 && bytesAt b 0 4 = 0x47464E43 && bytesAt b 4 1 = 3 && bytesAt b 5 1 = 2 && zero 6 2 && cfgPolicy b < 8 && zero 16 48 &&
  zero 640 256 && zero 897 7 && zero 1000 20 && (crc32c (b.take 1020)).toNat = bytesAt b 1020 4 &&
  (List.range 6).all fun i => !cfgHas b i || ecOn (cfgKey b i)

/-- Step 2 of R407. -/
def cfgRangeOk (b : List Byte) : Bool :=
  20 ≤ bytesAt b 12 4 && bytesAt b 12 4 ≤ 100000 && (cfgSigKey b = 4 || cfgSigKey b = 5 || cfgSigKey b = 0xFF) &&
  (!nbit (cfgPolicy b) 0 || (List.range 4).any (cfgHas b)) && (!nbit (cfgPolicy b) 1 || cfgHas b 4 || cfgHas b 5)

/-- Step 3 of R407: a signature that is required or present, against the sealed configuration's key, or the image's own where
none is sealed. -/
def cfgSignOk (sealed : Option Config) (b : List Byte) : Bool :=
  let k := cfgSigKey b
  let keys := match sealed with | some c => c.image | none => b
  if k = 0xFF then !(match sealed with | some c => nbit (cfgPolicy c.image) 1 | none => false)
  else cfgHas keys k && sigRange (beNat ((b.drop 904).take 48)) && sigRange (beNat ((b.drop 952).take 48)) &&
    Config.cfgSigned b (cfgKey keys k)

/-- R407: the status that the validation of a configuration image gives. -/
def cfgStatus (sealed : Option Config) (b : List Byte) : Nat :=
  if !cfgShapeOk b then stMALFORMED else if !cfgRangeOk b then stOUT_OF_RANGE else if !cfgSignOk sealed b then stSEAL_REQUIRED else stOK

/-! ### Messages (Table 13-5) -/

/-- R308: another queue has a configuration staged. -/
def State.stagedElsewhere (s : State) (q : Nat) : Bool := match s.staged with | some c => c.owner ≠ q | none => false

/-- CONFIG_STAGE. -/
def configStageMsg (rd : DmaRead) (m : Msg) (s : State) : State :=
  let refuse (st : Nat) : State :=
    State.finish { s with
      staged := none
      vigil := { s.vigil with cfgRefused := if s.active.isNone then some st else s.vigil.cfgRefused } } m st []
  if s.stagedElsewhere m.id.src then s.finish m stNOT_OWNER []
  else if (descAt m.entry 16).len ≠ 1024 then refuse stMALFORMED
  else match s.payload m (descAt m.entry 16) rd with
    | .error st => s.finish m st []
    | .ok b =>
      if cfgStatus s.active b ≠ stOK then refuse (cfgStatus s.active b)
      else
        let c := s.newConfig m.id.src b
        State.finish { s with staged := some c, cfgGens := Sparse.set 0 s.cfgGens c.index (c.gen + 1), vigil := { s.vigil with cfgRefused := none } } m stOK
          (leBytes 8 c.handle.toNat)

/-- CONFIG_STAGE. -/
def execConfigStage (m : MsgId) (rd : DmaRead) (s : State) : Host.Outcome State Fault Refusal :=
  onMsg 0x0201 [.cfgGens] m (configStageMsg rd) s

/-- R405: a record write in progress ends: the newest copy holds what it wrote. -/
def Record.ended (r : Record) : Record := match r.writing with | some w => { persisted := w.2 } | none => r

/-- R408: a record write begins for a message, which says whether a configuration persists. -/
def State.beginWrite (s : State) (id : MsgId) (c : Config) : State :=
  { s with record := { s.record with writing := some (id, if nbit (cfgPolicy c.image) 2 then some c.image else none) } }

/-- The record write of a message is in progress. -/
def State.writingFor (s : State) (id : MsgId) : Bool := match s.record.writing with | some w => w.1 = id | none => false

/-- R408: a configuration is sealed once the record is written. -/
def State.sealConfig (s : State) (c : Config) : State :=
  { s with
    staged := none
    active := some c
    record := s.record.ended
    vigil := { s.vigil with cfgRefused := none, cfgTorn := none } }

/-- CONFIG_SEAL: the handle names the staged configuration. The message begins the record write, and completes as it ends (R408). -/
def configSealMsg (m : Msg) (s : State) : State :=
  match s.staged with
  | none => s.finish m stOUT_OF_RANGE []
  | some c =>
    if !cfgNamed (sqHandle m.entry) (some c) then s.finish m stOUT_OF_RANGE []
    else if c.owner ≠ m.id.src then s.finish m stNOT_OWNER []
    else if s.writingFor m.id then (s.sealConfig c).finish m stOK []
    else if s.jobRuns || s.streamArmed then s.finish m stIN_USE []
    else s.beginWrite m.id c

/-- CONFIG_SEAL. -/
def execConfigSeal (m : MsgId) (s : State) : Host.Outcome State Fault Refusal := onMsg 0x0202 [.record] m configSealMsg s

/-- CONFIG_DISCARD. -/
def configDiscardMsg (m : Msg) (s : State) : State :=
  if !cfgNamed (sqHandle m.entry) s.staged then s.finish m stOUT_OF_RANGE []
  else if s.stagedElsewhere m.id.src then s.finish m stNOT_OWNER []
  else State.finish { s with staged := none } m stOK []

/-- CONFIG_DISCARD. -/
def execConfigDiscard (m : MsgId) (s : State) : Host.Outcome State Fault Refusal := onMsg 0x0203 [] m configDiscardMsg s

/-- A configuration's handle, or 0. -/
def cfgHandle (c : Option Config) : Nat := match c with | some c => c.handle.toNat | none => 0

/-- CONFIG_QUERY. -/
def execConfigQuery (m : MsgId) (s : State) : Host.Outcome State Fault Refusal :=
  onMsg 0x0204 [] m (fun m s => s.finish m stOK (leBytes 8 (cfgHandle s.active) ++ leBytes 8 (cfgHandle s.staged))) s

end Sys2Proof.Machine
end

