-- ==== Sys2Proof/Machine/PlanCheck.lean ====
section
/-! DEFINITION. What PLAN_LOAD validates (R171 to R179, Table 7-10): the image, its sections, its descriptors and what they reach. -/

namespace Sys2Proof.Machine

/-! ### The image (R171 to R175) -/

/-- A section table entry (Table 7-8a). -/
structure Sect where
  type : Nat
  field : Nat
  off : Nat
  len : Nat
  crc : Nat
  clean : Bool
deriving DecidableEq, Repr

/-- A plan image whose header is read. -/
structure Image where
  bytes : List Byte
  flags : Nat
  seed : Word
  fields : List Nat
  sects : List Sect
  nsect : Nat
  nseg : Nat
  sectOff : Nat
  segOff : Nat

/-- `n` bytes from `o`. -/
def sliceAt (bs : List Byte) (o n : Nat) : List Byte := (bs.drop o).take n
/-- Every byte of a range is 0. -/
def zeroAt (bs : List Byte) (o n : Nat) : Bool := (sliceAt bs o n).all (· = 0)

/-- Step 1 of Table 7-10. -/
def planStep1 (b : List Byte) : Bool :=
  256 ≤ b.length && bytesAt b 0 4 = 0x4E414C50 && bytesAt b 4 1 = 3 && bytesAt b 5 1 = 2 && bytesAt b 8 8 = b.length &&
  (crc32c (b.take 252)).toNat = bytesAt b 252 4

/-- An entry of the section table. -/
def sectAt (b : List Byte) (o : Nat) : Sect :=
  { type := bytesAt b o 2, field := bytesAt b (o + 2) 1, off := bytesAt b (o + 8) 8, len := bytesAt b (o + 16) 8,
    crc := bytesAt b (o + 24) 4, clean := zeroAt b (o + 3) 5 && zeroAt b (o + 28) 4 }

/-- The header of an image (Table 7-7), with its section table. -/
def imageOf (b : List Byte) : Image :=
  let so := bytesAt b 28 4
  { bytes := b, flags := bytesAt b 6 2, seed := BitVec.ofNat 64 (bytesAt b 16 8),
    fields := (List.range 96).filter fun f => nbit (bytesAt b 36 12) f,
    sects := if so + 32 * bytesAt b 24 2 ≤ b.length then (List.range (bytesAt b 24 2)).map fun i => sectAt b (so + 32 * i) else [],
    nsect := bytesAt b 24 2, nseg := bytesAt b 26 2, sectOff := so, segOff := bytesAt b 32 4 }

/-- Two ranges share a place. -/
def meets (a an b bn : Nat) : Bool := a < b + bn && b < a + an

/-- Sections in ascending order, none overlapping. -/
def sectsRise : List Sect → Bool
  | a :: b :: t => a.off < b.off && a.off + a.len ≤ b.off && sectsRise (b :: t)
  | _ => true

/-- The sections of a type. -/
def Image.ofType (x : Image) (t : Nat) : List Sect := x.sects.filter (·.type = t)

/-- Step 2 of Table 7-10 (R172). -/
def planStep2 (x : Image) : Bool :=
  let n := x.bytes.length
  let tabs := [(x.sectOff, 32 * x.nsect), (x.segOff, 32 * x.nseg)]
  1 ≤ x.nsect && x.nsect ≤ 4096 && 1 ≤ x.nseg && x.nseg ≤ 256 &&
  tabs.all (fun t => 256 ≤ t.1 && t.1 + t.2 ≤ n) && !meets x.sectOff (32 * x.nsect) x.segOff (32 * x.nseg) &&
  sectsRise x.sects &&
  x.sects.all (fun e => 1 ≤ e.type && e.type ≤ 6 && (if e.type ≤ 4 then x.fields.contains e.field else e.field = 0xFF) &&
    e.len % 8 = 0 && 256 ≤ e.off && e.off + e.len ≤ n && tabs.all (fun t => !meets e.off e.len t.1 t.2) &&
    (crc32c (sliceAt x.bytes e.off e.len)).toNat = e.crc && (e.type ≠ 6 || e.len = 128)) &&
  x.fields.all (fun f => [1, 2].all fun t => ((x.ofType t).filter (·.field = f)).length = 1) &&
  (x.ofType 5).length ≤ 1 && (x.ofType 6).length ≤ 1 &&
  (match x.ofType 6 with
    | [g] => x.sects.all (fun e => e.off ≤ g.off) && tabs.all fun t => t.1 + t.2 ≤ g.off
    | _ => true) &&
  (nbit x.flags 0 = !(x.ofType 6).isEmpty) && (nbit x.flags 1 = !(x.ofType 5).isEmpty)

/-- R176: the bytes that a plan's signature signs: everything before the signature section, its own sect.crc taken as 0. -/
def Image.signed (x : Image) (g : Sect) : List Byte :=
  let i := (x.sects.findIdx? (· = g)).getD 0
  let at_ := x.sectOff + 32 * i + 24
  (x.bytes.take g.off).zipIdx.map fun p => if at_ ≤ p.2 && p.2 < at_ + 4 then 0 else p.1

/-- R176, R407: the signature of a plan verifies against a plan key of the sealed configuration. -/
def Image.verifies (x : Image) (cfg : Config) (g : Sect) : Bool :=
  let d := sliceAt x.bytes g.off 128
  let k := bytesAt d 4 1
  bytesAt d 0 4 = 0x47495353 && k < 4 && cfg.hasKey k &&
  ecVerify (cfg.key k) (sha384 (x.signed g)) (beNat (sliceAt d 8 48)) (beNat (sliceAt d 56 48))

/-- Step 3 of Table 7-10. -/
def planStep3 (x : Image) (cfg : Config) : Bool :=
  match x.ofType 6 with
  | g :: _ => x.verifies cfg g
  | [] => !cfg.plansSigned

/-! ### Field parts -/

/-- Extent records of a section: from `at_` of the image, `len` bytes left (R175). -/
def extentsAt (b : List Byte) (f : Nat) (commons : Bool) : Nat → Nat → Nat → Option (List Extent)
  | 0, _, len => if len = 0 then some [] else none
  | fuel + 1, at_, len =>
    if len = 0 then some []
    else if len < 8 then none
    else
      let e : Extent := if commons then
          { field := f, commons, core := 0, bu := 0, pos := bytesAt b at_ 4, len := bytesAt b (at_ + 4) 4, off := at_ + 8 }
        else { field := f, commons, core := bytesAt b at_ 1, bu := bytesAt b (at_ + 1) 1, pos := bytesAt b (at_ + 2) 2,
               len := bytesAt b (at_ + 4) 2, off := at_ + 8 }
      let n := if commons then e.len else 64 * e.len
      let ok := if commons then e.pos % 64 = 0 && e.len % 64 = 0
        else e.core < 8 && (e.bu < 128 || e.bu = 0xFF) && zeroAt b (at_ + 6) 2
      if ok && 8 + n ≤ len then (extentsAt b f commons fuel (at_ + 8 + n) (len - 8 - n)).map (e :: ·) else none

/-- The extents of a field. -/
def Image.extents (x : Image) (f : Nat) : Option (List Extent) :=
  (x.sects.filter fun e => e.field = f && (e.type = 3 || e.type = 4)).foldl (fun a e =>
    a.bind fun l => (extentsAt x.bytes f (e.type = 4) e.len e.off e.len).map (l ++ ·)) (some [])

/-- Two extents of a field overlap. -/
def Extent.overlaps (a b : Extent) : Bool :=
  a.commons = b.commons && (a.commons || (a.core = b.core && (a.bu = b.bu || a.bu = 0xFF || b.bu = 0xFF))) && meets a.pos a.len b.pos b.len

/-- No two of a list overlap. -/
def apart : List Extent → Bool
  | [] => true
  | e :: es => es.all (fun o => !e.overlaps o) && apart es

/-- A field's part of an image (Table 7-9), with windows at 0. -/
def Image.part (x : Image) (f : Nat) : Option PlanField :=
  match (x.ofType 1).find? (·.field = f), (x.ofType 2).find? (·.field = f) with
  | some fc, some pl =>
    let b := sliceAt x.bytes fc.off fc.len
    let lists := sliceAt x.bytes pl.off pl.len
    if fc.len < 52 + 32 * x.nseg then none
    else some {
      field := f, rowBase := 0, rows := bytesAt b 8 2, comBase := 0, comLen := bytesAt b 12 4, done := bytesAt b 16 4,
      passes := pl.len / 128,
      cores := (List.range 8).map fun c => (bytesAt b (20 + 4 * c) 2, bytesAt b (22 + 4 * c) 2),
      segs := (List.range x.nseg).map fun g => (List.range 8).map fun c =>
        (bytesAt b (52 + 32 * g + 4 * c) 2, bytesAt b (54 + 32 * g + 4 * c) 2),
      descs := (List.range (pl.len / 128)).map fun i => BitVec.ofNat 1024 (bytesAt lists (128 * i) 128) }
  | _, _ => none

/-- The sublists are those of cores 0 to 7 one after another (R153). -/
def sublistsOk : Nat → List (Nat × Nat) → Nat → Bool
  | at_, [], n => at_ = n
  | at_, (first, cnt) :: t, n => (cnt = 0 || first = at_) && sublistsOk (at_ + cnt) t n

/-- R12, R153, R169, R174, R175: the field control section, and the extents beside it. -/
def Image.partOk (x : Image) (pf : PlanField) (exts : List Extent) : Bool :=
  match (x.ofType 1).find? (·.field = pf.field), (x.ofType 2).find? (·.field = pf.field) with
  | some fc, some pl =>
    let b := sliceAt x.bytes fc.off fc.len
    bytesAt b 0 8 = x.seed.toNat && zeroAt b 10 2 && zeroAt b (52 + 32 * x.nseg) fc.len &&
    1 ≤ pf.rows && pf.rows ≤ 4096 && pf.comLen % 64 = 0 && pf.comLen ≤ 25165824 && pl.len % 128 = 0 &&
    128 * pf.passes ≤ pf.comLen && pf.done % 64 = 0 && pf.done + 16 * pf.passes ≤ pf.comLen &&
    sublistsOk 0 pf.cores pf.passes &&
    pf.segs.all (fun g => (g.zip pf.cores).all fun p => p.1.1 + p.1.2 ≤ p.2.2) &&
    apart exts && exts.all fun e => !e.commons || (e.pos + e.len ≤ pf.comLen && (e.len = 0 || 128 * pf.passes ≤ e.pos))
  | _, _ => false

/-! ### What the image holds of a bank or of the commons -/

/-- A plan being validated: its image, parts and extents. -/
structure Draft where
  x : Image
  parts : List PlanField
  exts : List Extent
  segs : List Segment

def Draft.part (p : Draft) (f : Nat) : Option PlanField := p.parts.find? (·.field = f)

/-- A bank row that the image holds. -/
def Draft.row (p : Draft) (f c u row : Nat) : Option (BitVec 512) :=
  (p.exts.find? fun e => !e.commons && e.field = f && e.core = c && (e.bu = u || e.bu = 0xFF) && e.pos ≤ row && row < e.pos + e.len).map
    fun e => BitVec.ofNat 512 (bytesAt p.x.bytes (e.off + 64 * (row - e.pos)) 64)

/-- Commons bytes that one extent of the image holds. -/
def Draft.com1 (p : Draft) (f off n : Nat) : Option (List Byte) :=
  (p.exts.find? fun e => e.commons && e.field = f && e.pos ≤ off && off + n ≤ e.pos + e.len).map fun e =>
    sliceAt p.x.bytes (e.off + (off - e.pos)) n

/-- Commons bytes that the image holds, in one extent or in several. -/
def Draft.com (p : Draft) (f off n : Nat) : Option (List Byte) :=
  match p.com1 f off n with
  | some b => some b
  | none => (List.range n).foldr (fun i a => a.bind fun l => (p.com1 f (off + i) 1).map (· ++ l)) (some [])

/-- The 64-bit words of a commons range that the image holds. -/
def Draft.comWords (p : Draft) (f off n : Nat) : List Word :=
  (List.range n).filterMap fun i => (p.com f (off + 8 * i) 8).map fun b => BitVec.ofNat 64 (leNat b)

/-! ### Fields used (R154, R159, R467) -/

/-- A mask of bit ranges of a descriptor. -/
def rangesMask (rs : List (Nat × Nat)) : Desc :=
  rs.foldl (fun m r => m ||| BitVec.ofNat 1024 ((2 ^ r.2 - 1) * 2 ^ r.1)) 0

/-- The output format is BSF with escapes. -/
def Desc.bsfEscOut (d : Desc) : Bool := let f := Fmt.ofWord (Desc.fmtO d); f.isBsf && f.esc

/-- R159: the drain fields used where drain.dest ≠ 0. -/
def drainUsed (d : Desc) : List (Nat × Nat) :=
  let k := Desc.kind d
  [(643, 2), (656, 8), (647, 1), (672, 48), (736, 16), (752, 16)] ++
  (if Desc.form d = 0 then [(645, 1)] else []) ++ (if Desc.form d = 2 then [(651, 2)] else []) ++
  (if Desc.bsfEscOut d then [(648, 3), (646, 1)] else []) ++ (if k = 4 || k = 6 || k = 10 then [(653, 2)] else []) ++
  (if Desc.ftab d then [(664, 4), (668, 4), (352, 32)] else []) ++ (if Desc.dest d = 3 then [(720, 7), (727, 1)] else [])

/-- Table 7-2a: what an output adds. -/
def outUsed (d : Desc) : List (Nat × Nat) :=
  if Desc.dest d = 0 then []
  else [(64, 16), (86, 1), (448, 2), (464, 16)] ++ drainUsed d ++ (if Desc.mo d then [(384, 32)] else [])

/-- The fields that every kind with a group uses: order, round, rep, grp, base. -/
def groupUsed : List (Nat × Nat) := [(4, 1), (5, 1), (6, 1), (9, 3), (12, 5)]

/-- Table 7-2a: what TABLE, SPARSE and ESCAPE use alike. -/
def tableUsed (d : Desc) : List (Nat × Nat) :=
  let fs := Fmt.ofWord (Desc.fmtS d)
  let fx := Fmt.ofWord (Desc.fmtX d)
  groupUsed ++ [(18, 2), (20, 2), (22, 5), (27, 5), (32, 16), (48, 16), (80, 5), (87, 1), (125, 1), (128, 16), (144, 16), (160, 24),
    (192, 32), (224, 12), (240, 7), (640, 3)] ++
  (if fs.esc then [(320, 12), (336, 16)] else []) ++ (if Desc.mk d then [(416, 32)] else []) ++
  (if fx.esc then [(832, 32), (864, 32)] else []) ++ (if fx.isBsf then [(896, 32), (928, 32)] else []) ++ outUsed d

/-- Table 7-2a: the bit ranges that a descriptor uses. -/
def descUsed (d : Desc) : List (Nat × Nat) :=
  let always := [(0, 4), (88, 8), (96, 16), (112, 8), (120, 4), (124, 1), (512, 128)]
  let streams := [(126, 1), (256, 32), (288, 32)] ++ (if Desc.xsrc d then [] else [(85, 1)])
  always ++ match Desc.kind d with
  | 1 => tableUsed d ++ streams ++ [(17, 1), (7, 2)] ++ (if Desc.settle d = 2 then [(480, 32)] else [])
  | 2 => tableUsed d ++ streams ++ [(17, 1), (768, 32), (800, 16), (816, 2)]
  | 3 => tableUsed d
  | 4 => [(832, 64), (640, 3)] ++ (if Desc.dest d = 0 then [] else (64, 16) :: drainUsed d)
  | 5 => groupUsed ++ streams ++ [(17, 1), (32, 16), (48, 16), (80, 5), (87, 1), (125, 1), (128, 16), (144, 16), (160, 24), (192, 32),
      (224, 12), (240, 7), (640, 3)] ++ (if Desc.mk d then [(416, 32)] else []) ++ outUsed d
  | 6 => groupUsed ++ [(27, 5), (48, 16), (80, 5), (125, 1), (128, 16), (144, 16), (240, 7), (832, 192), (640, 3)] ++ outUsed d
  | 10 => groupUsed ++ [(27, 5), (48, 16), (125, 1), (128, 16), (144, 16), (240, 7), (640, 3)] ++ outUsed d
  | 8 => [(48, 16), (64, 16), (85, 1), (128, 16), (160, 24), (256, 32), (288, 32), (832, 192)]
  | _ => [(832, 192)]

/-- R154: every field that the kind does not use is 0. -/
def unusedZero (d : Desc) : Bool := d &&& ~~~(rangesMask (descUsed d)) = 0

/-- R157: dependency entries that are not in use are 0. -/
def depsClean (d : Desc) : Bool := (List.range 4).all fun i => nbit (Desc.dep d i) 23 || Desc.dep d i = 0

/-! ### Formats and extents -/

/-- A legal format word of a bank-side format. -/
def bankFmt (w : Nat) : Bool := fmtLegal w && (Fmt.ofWord w).bank
/-- A legal format word that the MAC16 path accepts (Table 2-6). -/
def mac16Fmt (w : Nat) : Bool := fmtLegal w && (let f := Fmt.ofWord w; f.isUint || f.signed)
/-- A legal format word that the edge unit reads or writes (R212). -/
def edgeFmt (w : Nat) : Bool := fmtLegal w && (let f := Fmt.ofWord w; (f.bank || f.float) && !f.isBsf && !f.esc)

/-- R50, R465: the pad kind and literal suit the output format. -/
def padOk (d : Desc) : Bool :=
  let f := Fmt.ofWord (Desc.fmtO d)
  match Desc.pad d with
  | 0 => !f.isBin
  | 3 => Desc.padlit d < 2 ^ f.width && f.writable (Desc.padlit d)
  | _ => true

/-- R125, R148, R149, R151, R159, Table 7-4: the output of a pass. -/
def outOk (d : Desc) : Bool :=
  let f := Fmt.ofWord (Desc.fmtO d)
  Desc.dest d = 0 || (
    Desc.dest d ≤ 5 && bankFmt (Desc.fmtO d) && Desc.form d ≤ 2 &&
    (Desc.form d = 0 || f.isUint || f.isTern || (f.signed && !f.isBsf && !f.esc)) &&
    (Desc.kind d = 4 || padOk d) && -31 ≤ Desc.shift d && Desc.shift d ≤ 63 && Desc.idxMode d ≤ 2 &&
    (!Desc.ftab d || (!f.isBsf && (Desc.ifmt d = 3 || Desc.ifmt d = 4) && (if Desc.ifmt d = 3 then 1 else 2) ≤ Desc.iwidth d &&
      Desc.iwidth d ≤ 8)) &&
    (Desc.form d ≠ 1 || 128 * Desc.o d ≤ 32768) &&
    (match Desc.dest d with
      | 2 => Desc.addr d % 64 = 0
      | 3 => !Desc.tcom d || Desc.addr d % 64 = 0
      | 4 => Desc.addr d < 2 ^ 41 && Desc.addr d % 64 = 0 &&
        Desc.addr d % 2 ^ 37 + 64 * ((max (Desc.n d) 1 - 1) * Desc.vstride d + Desc.limit d) ≤ 2 ^ 37
      | 5 => Desc.addr d < 64
      | _ => true))

/-- R156, R96: slots and outputs fit the group. -/
def slotsOk (d : Desc) (lanes : Nat) : Bool :=
  1 ≤ Desc.n d && 1 ≤ Desc.o d && Desc.o d ≤ 1024 && 1 ≤ Desc.m d && Desc.m d ≤ (if Desc.pair d then 64 else 32) &&
  (if Desc.dbuf d then 2 else 1) * Desc.o d ≤ lanes * Desc.m d

/-- R111, R202: the lookup bound of an MSB-first pass, with what its preloads above plane 0 add. -/
def msbOk (d : Desc) (preload : Nat) : Bool :=
  !Desc.msb d ||
    (2 ^ Desc.v d - 1) * (tableGroups d).length * 2 ^ (Desc.e d - 1) + preload * 2 ^ (Desc.v d - 1) +
      (if Desc.settle d = 0 then 0 else 2 ^ (Desc.v d - 1) - 1) ≤ (slotMax (Desc.pair d)).toNat

/-- R202: what a settle pass must be. -/
def settleOk (d : Desc) : Bool :=
  let fo := Fmt.ofWord (Desc.fmtO d)
  match Desc.settle d with
  | 0 => true
  | 3 => false
  | m => Desc.kind d = 1 && Desc.msb d && Desc.opens d && Desc.dest d ≠ 0 && !(Fmt.ofWord (Desc.fmtX d)).isBsf &&
    !(Fmt.ofWord (Desc.fmtX d)).esc && !(Fmt.ofWord (Desc.fmtS d)).esc && Desc.en d = 0 && Desc.o d ≤ Desc.lanes d &&
    (if m = 1 then !fo.isBsf else fo.isUint && fo.width = 1 && !Desc.ftab d && Desc.form d = 0 && Desc.shiftRaw d = 0)

/-- R53, R56, R60, R114, R140, R168: what TABLE, SPARSE and ESCAPE passes must be. -/
def tableOk (d : Desc) : Bool :=
  let fs := Fmt.ofWord (Desc.fmtS d)
  let fx := Fmt.ofWord (Desc.fmtX d)
  bankFmt (Desc.fmtS d) && bankFmt (Desc.fmtX d) && Desc.ab d = fx.planes && (fx.isBsf || Desc.vx d = 0) &&
  (fs.isBsf || Desc.rs d = 0) && 1 ≤ Desc.k d && entryWidthOk (Desc.g d) (Desc.e d) fs.wb && slotsOk d (Desc.lanes d) &&
  (!fx.isBsf || (1 ≤ Desc.xsKtot d && Desc.kbase d + Desc.k d ≤ Desc.xsKtot d && Desc.kbase d % fx.groupSize = 0)) &&
  settleOk d && (Desc.kind d ≠ 3 || fx.esc) && (!fx.esc || Desc.kind d = 3 || Desc.en d < 2 ^ 19) &&
  (Desc.kind d ≠ 2 || (1 ≤ Desc.spNcard d && (Desc.spForm d = 1 || (Desc.spForm d = 2 && Desc.g d = 2))))

/-- R155, R44: what a MAC16 pass must be. -/
def mac16PassOk (d : Desc) : Bool :=
  mac16Fmt (Desc.fmtS d) && mac16Fmt (Desc.fmtX d) && ((Fmt.ofWord (Desc.fmtS d)).isBsf || Desc.rs d = 0) && 1 ≤ Desc.k d && slotsOk d 16

/-- R164, R161: what a REDUCE or DRAIN pass must be; a group that a PLANE pass opened names no format. -/
def foldOk (d : Desc) : Bool :=
  (Desc.fmtX d = 0 || bankFmt (Desc.fmtX d)) && ((Fmt.ofWord (Desc.fmtX d)).isBsf || Desc.vx d = 0) && slotsOk d 16 &&
  (Desc.kind d ≠ 6 || (Desc.rdLevel d ≤ 2 &&
    (match Desc.rdLevel d with | 0 => Desc.rdCores d ≠ 0 | 1 => Desc.rdFields d ≠ 0 | _ => 1 ≤ Desc.rdUnits d)))

/-- Bytes of a vector in a format, element-major. -/
def vectorBytes (f : Fmt) (k : Nat) : Nat := cdiv (k * containerBits f.bits) 8
/-- Bytes of a streaming vector in the commons. -/
def Desc.xBytes (d : Desc) : Nat :=
  let f := Fmt.ofWord (Desc.fmtX d)
  if Desc.xlay d then 64 * f.width * cdiv (Desc.k d) 512 else vectorBytes f (Desc.k d)

/-- R210 to R212: what an EDGE pass must be. -/
def edgePassOk (d : Desc) : Bool :=
  let fx := Fmt.ofWord (Desc.fmtX d)
  let fo := Fmt.ofWord (Desc.fmtO d)
  edgeFmt (Desc.fmtX d) && edgeFmt (Desc.fmtO d) && !fo.isBin && fo.round ≠ 1 && (!fx.float || (!Desc.xlay d && Desc.edKinRaw d = 0)) &&
  (!fo.float || Desc.edKoutRaw d = 0) && -64 ≤ Desc.edKin d && Desc.edKin d ≤ 63 && -64 ≤ Desc.edKout d && Desc.edKout d ≤ 63 &&
  1 ≤ Desc.n d && 1 ≤ Desc.k d && Desc.k d ≤ 4096 && 1 ≤ Desc.edLen d && Desc.edLen d ≤ 1024 && Desc.edPro d < Desc.edLen d &&
  Desc.edNscr d ≤ 64 && Desc.xstride d % 64 = 0 && Desc.edOstride d % 64 = 0 && Desc.xBytes d ≤ Desc.xstride d &&
  vectorBytes fo (Desc.k d) ≤ Desc.edOstride d

/-- An endpoint of a move is well laid out (Table 10-9, R263, R266). -/
def endOk (fa : Word) : Bool :=
  match faRegion fa with
  | 0 => fld fa 28 12 = 0 && faField fa < 96 && faOff fa % 64 = 0
  | 1 => fld fa 28 12 = 0 && faField fa < 96 && faOff fa % 64 = 0
  | 2 => fld fa 28 12 = 0
  | _ => false

/-- The module byte offset of a bulk endpoint. -/
def bulkOff (fa : Word) : Nat := (fld fa 42 3 * 2 ^ 28 + faOff fa) * 64

/-- Rows of a BU, and bytes of a commons. -/
def rowsTotal : Nat := 4096
def commonsTotal : Nat := 25165824

/-- The row of a bank endpoint, and its first BU in the field (R266). -/
def endRow (fa : Word) : Nat := faOff fa / 64 % 4096
def endBu (fa : Word) : Nat := faOff fa / 2 ^ 25 % 8 * 128 + faOff fa / 2 ^ 18 % 128

/-- R252, R265, R266, R273: what a MOVE pass must be. The destination of a FABRIC move lies in banks and commons of another unit, which
reach no further than this unit's (R156). -/
def movePassOk (d : Desc) : Bool :=
  let s := moveSrc d
  let t := moveDst d
  let bs := faRegion s = 2
  let bt := faRegion t = 2
  Desc.mvLen d % 64 = 0 && 64 ≤ Desc.mvLen d && Desc.mvLen d ≤ 16777216 && endOk s && endOk t && faOrdinal s = 0 &&
  (match Desc.mvKind d with
    | 1 => !bs && !bt && faOrdinal t = 0
    | 2 => !bs && !bt && (if faRegion t = 0 then endRow t + (endBu t + moveUnits d - 1) / 1024 + 1 ≤ rowsTotal
        else faOff t + Desc.mvLen d ≤ commonsTotal)
    | 3 => (bs != bt) && faOrdinal t = 0 && (!bs || bulkOff s + Desc.mvLen d ≤ 2 ^ 37) && (!bt || bulkOff t + Desc.mvLen d ≤ 2 ^ 37)
    | 4 => !bs && bt && faOrdinal t = 0 && bulkOff t % 64 = 0 && bulkOff t ≤ 512
    | _ => false)

/-- What a descriptor must be by itself: R154 to R168, R385. -/
def descShapeOk (d : Desc) : Bool :=
  descOk d && unusedZero d && depsClean d && Desc.lantern d ≤ 50 && (Desc.back d ≠ 0 || Desc.arm d = 0) && outOk d &&
  (match Desc.kind d with
    | 1 | 2 | 3 => tableOk d
    | 4 => 1 ≤ Desc.plLen d && 1 ≤ Desc.plRep d
    | 5 => mac16PassOk d
    | 6 | 10 => foldOk d
    | 7 => 1 ≤ Desc.rtArms d && Desc.rtArms d ≤ 16
    | 8 => edgePassOk d
    | 9 => movePassOk d
    | _ => false)

end Sys2Proof.Machine
end

