-- ==== Sys2Proof/Machine/PlanReach.lean ====
section
/-! DEFINITION. What PLAN_LOAD validates beside each descriptor by itself (R156 to R179): the ranges it reaches, what the image
holds there, group lifetimes, dependencies, REDUCE trees, output regions and the Almanac. -/

namespace Sys2Proof.Machine

/-! ### Ranges (R156, R177) -/

/-- Rows that a descriptor reaches: field, first and last BU of the field (core × 128 + BU), and one past the last row; `capped`
that R156 refuses it past row 4,095. -/
structure RowReach where
  field : Nat
  lo : Nat
  hi : Nat
  need : Nat
  capped : Bool

/-- Commons bytes that a descriptor reaches: field, offset, length. -/
structure ComReach where
  field : Nat
  off : Nat
  len : Nat

/-- Rows from `first` in every BU of a core. -/
def coreReach (f c first n : Nat) (capped : Bool) : List RowReach :=
  if n = 0 then [] else [{ field := f, lo := 128 * c, hi := 128 * c + 127, need := first + n, capped }]

/-- Units that a vector region takes over all vectors. -/
def Desc.spanUnits (d : Desc) : Nat := (max (Desc.n d) 1 - 1) * Desc.vstride d + Desc.limit d

/-- The table and bias rows from pass.trow (R65, R155). -/
def Desc.tableRows (d : Desc) : Nat :=
  let g := (tableGroups d).length
  let fx := Fmt.ofWord (Desc.fmtX d)
  let bias := if fx.isBsf then cdiv (Desc.k d) fx.groupSize else if Desc.settle d = 0 then 1 else 2
  match Desc.kind d with
  | 1 => (g + bias) * Desc.laneSets d
  | 2 => bias * Desc.laneSets d
  | 3 => g * Desc.laneSets d
  | 5 => cdiv (Desc.k d) 2 * cdiv (Desc.o d) 16
  | _ => 0

/-- R266: the rows that a bank endpoint reaches, stripe row by stripe row. -/
def stripeReach (fa : Word) (units : Nat) : List RowReach :=
  let q0 := endBu fa
  let q1 := q0 + units - 1
  (List.range (q1 / 1024 + 1)).map fun k =>
    { field := faField fa, lo := q0 - 1024 * k, hi := min (q1 - 1024 * k) 1023, need := endRow fa + k + 1, capped := true }

/-- The endpoints of a move that lie in this unit's plan windows; those of another unit are judged there. -/
def Desc.ends (d : Desc) : List Word := moveSrc d :: if Desc.mvKind d = 2 then [] else [moveDst d]

/-- The card records of a pass that the image holds: index, card, bytes. -/
def Draft.cards (p : Draft) (f : Nat) (d : Desc) : List (Nat × Card × List Byte) :=
  if Desc.kind d ≠ 2 then []
  else
    let n := cardBytes (Desc.spForm d) (sparseWindows d)
    (List.range (Desc.spNcard d)).filterMap fun i => (p.com f (Desc.spCtab d + n * i) n).map fun b =>
      (i, cardOfBytes b (if Desc.spForm d = 1 then sparseWindows d else 0), b)

/-- Table rows of a card. -/
def cardRows (d : Desc) (k : Card) : Nat := if Desc.spForm d = 1 then k.r.sum else sparseGroups d

/-- Every row range of a descriptor. -/
def Draft.rowReach (p : Draft) (f c : Nat) (d : Desc) : List RowReach :=
  let own := coreReach f c
  let k := Desc.kind d
  own (Desc.trow d) (Desc.tableRows d) true ++ own (Desc.erow d) (cdiv (Desc.en d) 8) true ++
  (if Desc.xsrc d then
    [{ field := f, lo := 128 * c, hi := 128 * c, capped := true,
       need := Desc.xbase d + (Desc.n d - 1) * Desc.xstride d + (Fmt.ofWord (Desc.fmtX d)).width * cdiv (Desc.k d) 512 }] else []) ++
  ((p.cards f d).map fun x => own x.2.1.trow (cardRows d x.2.1) true ++ own x.2.1.mrow x.2.1.mrows true).flatten ++
  (if k = 9 then ((Desc.ends d).filter (faRegion · = 0)).map (fun e => stripeReach e (moveUnits d)) |>.flatten else []) ++
  (if k = 7 || k = 8 || k = 9 then [] else
    if Desc.dest d = 1 then own (Desc.addr d) (Desc.spanUnits d) false
    else if Desc.dest d = 3 && !Desc.tcom d then coreReach (Desc.dfield d) c (Desc.addr d) (Desc.spanUnits d) false else [])

/-- Every commons range of a descriptor. -/
def Desc.comReach (d : Desc) (f : Nat) : List ComReach :=
  let at_ (off len : Nat) : ComReach := { field := f, off, len }
  let k := Desc.kind d
  let table := k = 1 || k = 2 || k = 3 || k = 5
  let fx := Fmt.ofWord (Desc.fmtX d)
  let vectors := (Desc.n d - 1) * Desc.xstride d + Desc.xBytes d
  (if (table && k ≠ 3 && !Desc.xsrc d) || k = 8 then [at_ (Desc.xbase d) vectors] else []) ++
  (if Desc.mk d then [at_ (Desc.maskK d) (cdiv (Desc.k d) 8)] else []) ++ (if Desc.mo d then [at_ (Desc.maskO d) (16 * Desc.o d)] else []) ++
  (if k ≤ 3 && fx.esc then [at_ (Desc.xsOff d) (8 * Desc.xsN d)] else []) ++
  (if k ≤ 3 && fx.isBsf then [at_ (Desc.xshOff d) (Desc.n d * (cdiv (cdiv (Desc.xsKtot d) fx.groupSize) 64 * 64))] else []) ++
  (if k = 2 then [at_ (Desc.spCtab d) (cardBytes (Desc.spForm d) (sparseWindows d) * Desc.spNcard d)] else []) ++
  (if k = 4 then [at_ (Desc.plOff d) (8 * Desc.plLen d)] else []) ++ (if k = 7 then [at_ (Desc.rtOff d) 2] else []) ++
  (if k = 8 then [at_ (Desc.edProg d) (8 * Desc.edLen d), at_ (Desc.edScr d) (0x4000 * Desc.edNscr d),
      at_ (Desc.edOut d) ((Desc.n d - 1) * Desc.edOstride d + vectorBytes (Fmt.ofWord (Desc.fmtO d)) (Desc.k d))] else []) ++
  (if k = 9 then ((Desc.ends d).filter (faRegion · = 1)).map fun e => { field := faField e, off := faOff e, len := Desc.mvLen d } else
   if k = 7 || k = 8 then [] else
    (if Desc.ftab d then [at_ (Desc.ftabOff d) 512] else []) ++
    (if Desc.dest d = 2 then [at_ (Desc.addr d) (64 * Desc.spanUnits d)]
     else if Desc.dest d = 3 && Desc.tcom d then [{ field := Desc.dfield d, off := Desc.addr d, len := 64 * Desc.spanUnits d }] else []))

/-- R154, R156: commons ranges start at multiples of 64 and stay in the plan's windows; a vector's distance keeps each vector there
a multiple of 64. -/
def Draft.comOk (p : Draft) (f : Nat) (d : Desc) : Bool :=
  (Desc.comReach d f).all (fun r => r.off % 64 = 0 && (match p.part r.field with | some pf => r.off + r.len ≤ pf.comLen | none => false)) &&
  (Desc.xsrc d || Desc.n d ≤ 1 || Desc.xstride d % 64 = 0)

/-- R156, Table 7-4: row ranges stay in fields of the plan; capped ones end by row 4,095. -/
def Draft.rowsOk (p : Draft) (f c : Nat) (d : Desc) : Bool :=
  (p.rowReach f c d).all fun r => (p.part r.field).isSome && (!r.capped || r.need ≤ 4096)

/-- The bulk slots that a descriptor names. -/
def Desc.bulkSlots (d : Desc) : List Nat :=
  if Desc.kind d = 9 then (if 3 ≤ Desc.mvKind d then [moveSlot d] else [])
  else if Desc.kind d = 7 || Desc.kind d = 8 then []
  else if Desc.dest d = 4 then [Desc.addr d / 2 ^ 37 % 16] else []

/-! ### What the image holds (R38, R64, R92, R102, R111, R125, R141, R167, R221, R273) -/

/-- R64: the reserved bits of a table row are 0. -/
def tableRowOk (d : Desc) (w : BitVec 512) : Bool := w >>> (Desc.lanes d * 2 ^ (Desc.g d - 1) * Desc.e d) = 0

/-- R64: the table rows that the image holds, in every BU of a core. -/
def Draft.tablesOk (p : Draft) (f c : Nat) (d : Desc) (first n : Nat) : Bool :=
  (List.range n).all fun i => allBus.all fun u => match p.row f c u (first + i) with | some w => tableRowOk d w | none => true

/-- A side-list entry of a row. -/
def sideEntry (w : BitVec 512) (i : Nat) : Word := w.extractLsb' (64 * i) 64

/-- The entries of a BU's stationary escape region that the image holds, in order. -/
def Draft.escapes (p : Draft) (f c u : Nat) (d : Desc) : List Word :=
  (List.range (Desc.en d)).filterMap fun i => (p.row f c u (Desc.erow d + i / 8)).map fun w => sideEntry w (i % 8)

/-- R41, R167: the rules of a side list that validation judges, on the entries that the image holds. -/
def escapesOk (d : Desc) (es : List Word) : Bool :=
  let pos := es.map fun w => fld w 0 32
  let real := pos.takeWhile (· ≠ 0xFFFFFFFF)
  let pads := pos.drop real.length
  let total := Desc.o d * Desc.k d
  es.all (fun w => fld w 48 16 = 0) && pads.all (· = 0xFFFFFFFF) && (real.zip (real.drop 1)).all (fun p => p.1 < p.2) &&
  real.all (· < total) && (List.range (cdiv total 4096)).all (fun k => (real.filter fun q => q / 4096 = k).length ≤ segmentLimit total k) &&
  (pads.isEmpty || Desc.m d ≤ 0xFFFFFFFF / Desc.k d / Desc.lanes d)

/-- R111: the largest sum of magnitudes that preloads above plane 0 add to one lane: B_hi rows of a settle pass, and bias rows of a
streaming BSF operand where V is above Ab. -/
def Draft.preload (p : Draft) (f c : Nat) (d : Desc) : Nat :=
  let nls := Desc.laneSets d
  let fx := Fmt.ofWord (Desc.fmtX d)
  let groups := if fx.isBsf then (if Desc.vx d = 0 then 0 else cdiv (Desc.k d) fx.groupSize) else if Desc.settle d = 0 then 0 else 1
  if !Desc.msb d || groups = 0 then 0
  else (allBus.map fun u => ((List.range nls).map fun l => ((List.range 16).map fun lane =>
    ((List.range groups).map fun g => match p.row f c u (biasRow d 0 + g * nls + l) with
      | some w => (sext 32 (w.extractLsb' (32 * lane) 32).toNat).natAbs
      | none => 0).sum).foldl max 0).foldl max 0).foldl max 0

/-- Two row ranges of different cards overlap. -/
def cardsApart (d : Desc) (a b : Card) : Bool :=
  !meets a.trow (cardRows d a) b.trow (cardRows d b) && !meets a.mrow a.mrows b.mrow b.mrows &&
  !meets a.trow (cardRows d a) b.mrow b.mrows && !meets a.mrow a.mrows b.trow (cardRows d b)

/-- R12, Table 6-2: the reserved bits of a card record. -/
def cardClean (b : List Byte) (n wins : Nat) : Bool :=
  bytesAt b 4 1 < 64 && bytesAt b 5 1 < 16 && bytesAt b 6 2 < 4096 && bytesAt b 8 2 < 2048 && zeroAt b 12 4 &&
  (n = 16 || zeroAt b (16 + 2 * wins) (n - 16 - 2 * wins))

/-- R141: one card. -/
def cardOk (d : Desc) (k : Card) : Bool :=
  let form1 := Desc.spForm d = 1
  let om := omega (Desc.g d)
  k.lo ≤ k.hi && k.hi ≤ (if form1 then sparseGroups d else 0) && k.r.zipIdx.all (fun p => p.1 ≤ min om (sparseGroups d - om * p.2)) &&
  (!form1 || k.hi ≤ k.r.sum) && k.slot < Desc.m d && k.lanes ≤ Desc.lanes d && 1 ≤ k.mrows && k.mrows ≤ 2048 &&
  (form1 || k.mrows = cdiv (sparseGroups d) 8) && k.trow % 2048 + cardRows d k ≤ 2048 && k.mrow % 2048 + k.mrows ≤ 2048

/-- R141: a card beside one that comes after it: they rise by card.hi, and share no slot and no row. -/
def cardsRise (d : Desc) (a b : Card) : Bool := a.hi ≤ b.hi && a.slot ≠ b.slot && cardsApart d a b

/-- The metadata rows of a card in a BU, where the image holds them all. -/
def Draft.meta (p : Draft) (f c u : Nat) (k : Card) : Option (List (Word × Bool)) :=
  (List.range k.mrows).foldl (fun a i => a.bind fun l =>
    (p.row f c u (k.mrow + i)).map fun w => l ++ wordsOfRow { bits := w }) (some [])

/-- R141, R142: a card by itself, with the rows and the metadata that the image holds, and beside the cards before it. -/
def Draft.cardFine (p : Draft) (f c : Nat) (d : Desc) (ks : List (Nat × Card × List Byte)) (q : Nat × Card × List Byte) : Bool :=
  let wins := if Desc.spForm d = 1 then sparseWindows d else 0
  cardClean q.2.2 (cardBytes (Desc.spForm d) (sparseWindows d)) wins && cardOk d q.2.1 &&
  p.tablesOk f c d q.2.1.trow (cardRows d q.2.1) &&
  (allBus.all fun u => match p.meta f c u q.2.1 with
    | some ws => (match decodeCard (Desc.spForm d) (sparseGroups d) (Desc.g d) (Desc.lanes d) q.2.1 ws with | .ok _ => true | .error _ => false)
    | none => true) &&
  ks.all fun o => q.1 ≤ o.1 || cardsRise d o.2.1 q.2.1

/-- R141: the first card of a pass that breaks a rule, by its index. -/
def Draft.badCard (p : Draft) (f c : Nat) (d : Desc) : Option Nat :=
  let ks := p.cards f d
  (ks.find? fun q => !p.cardFine f c d ks q).map (·.1)

/-- The command words of a BULK_ENGINE that the image holds. -/
def Draft.engineWords (p : Draft) (d : Desc) : List Word :=
  let fa := moveSrc d
  if faRegion fa = 1 then p.comWords (faField fa) (faOff fa) (Desc.mvLen d / 8)
  else ((List.range (moveUnits d)).map fun i =>
    let q := endBu fa + i
    match p.row (faField fa) (q % 1024 / 128) (q % 128) (endRow fa + q / 1024) with
    | some w => (List.range 8).map fun j => sideEntry w j
    | none => []).flatten

/-- R465, R125: the function-table entries that the image holds are writable codes. -/
def Draft.ftabOk (p : Draft) (f : Nat) (d : Desc) : Bool :=
  !(Desc.ftab d && Desc.dest d ≠ 0) ||
    (List.range 256).all fun i => match p.com f (Desc.ftabOff d + 2 * i) 2 with
      | some b => (Fmt.ofWord (Desc.fmtO d)).writable (leNat b)
      | none => true

/-- R55: a BIN streaming operand has a reduction mask of all ones, as far as the image holds it. -/
def Draft.binMaskOk (p : Draft) (f : Nat) (d : Desc) : Bool :=
  !(Desc.mk d && Desc.kind d = 1 && (Fmt.ofWord (Desc.fmtX d)).isBin) ||
    (List.range (Desc.k d)).all fun j => match p.com f (Desc.maskK d + j / 8) 1 with
      | some b => nbit (leNat b) (j % 8)
      | none => true

/-- R12, Table 2-5: the reserved bits of the streaming side-list entries that the image holds. -/
def Draft.streamListOk (p : Draft) (f : Nat) (d : Desc) : Bool :=
  (p.comWords f (Desc.xsOff d) (Desc.xsN d)).all fun w => fld w 48 16 = 0

/-- R151: the elements of a PLANE pass's 2:4 tile, the slots of its DRAIN words in 16 lanes of 128 BUs, as far as the image holds them. -/
def planeTile (d : Desc) (ws : List Word) : Nat := Desc.plRep d * (ws.map fun w => if insOp w = 0x23 then 2048 * drCount w else 0).sum

/-- What the image holds for a pass keeps its rules; its cards are judged apart. -/
def Draft.imageOk (p : Draft) (f c : Nat) (d : Desc) : Bool :=
  let k := Desc.kind d
  ((k ≠ 1 && k ≠ 3) || p.tablesOk f c d (Desc.trow d) ((tableGroups d).length * Desc.laneSets d)) &&
  (3 < k || ((allBus.all fun u => escapesOk d (p.escapes f c u d)) && (!(Fmt.ofWord (Desc.fmtX d)).esc || p.streamListOk f d))) &&
  (2 < k || msbOk d (p.preload f c d)) && p.binMaskOk f d &&
  (k ≠ 4 || (let ws := p.comWords f (Desc.plOff d) (Desc.plLen d)
    ws.all microOk && (Desc.dest d = 0 || Desc.form d ≠ 1 || planeTile d ws ≤ 32768))) &&
  (k ≠ 8 || (p.comWords f (Desc.edProg d) (Desc.edLen d)).all (edgeWordOk (Desc.k d) (Desc.edNscr d))) &&
  (k ≠ 9 || Desc.mvKind d ≠ 4 || (p.engineWords d).all engWordOk) && (k = 7 || k = 8 || k = 9 || p.ftabOk f d)

/-- A breach that validation finds at a pass: field, core and pass index, and the card for a breach of a card table. -/
structure Breach where
  field : Nat
  core : Nat
  pass : Nat
  card : Nat := 0
deriving DecidableEq, Repr

/-! ### Groups (R159, R164, R179, R188) -/

/-- A group open in the walk of a sublist: its register and place, the pass that opened it (none: a microprogram), parts, REDUCE
levels so far, and whether an MSB-first group holds a MAC16 add before its last step. -/
structure OpenGroup where
  grp : Nat
  base : Nat
  rows : Nat
  count : Nat
  pair : Bool
  msb : Bool
  sr : Bool
  opener : Option Desc
  parts : Nat := 1
  level : Option Nat := none
  mac : Bool := false

/-- The group parameters of a descriptor. -/
def Desc.openGroup (d : Desc) : OpenGroup :=
  { grp := Desc.grp d, base := Desc.base d, rows := groupRows (Desc.m d) (Desc.pair d), count := Desc.m d, pair := Desc.pair d,
    msb := Desc.msb d, sr := Desc.sr d, opener := some d, mac := Desc.msb d && Desc.kind d = 5 }

/-- The parameters of a pass that continues a group equal the group's. -/
def OpenGroup.same (g : OpenGroup) (d : Desc) : Bool :=
  g.base = Desc.base d && g.count = Desc.m d && g.pair = Desc.pair d && g.msb = Desc.msb d && g.sr = Desc.sr d

/-- R164, R467: what a REDUCE or DRAIN carries beside them equals what the opening pass has. -/
def OpenGroup.carries (g : OpenGroup) (d : Desc) : Bool :=
  match g.opener with
  | none => true
  | some o => Desc.fmtX d = Desc.fmtX o && Desc.vx d = Desc.vx o && Desc.dbuf d = Desc.dbuf o && Desc.n d = Desc.n o &&
    Desc.o d = Desc.o o && (Desc.kind d ≠ 6 || Desc.rs d = Desc.rs o)

/-- R114: an unsplit reduction over a streaming BSF operand covers it all. -/
def OpenGroup.coversAll (g : OpenGroup) : Bool :=
  match g.opener with
  | some o => g.parts ≠ 1 || g.level.isSome || Desc.kind o ≠ 1 && Desc.kind o ≠ 2 || !(Fmt.ofWord (Desc.fmtX o)).isBsf || Desc.xsKtot o = Desc.k o
  | none => true

/-- Takes a group out of the walk. -/
def closeIn (gs : List OpenGroup) (grp : Nat) : List OpenGroup := gs.filter (·.grp ≠ grp)
/-- Changes an open group. -/
def changeIn (gs : List OpenGroup) (g : OpenGroup) : List OpenGroup := gs.map fun o => if o.grp = g.grp then g else o

/-- R96, R179: a group can open: its register is closed, and no open group shares a word-row. -/
def canOpen (gs : List OpenGroup) (g : OpenGroup) : Bool := gs.all fun o => o.grp ≠ g.grp && !meets o.base o.rows g.base g.rows

/-- One word of a microprogram in the walk (R98, R111). -/
def walkWord (gs : List OpenGroup) (w : Word) : Option (List OpenGroup) :=
  let op := insOp w
  if op = 0x21 then
    let g : OpenGroup := {
      grp := insGrpC w, base := goBase w, rows := groupRows (goCount w) (goPair w), count := goCount w, pair := goPair w,
      msb := goMsb w, sr := goSr w, opener := none }
    if canOpen gs g then some (g :: gs) else none
  else if op = 0x22 then (if gs.any (·.grp = insGrpC w) then some (closeIn gs (insGrpC w)) else none)
  else if op = 0x23 then
    (match gs.find? (·.grp = insGrpC w) with | some g => if drFirst w + drCount w ≤ g.count then some gs else none | none => none)
  else if 0x10 ≤ op && op ≤ 0x15 then
    match gs.find? (·.grp = insGrpB w) with
    | none => none
    | some g =>
      let steps := insSh w && (op = 0x10 || op = 0x12)
      let adds := op = 0x12 && !(insMode w = 0 && insImm16 w = 0)
      if g.count ≤ insSlot w || (g.pair && (op = 0x14 || op = 0x15) && insSlot w % 2 ≠ 0) ||
          (op = 0x15 && !g.pair && g.count ≤ insSlot w + 1) || (steps && g.mac) then none
      else some (if adds && g.msb then changeIn gs { g with mac := true } else gs)
  else some gs

/-- The words of a microprogram in the walk. -/
def walkWords (gs : List OpenGroup) (ws : List Word) : Option (List OpenGroup) := ws.foldl (fun a w => a.bind fun g => walkWord g w) (some gs)

/-- The rank of a core among a REDUCE's participants, where it is one; `unit` the fabric ordinal. -/
def reduceRank (unit f c : Nat) (d : Desc) : Option Nat :=
  (reduceParts d).findIdx? (· = (match Desc.rdLevel d with | 0 => c | 1 => f | _ => unit))

/-- One pass of a sublist in the walk: the groups open after it, or none where it breaks a rule. -/
def Draft.walkPass (p : Draft) (unit f c : Nat) (gs : List OpenGroup) (d : Desc) : Option (List OpenGroup) :=
  let k := Desc.kind d
  let grp := Desc.grp d
  let after (l : List OpenGroup) : List OpenGroup := if Desc.dest d ≠ 0 then closeIn l grp else l
  let closing (g : OpenGroup) : Bool := Desc.dest d = 0 || g.coversAll
  if k = 1 || k = 2 || k = 5 then
    if Desc.opens d then
      let g := Desc.openGroup d
      if canOpen gs g && closing g then some (after (g :: gs)) else none
    else match gs.find? (·.grp = grp) with
      | none => none
      | some g =>
        let g' := { g with parts := g.parts + 1, mac := g.mac || (Desc.msb d && k = 5) }
        -- R111: in an MSB-first group no MAC16 add stands before a later step
        if g.same d && closing g' && !(g.mac && k ≠ 5 && 1 < Desc.v d) then some (after (changeIn gs g')) else none
  else if k = 3 then match gs.find? (·.grp = grp) with
    | none => none
    | some g => if g.same d && closing g then some (after gs) else none
  else if k = 10 then match gs.find? (·.grp = grp) with
    | none => none
    | some g => if g.same d && g.carries d && g.coversAll then some (closeIn gs grp) else none
  else if k = 6 then match gs.find? (·.grp = grp), reduceRank unit f c d with
    | some g, some r =>
      if g.same d && g.carries d && (match g.level with | some l => l < Desc.rdLevel d | none => true) then
        some (if r = 0 then after (changeIn gs { g with level := some (Desc.rdLevel d) }) else closeIn gs grp)
      else none
    | _, _ => none
  else if k = 4 then
    let ws := p.comWords f (Desc.plOff d) (Desc.plLen d)
    if ws.length = Desc.plLen d then
      (walkWords gs ws).bind fun g => if Desc.plRep d = 1 then some g else walkWords g ws
    else some gs
  else if k = 7 then (if gs.isEmpty then some gs else none)
  else some gs

/-- The passes of a segment in a core, with their indices. -/
def PlanField.segDescs (pf : PlanField) (seg c : Nat) : List (Nat × Desc) := (pf.segRun seg c).map fun i => (i, pf.desc i)

/-- The walk of a segment's passes in a core: the breach at the first pass that breaks a rule, or at the last where a group is left open. -/
def Draft.walk (p : Draft) (unit : Nat) (f c : Nat) : List OpenGroup → Nat → List (Nat × Desc) → Option Breach
  | gs, last, [] => if gs.isEmpty then none else some { field := f, core := c, pass := last }
  | gs, _, q :: t => match p.walkPass unit f c gs q.2 with
    | some gs' => Draft.walk p unit f c gs' q.1 t
    | none => some { field := f, core := c, pass := q.1 }

/-- R159, R164, R188: the group lifetimes of a segment in a core; no group is open at its end. -/
def Draft.walkBreach (p : Draft) (unit : Nat) (pf : PlanField) (seg c : Nat) : Option Breach :=
  p.walk unit pf.field c [] 0 (pf.segDescs seg c)

/-! ### Routes and dependencies (R157, R158) -/

/-- R158: a controlled pass names a ROUTE of its sublist, `j` passes into which it stands, in every segment with it. -/
def routeOk? (pf : PlanField) (c first j : Nat) : Bool :=
  let i := first + j
  let d := pf.desc i
  let b := Desc.back d
  b = 0 || (b ≤ j && Desc.kind (pf.desc (i - b)) = 7 && Desc.arm d < Desc.rtArms (pf.desc (i - b)) &&
    (List.range pf.segs.length).all fun g => !(pf.segRun g c).contains i || (pf.segRun g c).contains (i - b))

/-- R157: dependencies name passes of fields of the plan. -/
def Draft.depsOk (p : Draft) (d : Desc) : Bool :=
  (Desc.deps d).all fun q => match p.part q.1 with | some pf => q.2 < pf.passes | none => false

/-- A REDUCE of a segment: field, core, pass, its level, participants, ordinal, and rank; the range of the whole reduction that its core
adds to the group, where one pass alone does (R164), and the pass of an earlier REDUCE of the group. -/
structure TreePass where
  f : Nat
  c : Nat
  idx : Nat
  d : Desc
  ordinal : Nat
  rank : Nat
  ktot : Nat
  part : Option (Nat × Nat) := none
  lower : Option Nat := none

/-- What tells the participants of a level apart: the core of a field, the field, or the unit. -/
def TreePass.place (t : TreePass) : Nat := match Desc.rdLevel t.d with | 0 => t.f * 8 + t.c | 1 => t.f | _ => 0

/-- pass.xs_ktot of the pass that opened the group a pass of a list continues. -/
def openerKtot (ds : List (Nat × Desc)) (idx grp : Nat) : Nat :=
  (((ds.takeWhile (·.1 ≠ idx)).reverse.find? fun q => Desc.opens q.2 && Desc.grp q.2 = grp && Desc.kind q.2 ≤ 5).map fun q =>
    if Desc.kind q.2 ≤ 2 then Desc.xsKtot q.2 else 0).getD 0

/-- The passes of a list from the one that opened a group on, before a pass: those on its register. -/
def groupPasses (ds : List (Nat × Desc)) (idx grp : Nat) : List (Nat × Desc) :=
  let own := (ds.takeWhile (·.1 ≠ idx)).filter fun q => Desc.grp q.2 = grp && [1, 2, 5, 6].contains (Desc.kind q.2)
  (own.reverse.foldl (fun (a : List (Nat × Desc) × Bool) q =>
    if a.2 then a else (q :: a.1, Desc.kind q.2 ≤ 5 && Desc.opens q.2)) ([], false)).1

/-- The part of the whole reduction that a group's passes cover, where one table or MAC16 pass alone adds to it. -/
def groupPart (ds : List (Nat × Desc)) : Option (Nat × Nat) :=
  match ds.filter fun q => Desc.kind q.2 ≤ 5 with
  | [q] => some (Desc.kbase q.2, Desc.k q.2)
  | _ => none

/-- R164: the REDUCE passes of a segment in list order, with their ordinals. -/
def Draft.reduces (p : Draft) (unit seg : Nat) : List TreePass :=
  ((p.parts.map fun pf => (allCores.map fun c => (pf.segDescs seg c).filterMap fun q =>
    if Desc.kind q.2 = 6 then some ({
        f := pf.field, c, idx := q.1, d := q.2, ordinal := 0
        rank := (reduceRank unit pf.field c q.2).getD 0
        ktot := openerKtot (pf.segDescs seg c) q.1 (Desc.grp q.2)
        part := groupPart (groupPasses (pf.segDescs seg c) q.1 (Desc.grp q.2))
        lower := ((groupPasses (pf.segDescs seg c) q.1 (Desc.grp q.2)).filter fun o => Desc.kind o.2 = 6).getLast?.map (·.1) } : TreePass) else none).flatten).flatten).foldl (fun l t =>
    l ++ [{ t with ordinal := (l.filter fun o =>
      o.place = t.place && Desc.rdLevel o.d = Desc.rdLevel t.d && reduceKey o.d = reduceKey t.d).length }]) []

/-- The passes of one tree of a level, in this unit. -/
def sameTree (a b : TreePass) : Bool :=
  Desc.rdLevel a.d = Desc.rdLevel b.d && reduceKey a.d = reduceKey b.d && a.ordinal = b.ordinal && (Desc.rdLevel a.d ≠ 0 || a.f = b.f)

/-- Bytes 0 to 63 and 80 to 127 of a descriptor (R164). -/
def reduceBody (d : Desc) : Nat × Nat := (fld d 0 512, fld d 640 384)

/-- The ranges of the whole reduction that stand in a participant's slots at a REDUCE, none where a part of it is not one pass: its own
part, and those of the trees below that its core was the root of. -/
def TreePass.spans (ts : List TreePass) : Nat → TreePass → Option (List (Nat × Nat))
  | 0, _ => none
  | fuel + 1, t => match t.lower.bind fun i => ts.find? fun o => o.f = t.f && o.idx = i with
    | none => t.part.map fun q => [q]
    | some o => (ts.filter (sameTree o)).foldl (fun a x => match a, TreePass.spans ts fuel x with
        | some l, some r => some (l ++ r)
        | _, _ => none) (some [])

/-- Ranges in ascending order. -/
def rangesSorted (l : List (Nat × Nat)) : List (Nat × Nat) :=
  l.foldl (fun a x => a.takeWhile (fun y => y.1 ≤ x.1) ++ x :: a.dropWhile (fun y => y.1 ≤ x.1)) []

/-- R164: the ranges are disjoint; `whole` that they also leave no gap. -/
def rangesTile (whole : Bool) : List (Nat × Nat) → Bool
  | a :: b :: t => (a.1 + a.2 = b.1 || (!whole && a.1 + a.2 < b.1)) && rangesTile whole (b :: t)
  | _ => true

/-- No REDUCE of this unit takes a tree's result further, and no other unit does. -/
def topTree (ts tree : List TreePass) : Bool :=
  tree.all (fun x => Desc.rdLevel x.d < 2) && !ts.any fun o => tree.any fun x => o.f = x.f && o.lower = some x.idx

/-- R128, R164: every participant of this unit lists a tree's REDUCE once, alike, and the parts cover disjoint ranges, together
contiguous ones once the tree has them all. -/
def treeOk (ts : List TreePass) (t : TreePass) : Bool :=
  let tree := ts.filter (sameTree t)
  tree.all (fun o => reduceBody o.d = reduceBody t.d && o.ktot = t.ktot) &&
  (match tree.foldl (fun (a : Option (List (Nat × Nat))) x => match a, x.spans ts 3 with
      | some l, some r => some (l ++ r)
      | _, _ => none) (some []) with
    | some l => rangesTile (topTree ts tree) (rangesSorted l)
    | none => true) &&
  (match Desc.rdLevel t.d with
    | 0 => (reduceParts t.d).all fun c => (tree.filter (·.c = c)).length = 1
    | 1 => (reduceParts t.d).all fun f => (tree.filter (·.f = f)).length = 1
    | _ => tree.length = 1)

/-- The breach at the first REDUCE whose tree breaks a rule. -/
def treeBreach (ts : List TreePass) : Option Breach :=
  (ts.find? fun t => !treeOk ts t).map fun t => { field := t.f, core := t.c, pass := t.idx }

/-- What a segment's waits stand between: the start, the sent operand and the commit of a pass. -/
inductive Wait where
  | start (f i : Nat)
  | sent (f i : Nat)
  | commit (f i : Nat)
deriving DecidableEq, Repr

/-- R126: the ranks whose operands a rank waits for, below `n`, from round `k` on. -/
def waitsForRanks (r n : Nat) : Nat → Nat → List Nat
  | 0, _ => []
  | fuel + 1, k =>
    if n ≤ 2 ^ k || r / 2 ^ k % 2 = 1 then [] else (if r + 2 ^ k < n then [r + 2 ^ k] else []) ++ waitsForRanks r n fuel (k + 1)

/-- R157: what each start, operand and commit of a segment waits for. A REDUCE acts once it is the head of its core. -/
def Draft.waits (p : Draft) (ts : List TreePass) (seg : Nat) : List (Wait × List Wait) :=
  let inSeg (q : Nat × Nat) : Bool := match p.part q.1 with | some pf => allCores.any fun c => (pf.segRun seg c).contains q.2 | none => false
  (p.parts.map fun pf => (allCores.map fun c =>
    let run := pf.segRun seg c
    (run.zipIdx.map fun q =>
      let f := pf.field
      let i := q.1
      let prev : List Nat := if q.2 = 0 then [] else [run.getD (q.2 - 1) 0]
      let d := pf.desc i
      let partners : List Wait := match ts.find? fun t => t.f = f && t.idx = i with
        | none => []
        | some t => (waitsForRanks t.rank (reduceParts d).length 17 0).filterMap fun r =>
            (ts.find? fun o => sameTree t o && o.rank = r && Desc.rdLevel d ≤ 1).map fun o => Wait.sent o.f o.idx
      [(Wait.start f i, prev.map (Wait.start f) ++ ((Desc.deps d).filter inSeg).map fun x => Wait.commit x.1 x.2),
       (Wait.sent f i, Wait.start f i :: prev.map (Wait.commit f) ++ partners),
       (Wait.commit f i, Wait.sent f i :: prev.map (Wait.commit f))]).flatten).flatten).flatten

/-- Rounds in which every wait that can end ends. -/
def waitsEnd : Nat → List (Wait × List Wait) → List (Wait × List Wait)
  | 0, l => l
  | fuel + 1, l => waitsEnd fuel (l.filter fun x => x.2.any fun w => l.any (·.1 = w))

/-- R157: no cycle of waits. -/
def Draft.acyclic (p : Draft) (ts : List TreePass) (seg : Nat) : Bool := let w := p.waits ts seg; (waitsEnd w.length w).isEmpty

/-! ### Segments and output regions (R172, R315, R353) -/

/-- A pass owns output regions: it drains to a host ring, and as the root where it is a REDUCE. -/
def hostDrain (unit f c : Nat) (d : Desc) : Bool :=
  let k := Desc.kind d
  k ≠ 7 && k ≠ 8 && k ≠ 9 && Desc.dest d = 5 && (k ≠ 6 || reduceRank unit f c d = some 0)

/-- The host drains of a segment in list order. -/
def Draft.hostDrains (p : Draft) (unit seg : Nat) : List OutRegion :=
  (p.parts.map fun pf => (allCores.map fun c => (pf.segDescs seg c).filterMap fun q =>
    if hostDrain unit pf.field c q.2 then some {
        seg, ring := Desc.addr q.2, field := pf.field, pass := q.1
        vecs := max (Desc.n q.2) 1, bytes := 64 * Desc.limit q.2, off := 0 } else none).flatten).flatten

/-- R315, R353: the regions of a segment, by ring index, field, pass and vector, with their offsets. -/
def Draft.regions (p : Draft) (unit seg : Nat) : List OutRegion :=
  let hs := p.hostDrains unit seg
  (((List.range 64).map fun r => hs.filter (·.ring = r)).flatten.foldl (fun (a : List OutRegion × Nat) h =>
    (a.1 ++ [{ h with off := a.2 }], a.2 + h.vecs * h.bytes)) ([], 0)).1

/-- The segments of an image (R172, R353). -/
def Image.segments (x : Image) : List (Segment × Bool) :=
  (List.range x.nseg).map fun i =>
    let o := x.segOff + 32 * i
    ({
       inLen := bytesAt x.bytes o 8, outLen := bytesAt x.bytes (o + 8) 8, inField := bytesAt x.bytes (o + 16) 1
       inOff := bytesAt x.bytes (o + 20) 4 }, zeroAt x.bytes (o + 17) 3 && zeroAt x.bytes (o + 24) 8)

/-- R315, R353, R354: a segment's input range and output regions. -/
def Draft.segOk (p : Draft) (unit : Nat) (g : Segment × Bool) (seg : Nat) : Bool :=
  let rs := p.regions unit seg
  g.2 && g.1.inOff % 64 = 0 && (match p.part g.1.inField with | some pf => g.1.inOff + g.1.inLen ≤ pf.comLen | none => false) &&
  g.1.outLen = (rs.map fun r => r.vecs * r.bytes).sum && (rs.all (·.ring = 0) || rs.all (·.ring ≠ 0)) &&
  (rs.all (·.ring = 0) || (nbit p.x.flags 2 && 64 ≤ g.1.inLen && g.1.inLen ≤ 65536 && 64 ≤ g.1.outLen && g.1.outLen ≤ 65472))

/-- R354: a pass that a cadence segment may hold. -/
def Draft.cadencePass (p : Draft) (seg : Nat) (d : Desc) : Bool :=
  Desc.kind d ≠ 7 && (Desc.kind d ≠ 6 || Desc.rdLevel d ≠ 2) && (Desc.kind d ≠ 9 || Desc.mvKind d = 1) &&
  (Desc.deps d).all fun x => match p.part x.1 with | some o => allCores.any fun k => (o.segRun seg k).contains x.2 | none => false

/-- The breach at the first pass that a cadence segment may not hold. -/
def Draft.cadenceBreach (p : Draft) (seg : Nat) : Option Breach :=
  p.parts.findSome? fun pf => allCores.findSome? fun c => (pf.segDescs seg c).findSome? fun q =>
    if p.cadencePass seg q.2 then none else some { field := pf.field, core := c, pass := q.1 }

/-! ### The Almanac (R351, R352) -/

/-- The Almanacs of a section, none where it breaks its layout; `cad` that a segment is a cadence segment. -/
def almanacsOf (b : List Byte) (cad : Nat → Bool) : Option (List (List AlmEntry)) :=
  let n := bytesAt b 0 2
  let dir := (List.range n).map fun i => (bytesAt b (8 + 8 * i) 4, bytesAt b (12 + 8 * i) 2, zeroAt b (14 + 8 * i) 2)
  let entry (o : Nat) : AlmEntry × Bool :=
    ({ seg := bytesAt b o 2, deadline := bytesAt b (o + 2) 1, occupy := bytesAt b (o + 4) 4, budget := bytesAt b (o + 8) 4 },
     zeroAt b (o + 3) 1 && zeroAt b (o + 12) 4)
  let ok := 1 ≤ n && n ≤ 64 && zeroAt b 2 6 && dir.zipIdx.all fun q =>
    q.1.1 % 16 = 0 && 1 ≤ q.1.2.1 && q.1.2.1 ≤ 256 && q.1.2.2 && 8 + 8 * n ≤ q.1.1 && q.1.1 + 16 * q.1.2.1 ≤ b.length &&
    (dir.take q.2).all fun o => !meets o.1 (16 * o.2.1) q.1.1 (16 * q.1.2.1)
  let all := dir.map fun q => (List.range q.2.1).map fun i => entry (q.1 + 16 * i)
  if ok && all.all (fun l => l.all fun e => e.2 && 1 ≤ e.1.deadline && e.1.deadline ≤ 3 && 1 ≤ e.1.occupy && 1 ≤ e.1.budget &&
      (e.1.seg = 0xFFFF || cad e.1.seg)) then some (all.map fun l => l.map (·.1)) else none

/-! ### Steps 4 to 6 (R177 to R179) -/

/-- The draft of an image that has passed step 2, none where a field part or an extent breaks its layout. -/
def Image.draft (x : Image) : Option Draft :=
  let parts := x.fields.map x.part
  let exts := x.fields.map x.extents
  if parts.all (·.isSome) && exts.all (·.isSome) &&
      (parts.zip exts).all fun q => match q.1, q.2 with | some pf, some es => x.partOk pf es | _, _ => false then
    some { x, parts := parts.filterMap id, exts := (exts.filterMap id).flatten, segs := x.segments.map (·.1) }
  else none

/-- The rows that a BU of a field needs (R177). -/
def Draft.need (p : Draft) (rs : List RowReach) (f q : Nat) : Nat :=
  max (rs.foldl (fun n r => if r.field = f && r.lo ≤ q && q ≤ r.hi then max n r.need else n) 0)
    (p.exts.foldl (fun n e => if !e.commons && e.field = f && e.core = q / 128 && (e.bu = q % 128 || e.bu = 0xFF) && e.len ≠ 0 then
      max n (e.pos + e.len) else n) 0)

/-- Every row range of the plan. -/
def Draft.allReach (p : Draft) : List RowReach :=
  (p.parts.map fun pf => (pf.cores.zipIdx.map fun k => ((List.range k.1.2).map fun j =>
    p.rowReach pf.field k.2 (pf.desc (k.1.1 + j))).flatten).flatten).flatten

/-- Step 4: the first breach of a pass of a field, in list order. -/
def Draft.passBreach (p : Draft) (pf : PlanField) : Option Breach :=
  pf.cores.zipIdx.findSome? fun k => (List.range k.1.2).findSome? fun j =>
    let i := k.1.1 + j
    let d := pf.desc i
    let b : Breach := { field := pf.field, core := k.2, pass := i }
    if descShapeOk d && p.comOk pf.field d && p.rowsOk pf.field k.2 d && p.depsOk d && routeOk? pf k.2 k.1.1 j && p.imageOk pf.field k.2 d then
      (p.badCard pf.field k.2 d).map fun n => { b with card := n }
    else some b

/-- R12: the reserved bytes of the header, the section table and the signature section. -/
def Image.clean (x : Image) : Bool :=
  x.flags < 8 && zeroAt x.bytes 48 204 && x.sects.all (·.clean) &&
  (x.ofType 6).all fun g => let d := sliceAt x.bytes g.off 128; zeroAt d 5 3 && zeroAt d 104 24

/-- R177: fc.rows covers every BU's need; a need above 4,096 is left to step 6, as the worked case of the chapter shows. -/
def Draft.rowsCover (p : Draft) (pf : PlanField) (rs : List RowReach) : Bool :=
  (List.range 1024).all fun q => min (p.need rs pf.field q) 4096 ≤ pf.rows

/-- The Almanacs of the plan (R351, R354). -/
def Draft.almanacs (p : Draft) (unit : Nat) : Option (List (List AlmEntry)) :=
  let cads := (List.range p.x.nseg).map fun g => (p.regions unit g).any (·.ring ≠ 0)
  match p.x.ofType 5 with
  | a :: _ => if nbit p.x.flags 2 then almanacsOf (sliceAt p.x.bytes a.off a.len) (fun g => cads.getD g false) else none
  | [] => if nbit p.x.flags 2 then none else some []

/-- What step 4 of Table 7-10 finds: nothing, a breach that names its pass, or another one. -/
inductive Step4 where
  | fine
  | at_ (b : Breach)
  | other
deriving DecidableEq, Repr

/-- The first breach of a segment: groups, trees, then what a cadence segment may not hold. -/
def Draft.segBreach (p : Draft) (unit seg : Nat) : Option Breach :=
  let cad := !(p.regions unit seg).all (·.ring = 0)
  ((p.parts.findSome? fun pf => allCores.findSome? fun c => p.walkBreach unit pf seg c).orElse fun _ =>
    treeBreach (p.reduces unit seg)).orElse fun _ => if cad then p.cadenceBreach seg else none

/-- Step 4 of Table 7-10; `unit` the unit's fabric ordinal. -/
def Draft.step4 (p : Draft) (unit : Nat) : Step4 :=
  let rs := p.allReach
  match (p.parts.findSome? p.passBreach).orElse fun _ => (List.range p.x.nseg).findSome? (p.segBreach unit) with
  | some b => .at_ b
  | none =>
    if p.x.clean && p.parts.all (fun pf => p.rowsCover pf rs) && (p.almanacs unit).isSome &&
        (p.x.segments.zipIdx.all fun g => p.segOk unit g.1 g.2 && p.acyclic (p.reduces unit g.2) g.2) then .fine
    else .other

/-- The bulk slots that a plan names. -/
def Draft.bulkSlots (p : Draft) : List Nat := (p.parts.map fun pf => (pf.descs.map Desc.bulkSlots).flatten).flatten.eraseDups

/-! ### Windows (R177) -/

/-- The windows of resident plans in a field: first and length, of rows or of commons. -/
def State.windows (s : State) (f : Nat) (commons : Bool) : List (Nat × Nat) :=
  s.plans.filterMap fun p => (p.2.inField f).map fun pf => if commons then (pf.comBase, pf.comLen) else (pf.rowBase, pf.rows)

/-- Where a window could start: at 0 and after each window taken. -/
def starts (ws : List (Nat × Nat)) : List Nat := 0 :: ws.map fun w => w.1 + w.2

/-- The free length from a position, in a space of `total`. -/
def freeFrom (ws : List (Nat × Nat)) (total a : Nat) : Nat :=
  if ws.any fun w => w.1 ≤ a && a < w.1 + w.2 then 0
  else (ws.foldl (fun n w => if a ≤ w.1 && w.2 ≠ 0 then min n w.1 else n) total) - a

/-- The largest free window. -/
def largestFree (ws : List (Nat × Nat)) (total : Nat) : Nat := ((starts ws).map (freeFrom ws total)).foldl max 0

/-- The lowest position at which `n` fit. -/
def lowestFit (ws : List (Nat × Nat)) (total n : Nat) : Option Nat :=
  (starts ws).foldl (fun b a => if n ≤ freeFrom ws total a then (match b with | some x => some (min x a) | none => some a) else b) none

/-- Step 6 of Table 7-10 (R179): the CAPACITY detail of the first refusal. DESIGN CHOICE: where the windows fit every BU's need but not
fc.rows, and for accumulator word-rows, no one BU is named, and the amounts are fc.rows and the largest window, or one past the last
word-row and 32 (log entry 103). -/
def Draft.step6 (p : Draft) (s : State) : Option (List Byte) :=
  let rs := p.allReach
  let first {α : Type} (l : List α) (f : α → Option (List Byte)) : Option (List Byte) := l.foldl (fun b a => match b with | some x => some x | none => f a) none
  let rows := first p.parts fun pf =>
    let free := largestFree (s.windows pf.field false) rowsTotal
    match (List.range 1024).find? fun q => free < p.need rs pf.field q with
    | some q => some (capDetail 0x01 pf.field (q / 128) (q % 128) (p.need rs pf.field q) free)
    | none => if free < pf.rows then some (capDetail 0x01 pf.field 0xFF 0xFF pf.rows free) else none
  let coms := first p.parts fun pf =>
    let free := largestFree (s.windows pf.field true) commonsTotal
    if free < pf.comLen then some (capDetail 0x03 pf.field 0xFF 0xFF pf.comLen free) else none
  let accs := first p.parts fun pf => first pf.cores.zipIdx fun k => first (List.range k.1.2) fun j =>
    let d := pf.desc (k.1.1 + j)
    let top := Desc.base d + groupRows (Desc.m d) (Desc.pair d)
    let kd := Desc.kind d
    if (kd ≤ 3 || kd = 5 || kd = 6 || kd = 10) && 32 < top then some (capDetail 0x02 pf.field k.2 0xFF top 32) else none
  let lists := first p.parts fun pf => if 65536 < pf.passes then some (capDetail 0x04 pf.field 0xFF 0xFF pf.passes 65536) else none
  match rows with
  | some x => some x
  | none => match coms with
    | some x => some x
    | none => match accs with
      | some x => some x
      | none => lists

end Sys2Proof.Machine
end

