-- ==== Sys2Proof/Machine/Plans.lean ====
section
/-! DEFINITION. The plan messages (R309, R310, R177 to R179; Table 13-6): loading, sealing, unloading and naming a plan. -/

namespace Sys2Proof.Machine

/-! ### Loading (R177, R178) -/

/-- Gives each part its windows, at the lowest position at which each fits (R177). -/
def State.placeWindows (s : State) (pf : PlanField) : PlanField :=
  { pf with
    rowBase := (lowestFit (s.windows pf.field false) rowsTotal pf.rows).getD 0
    comBase := (lowestFit (s.windows pf.field true) commonsTotal pf.comLen).getD 0 }

/-- 64-bit words of an image. -/
def imageWords (b : List Byte) (off n : Nat) : List (Word × Bool) :=
  (List.range n).map fun i => (BitVec.ofNat 64 (bytesAt b (off + 8 * i) 8), false)

/-- Writes an extent into the windows of a part. -/
def State.writeExtent (s : State) (b : List Byte) (pf : PlanField) (e : Extent) : State :=
  if e.commons then s.writeWords (commonsAddr pf.field + (pf.comBase + e.pos) / 8) (imageWords b e.off (e.len / 8))
  else (if e.bu = 0xFF then allBus else [e.bu]).foldl (fun s u =>
    s.writeWords (rowAddr pf.field e.core u (pf.rowBase + e.pos)) (imageWords b e.off (8 * e.len))) s

/-- R169: writes a field's pass list at offset 0 of its commons window. -/
def State.writeList (s : State) (pf : PlanField) : State :=
  s.writeWords (commonsAddr pf.field + pf.comBase / 8)
    (pf.descs.map fun d => (List.range 16).map fun i => (d.extractLsb' (64 * i) 64, false)).flatten

/-- Loads a field's part: sleeping cores whose rows it writes wake. -/
def State.loadPart (s : State) (b : List Byte) (exts : List Extent) (pf : PlanField) : State :=
  exts.foldl (fun s e => if e.field = pf.field then
    (if e.commons then s else s.wakeCore e.field e.core).writeExtent b pf e else s) (s.writeList pf)

/-- The lowest plan index that is free. -/
def State.freePlan (s : State) : Nat := ((List.range (s.plans.length + 1)).find? fun i => (s.plan i).isNone).getD s.plans.length

/-- The plan that a validated draft makes. -/
def Draft.toPlan (p : Draft) (s : State) (owner gen addr : Nat) : Plan :=
  let unit := s.ordinal
  let segs := p.segs.zipIdx.map fun g => { g.1 with cadence := (p.regions unit g.2).any (·.ring ≠ 0) }
  { owner, gen, flags := p.x.flags, seed := p.x.seed, segs, fields := p.parts.map s.placeWindows,
    almanacs := (p.almanacs unit).getD [], regions := ((List.range segs.length).map (p.regions unit)).flatten, extents := p.exts,
    slots := p.bulkSlots,
    reduces := ((List.range segs.length).map fun g => (p.reduces unit g).map fun t => (g, t.f, t.idx, t.ordinal)).flatten,
    addr, len := p.x.bytes.length, sects := p.x.sects.map fun e => (e.type, e.field, e.off, e.len, e.crc) }

/-- Loads a validated plan. Answers its index. -/
def State.loadPlan (s : State) (p : Draft) (owner addr : Nat) : State × Nat :=
  let i := s.freePlan
  let pl := p.toPlan s owner (Sparse.get 0 s.planGens i) addr
  let t := pl.fields.foldl (fun s pf => s.loadPart p.x.bytes p.exts pf) s
  ({ t with plans := Sparse.put t.plans i pl }, i)

/-- A refusal that names a pass: a CONTAINED record with the field, the core and the pass index, and the card for a card table. DESIGN
CHOICE: the result of a refusal is 0 (R305), so the record is where they are named (log entry 96). -/
def State.refusePass (s : State) (q : Nat) (b : Breach) : State :=
  s.logFault {
    code := stMALFORMED, cls := 2, part := 7, field := b.field, core := b.core, pass := b.pass
    detail := leBytes 1 (if q < 1024 then s.ownerOf q else 0xFF) ++ leBytes 1 0 ++ leBytes 2 q ++ leBytes 8 b.card }

/-- Steps 2 to 6 of Table 7-10 on a plan image of source `q` whose step 1 passed: the status, with the CAPACITY detail or the draft. -/
def State.validatePlan (s : State) (q : Nat) (cfg : Config) (x : Image) : Except (State × Nat × List Byte) Draft :=
  if !planStep2 x then .error (s, stMALFORMED, [])
  else if !planStep3 x cfg then .error (s, stSEAL_REQUIRED, [])
  else match x.draft with
    | none => .error (s, stMALFORMED, [])
    | some p =>
      match p.step4 s.ordinal with
      | .at_ b => .error (s.refusePass q b, stMALFORMED, [])
      | .other => .error (s, stMALFORMED, [])
      | .fine =>
      if x.fields.any (fun f => (s.field f).health ≠ .healthy) then .error (s, stFIELD_LOST, [])
      else if p.bulkSlots.any (fun i => !s.slotUp i) then let r := s.slotCapacity; .error (r.1, stCAPACITY, r.2)
      else match p.step6 s with
        | some d => .error (s, stCAPACITY, d)
        | none => .ok p

/-- PLAN_LOAD (R309). -/
def planLoadMsg (rd : DmaRead) (m : Msg) (s : State) : State :=
  match s.active with
  | none => s.finish m stHELD []
  | some cfg => match s.payload m (descAt m.entry 16) rd with
    | .error st => s.finish m st []
    | .ok b =>
      if !planStep1 b then s.finish m stMALFORMED []
      else if (imageOf b).fields.any (fun f => (s.field f).diag) then s.finish m stIN_USE []
      else match s.validatePlan m.id.src cfg (imageOf b) with
        | .error e => e.1.finish m e.2.1 e.2.2
        | .ok p =>
          let r := s.loadPlan p m.id.src (descAt m.entry 16).addr
          r.1.finish m stOK (leBytes 8 (match r.1.plan r.2 with | some q => (q.handle r.2).toNat | none => 0) ++
            leBytes 2 p.x.flags ++ leBytes 2 p.x.nseg)

/-- PLAN_LOAD. -/
def execPlanLoad (m : MsgId) (rd : DmaRead) (s : State) : Host.Outcome State Fault Refusal :=
  onMsg 0x0301 [.freeCtr, .mem, .cores, .log] m (planLoadMsg rd) s

/-! ### Sealing, unloading, naming -/

/-- PLAN_SEAL. -/
def planSealMsg (m : Msg) (s : State) : State :=
  let i := hIndex (sqHandle m.entry)
  match s.plan i with
  | none => s.finish m stOUT_OF_RANGE []
  | some p =>
    if p.owner ≠ m.id.src then s.finish m stNOT_OWNER []
    else State.finish { s with plans := Sparse.put s.plans i { p with sealed := true } } m stOK []

/-- PLAN_SEAL. -/
def execPlanSeal (m : MsgId) (s : State) : Host.Outcome State Fault Refusal := onMsg 0x0302 [] m planSealMsg s

/-- R310: a job of the plan has passed its checks and not completed, or a stream is armed on it. -/
def State.planBusy (s : State) (i : Nat) : Bool :=
  s.jobs.any (·.plan = i) || s.streams.any fun q => q.2.plan = i && (q.2.claims || !q.2.ticks.isEmpty)

/-- R197: every predictor is cleared. -/
def State.clearPredictors (s : State) : State :=
  { s with cores := s.cores.foldl (fun m p => Sparse.set {} m p.1 { p.2 with predictor := [] }) [] }

/-- R310: a plan's windows are free, with unspecified contents, its handle is dead, and so are those of streams halted on it. -/
def State.unloadPlan (s : State) (i : Nat) (p : Plan) : State :=
  let t := p.fields.foldl (fun s pf =>
    (s.unspecify (rowAddr pf.field 0 0 0) (rowAddr pf.field 0 0 0 + 0x2000000) pf.rowBase (pf.rowBase + pf.rows)).unspecify
      (commonsAddr pf.field + pf.comBase / 8) (commonsAddr pf.field + (pf.comBase + pf.comLen) / 8) 0 4096) s
  State.clearPredictors { t with
    plans := Sparse.del t.plans i
    planGens := Sparse.set 0 t.planGens i ((p.gen + 1) % 65536)
    streamGens := (t.streams.filter (·.2.plan = i)).foldl (fun g q => Sparse.set 0 g q.1 ((q.2.gen + 1) % 65536)) t.streamGens
    streams := t.streams.filter fun q => decide (q.2.plan ≠ i) }

/-- PLAN_UNLOAD. -/
def planUnloadMsg (m : Msg) (s : State) : State :=
  let i := hIndex (sqHandle m.entry)
  match s.plan i with
  | none => s.finish m stOUT_OF_RANGE []
  | some p =>
    if p.owner ≠ m.id.src then s.finish m stNOT_OWNER []
    else if s.planBusy i then s.finish m stIN_USE []
    else (s.unloadPlan i p).finish m stOK []

/-- PLAN_UNLOAD. -/
def execPlanUnload (m : MsgId) (s : State) : Host.Outcome State Fault Refusal :=
  onMsg 0x0303 [.freeCtr, .mem, .cores, .planGens, .streamGens] m planUnloadMsg s

/-- PLAN_QUERY. -/
def planQueryMsg (m : Msg) (s : State) : State :=
  let i := hIndex (sqHandle m.entry)
  match s.plan i with
  | none => s.finish m stOUT_OF_RANGE []
  | some p =>
    let flags := (if p.sealed then 1 else 0) + (if nbit p.flags 2 then 2 else 0) + (if nbit p.flags 1 then 4 else 0)
    s.finish m stOK (leBytes 1 flags ++ leBytes 1 0 ++ leBytes 2 p.segs.length ++
      leBytes 4 (s.jobs.filter fun j => j.plan = i && j.tick.isNone && j.st ≠ .waiting).length ++
      leBytes 2 (s.streams.filter fun q => q.2.plan = i && !q.2.halted).length)

/-- PLAN_QUERY. -/
def execPlanQuery (m : MsgId) (s : State) : Host.Outcome State Fault Refusal := onMsg 0x0304 [] m planQueryMsg s

/-- PLAN_WINDOWS: 8 bytes per logical field. -/
def Plan.windowBytes (p : Plan) : List Byte :=
  (allFields.map fun f => match p.inField f with
    | some pf => leBytes 2 pf.rowBase ++ leBytes 2 pf.rows ++ leBytes 4 pf.comBase
    | none => leBytes 8 0).flatten

/-- PLAN_WINDOWS. -/
def planWindowsMsg (m : Msg) (s : State) : State :=
  match s.plan (hIndex (sqHandle m.entry)) with
  | none => s.finish m stOUT_OF_RANGE []
  | some p => s.answerBuffer m p.windowBytes []

/-- PLAN_WINDOWS. -/
def execPlanWindows (m : MsgId) (s : State) : Host.Outcome State Fault Refusal := onMsg 0x0305 [] m planWindowsMsg s

end Sys2Proof.Machine
end

