-- ==== Sys2Proof/Machine/Cadence.lean ====
section
/-! DEFINITION. Cadence streams (R351 to R373; Table 13-10): arming, ticks, delivery, deadlines and the control line. -/

namespace Sys2Proof.Machine

/-! ### Rings (R357, R360) -/

/-- E_in and E_out of a segment. -/
def Segment.inEntry (g : Segment) : Nat := roundUp g.inLen 64
def Segment.outEntry (g : Segment) : Nat := 64 + roundUp g.outLen 64

/-- The armed segment of a stream. -/
def State.streamSeg (s : State) (x : Stream) : Option (Plan × Segment) :=
  (s.plan x.plan).bind fun p => (p.segs[x.seg]?).map fun g => (p, g)

/-- Commons ranges that a plan names in a field: its pass list, completion records, extents and descriptor ranges (R357). -/
def Plan.comNamed (p : Plan) (f : Nat) : List (Nat × Nat) :=
  (match p.inField f with | some pf => [(0, 128 * pf.passes), (pf.done, 16 * pf.passes)] | none => []) ++
  ((p.extents.filter fun e => e.commons && e.field = f).map fun e => (e.pos, e.len)) ++
  ((p.fields.map fun pf => (pf.descs.map fun d => ((Desc.comReach d pf.field).filter (·.field = f)).map fun r => (r.off, r.len)).flatten).flatten)

/-- R357: the input ring of a segment stands in the plan's commons window, apart from what the plan names there. -/
def Plan.ringFits (p : Plan) (g : Segment) (base log2 : Nat) : Bool :=
  let len := 64 + 2 ^ log2 * g.inEntry
  match p.inField g.inField with
  | none => false
  | some pf => base % 64 = 0 && base + len ≤ pf.comLen && (p.comNamed g.inField).all fun r => !meets base len r.1 r.2

/-! ### Arming (R362 to R364) -/

/-- A segment that an entry names. -/
def AlmEntry.segOf (e : AlmEntry) (armed : Nat) : Nat := if e.seg = 0xFFFF then armed else e.seg

/-- R363: the admission test. -/
def AlmEntry.admitted (e : AlmEntry) (g : Segment) (tick : Nat) : Bool :=
  let din := 25 + cdiv g.inEntry 256
  let dout := 50 + cdiv g.outEntry 256
  e.occupy + din ≤ tick && e.budget + din + dout ≤ e.deadline * tick

/-- The stream that a CADENCE_ARM asks for. -/
def armedStream (m : Msg) (plan : Nat) (p : Plan) (gen : Nat) : Stream :=
  let e := m.entry
  { owner := m.id.src, gen, plan, alm := eNum e 18 2, tick := eNum e 20 4, missLimit := if eByte e 24 = 0 then 3 else eByte e 24,
    seg := eNum e 26 2, inBase := eNum e 32 8, outBase := eNum e 40 8, inLog2 := eByte e 48, outLog2 := eByte e 49,
    entries := p.almanacs.getD (eNum e 18 2) [] }

/-- Table 13-10, R353, R354, R357: the values of a CADENCE_ARM are in range. -/
def Stream.rangeOk (x : Stream) (p : Plan) (st : Nat) : Bool :=
  st < 64 && nbit p.flags 2 && x.alm < p.almanacs.length && 125 ≤ x.tick && x.tick ≤ 250000000 && 4 ≤ x.inLog2 && x.inLog2 ≤ 16 &&
  4 ≤ x.outLog2 && x.outLog2 ≤ 16 && x.outBase % 4096 = 0 &&
  match p.segs[x.seg]? with
  | none => false
  | some g => g.cadence && p.ringFits g x.inBase x.inLog2 && x.entries.all fun e => match p.segs[e.segOf x.seg]? with
    | some o => o.cadence && o.inField = g.inField && o.inLen = g.inLen && o.outLen = g.outLen && e.admitted g x.tick
    | none => false

/-- R362: the fields of a stream's segments are free of other armed streams and of command mode. -/
def State.armFree (s : State) (x : Stream) : Bool :=
  let fs := s.streamFields x
  !(s.streams.any fun q => q.2.claims && shareField (s.streamFields q.2) fs) && fs.all fun f => (s.field f).cmdMode.isNone

/-- The four largest numbers of a list. -/
def topFour (l : List Nat) : Nat := ((l.mergeSort fun a b => b ≤ a).take 4).sum

/-- R364: the lanterns that a stream reserves, by field. -/
def State.reservation (s : State) (x : Stream) : List (Nat × Nat) :=
  match s.plan x.plan with
  | none => []
  | some p => p.fields.filterMap fun pf =>
    let n := (allCores.map fun c => topFour ((x.segs.map fun g => (pf.segRun g c).map fun i => Desc.lantern (pf.desc i)).flatten) - 2).sum
    if n = 0 then none else some (pf.field, n)

/-- R364: a stream's cores wake and are pinned at run, with the edge units and service domains of its fields. -/
def State.pinStream (s : State) (st : Nat) (x : Stream) : State :=
  let t := (s.streamCores x).foldl (fun s q => s.pinCore q.1 q.2 (16 + st)) s
  (s.streamFields x).foldl (fun s f => (s.wakeEdge f).updEdge f fun e =>
    { e with pinnedBy := if e.pinnedBy.contains st then e.pinnedBy else e.pinnedBy ++ [st] }) t

/-- R355: the first time from 4 µs after now that is a whole microsecond, in VIGIL_TIME units. -/
def startTime (now : Nat) : Nat := roundUp (now + 40) 10

/-- The order of arming that comes next. -/
def State.nextArm (s : State) : Nat := s.streams.foldl (fun n q => max n q.2.armedAt) 0 + 1

/-- R364: the cores of a stream, and the edge units and service domains of its fields, are at run. -/
def State.streamAwake (s : State) (x : Stream) : Bool :=
  (s.streamCores x).all (fun q => (s.core q.1 q.2).level = .run) &&
    (s.streamFields x).all fun f => (s.edge f).level = .run && (s.field f).service = .run

/-- R364 step 4, once the parts of a stream are at run: it is armed from t_0, and its message completes. Where what it held has been taken
back, the message ends with the cause, and nothing stays armed. -/
def State.armDone (s : State) (m : Msg) (st : Nat) (x : Stream) (res : List Byte) : State :=
  if !x.holds then
    let t : State := if sqOp m.entry = 0x0501 then { s with streams := Sparse.del s.streams st } else s.putStream st { x with arming := none }
    t.finish m (match x.cause with | some c => c.1 | none => stLANTERN_DENIED) []
  else if !s.streamAwake x then s
  else (s.setStream st { x with arming := none, halted := false, t0 := startTime s.now }).finish m stOK res

/-- R364 steps 2 to 4, for an arm or a re-arm: a lost field ends it; it waits for fields that are being remapped, for its lanterns, and
for its parts to wake. -/
def State.armSteps (s : State) (m : Msg) (st : Nat) (x : Stream) (res : List Byte) : State :=
  let need := s.reservation x
  let fs := s.streamFields x
  if fs.any (fun f => (s.field f).health = .lost) || (match s.plan x.plan with | some p => p.broken | none => true) then
    s.finish m stFIELD_LOST []
  else if fs.any fun f => (s.field f).health ≠ .healthy then s
  else if s.freePool < (need.map (·.2)).sum then s
  else
    let t := need.foldl (fun s p => s.updField p.1 fun fl => { fl with reserved := fl.reserved + p.2 }) s
    let y : Stream := { x with
      reserve := need, holds := true, halted := true, arming := some m.id, cause := none, misses := 0, missedAhead := []
      tickBase := x.nextTick, armedAt := s.nextArm }
    ((t.putStream st y).pinStream st y).armDone m st y res

/-- R364 step 1: a job has started or waits on a field of the stream. -/
def State.armWaits (s : State) (x : Stream) : Bool :=
  s.jobs.any fun j => j.tick.isNone && shareField (s.planFields j.plan) (s.streamFields x)

/-- The stream that a message is arming. -/
def State.armingBy (s : State) (m : Msg) (st : Nat) : Option Stream := (s.stream st).filter fun x => x.arming = some m.id

/-- R362 to R364: CADENCE_ARM as it is applied first. -/
def State.armFirst (s : State) (m : Msg) (st : Nat) : State :=
  let i := hIndex (sqHandle m.entry)
  match s.plan i with
  | none => s.finish m stOUT_OF_RANGE []
  | some p =>
    let x := armedStream m i p (Sparse.get 0 s.streamGens st)
    if !s.samePort p.owner m.id.src then s.finish m stNOT_OWNER []
    else if !s.isReady || !p.sealed then s.finish m stHELD []
    else if (s.stream st).isSome || !x.rangeOk p st || !s.armFree x then s.finish m stOUT_OF_RANGE []
    else if s.armWaits x then s
    else s.armSteps m st x (leBytes 8 (x.handle st).toNat)

/-- CADENCE_ARM: it is applied, and then it waits for its parts to wake (R364). -/
def cadenceArmMsg (m : Msg) (s : State) : State :=
  let st := eNum m.entry 16 2
  match s.armingBy m st with
  | some x => s.armDone m st x (leBytes 8 (x.handle st).toNat)
  | none => s.armFirst m st

/-- CADENCE_ARM. -/
def execCadenceArm (m : MsgId) (s : State) : Host.Outcome State Fault Refusal :=
  onMsg 0x0501 [.mem, .cores, .edges] m cadenceArmMsg s

/-- R318: a field of a stream is in command mode. -/
def State.commandHeld (s : State) (x : Stream) : Bool := (s.streamFields x).any fun f => (s.field f).cmdMode.isSome

/-- CADENCE_REARM (R372): once a halted stream has released what it held; IN_USE while a field of it is in command mode (R318). -/
def cadenceRearmMsg (m : Msg) (s : State) : State :=
  let st := hIndex (sqHandle m.entry)
  match s.stream st with
  | none => s.finish m stOUT_OF_RANGE []
  | some x =>
    if x.owner ≠ m.id.src then s.finish m stNOT_OWNER []
    else if x.arming = some m.id then s.armDone m st x []
    else if !x.halted || x.disarming then s.finish m stOUT_OF_RANGE []
    else if s.commandHeld x then s.finish m stIN_USE []
    else if x.holds then s
    else s.armSteps m st x []

/-- CADENCE_REARM. -/
def execCadenceRearm (m : MsgId) (s : State) : Host.Outcome State Fault Refusal :=
  onMsg 0x0502 [.mem, .cores, .edges] m cadenceRearmMsg s

/-- R364: the lanterns of an arm or re-arm have not come within 1 ms. -/
def State.armExpires (s : State) (id : MsgId) : State :=
  match s.msg id with
  | none => s
  | some m =>
    let want : Option Stream :=
      if sqOp m.entry = 0x0501 then (s.plan (hIndex (sqHandle m.entry))).bind fun p =>
        let x := armedStream m (hIndex (sqHandle m.entry)) p 0
        if (s.stream (eNum m.entry 16 2)).isNone && x.rangeOk p (eNum m.entry 16 2) && s.armFree x && !s.armWaits x &&
          p.sealed && s.isReady && s.samePort p.owner id.src then some x else none
      else if sqOp m.entry = 0x0502 then (s.stream (hIndex (sqHandle m.entry))).bind fun x =>
        if x.owner = id.src && x.halted && !x.disarming && !x.holds && x.arming.isNone && !s.commandHeld x then some x else none
      else none
    match want with
    | some x => if s.mayApply m && s.freePool < ((s.reservation x).map (·.2)).sum then s.finish m stLANTERN_DENIED [] else s
    | none => s

/-- ARM_RESERVATION_TIMEOUT. -/
def execArmReservationTimeout (m : MsgId) (s : State) : Host.Outcome State Fault Refusal :=
  onUnit finishParts (msgIdOk m) s fun s => s.armExpires m

/-- CADENCE_DISARM (R372): dispatch stops, and the completion follows the ticks already dispatched. -/
def cadenceDisarmMsg (m : Msg) (s : State) : State :=
  let st := hIndex (sqHandle m.entry)
  match s.stream st with
  | none => s.finish m stOUT_OF_RANGE []
  | some x =>
    if x.owner ≠ m.id.src then s.finish m stNOT_OWNER []
    else ((s.markApplied m.id).putStream st { x with disarming := true }).settleStream st

/-- CADENCE_DISARM. -/
def execCadenceDisarm (m : MsgId) (s : State) : Host.Outcome State Fault Refusal :=
  onMsg 0x0503 [.cores, .edges, .streamGens, .log] m cadenceDisarmMsg s

/-- CADENCE_QUERY. -/
def cadenceQueryMsg (m : Msg) (s : State) : State :=
  match s.stream (hIndex (sqHandle m.entry)) with
  | none => s.finish m stOUT_OF_RANGE []
  | some x => s.finish m stOK (leBytes 1 (if x.halted then 1 else 0) ++ leBytes 1 (min x.misses 255) ++ leBytes 2 0 ++
      leBytes 4 (min x.totalMisses 0xFFFFFFFF) ++ leBytes 8 x.completed)

/-- CADENCE_QUERY. -/
def execCadenceQuery (m : MsgId) (s : State) : Host.Outcome State Fault Refusal := onMsg 0x0504 [] m cadenceQueryMsg s

/-! ### Dispatch (R365 to R367) -/

/-- The handle of a tick's run: the stream and the tick number. -/
def tickHandle (st n : Nat) : Word := BitVec.ofNat 64 (4 + 2 ^ 8 + st * 2 ^ 16 + n * 2 ^ 27)

/-- R366: a pass reads a segment's input region as its streaming operand, its edge input or its MOVE source. -/
def Desc.readsInput (d : Desc) (f : Nat) (g : Segment) : Bool :=
  let k := Desc.kind d
  let on (f' off len : Nat) : Bool := f' = g.inField && meets off len g.inOff g.inLen
  (((k = 1 || k = 2 || k = 5) && !Desc.xsrc d || k = 8) && on f (Desc.xbase d) ((Desc.n d - 1) * Desc.xstride d + Desc.xBytes d)) ||
    (k = 9 && faRegion (moveSrc d) = 1 && on (faField (moveSrc d)) (faOff (moveSrc d)) (Desc.mvLen d))

/-- R366: a tick still has an input reader to commit. -/
def Job.holdsInput (j : Job) (p : Plan) (g : Segment) : Bool :=
  !j.isEnded && p.fields.any fun pf => allCores.any fun c => (pf.segRun j.seg c).any fun i =>
    Desc.readsInput (pf.desc i) pf.field g && !j.committed.contains (pf.field, i)

/-- The run of a tick, where it has one. -/
def State.tickJob (s : State) (st n : Nat) : Option Job := s.jobs.find? (·.tick = some (st, n))

/-- Copies an input entry to the segment's input offset, with its poison. -/
def State.copySample (s : State) (x : Stream) (h : Nat) (pf : PlanField) (g : Segment) : State :=
  let src := commonsAddr g.inField + (pf.comBase + x.inBase + 64 + x.cons.toNat % 2 ^ x.inLog2 * g.inEntry) / 8
  let dst := commonsAddr g.inField + (pf.comBase + g.inOff) / 8
  let n := g.inLen / 8
  let r := s.readWords src { acc := 0, handle := h } (cdiv g.inLen 8)
  let t := r.1.writeWords dst (r.2.take n)
  if g.inLen % 8 = 0 then t
  else
    let w := r.2.getD n (0, false)
    t.mergeWord (dst + n) ((List.range 8).map fun i => if i < g.inLen % 8 then some (w.1.extractLsb' (8 * i) 8) else none) w.2

/-- CADENCE_TICK_DISPATCH (R365, R367). -/
def State.dispatchTick (s : State) (st : Nat) : State :=
  match s.stream st with
  | none => s
  | some x => match s.streamSeg x with
    | none => s
    | some (p, g) => match p.inField g.inField with
      | none => s
      | some pf =>
        let n := x.nextTick
        let i := n % x.entries.length
        let e := x.entries.getD i ⟨0xFFFF, 1, 1, 1⟩
        let seg := e.segOf x.seg
        let slot := x.outw.toNat + x.ticks.length
        let t : Tick := {
          n, slot, sample := x.cons.toNat, noInput := x.cons = x.acc, entry := i, tn := x.t0 * 25 + (n - x.tickBase) * x.tick,
          missed := x.missedAhead.contains n }
        let running := x.ticks.filterMap fun t => s.tickJob st t.n
        if x.halted || x.disarming || s.vigil.phase ≠ .up || running.any Job.isEnded then s
        else if 2 ^ x.outLog2 - 2 < (x.outw - x.orel).toNat + x.ticks.length then s.count (streamBlock st) 1 1
        else if x.cons = x.acc then
          ((s.setStream st { x with nextTick := n + 1, ticks := x.ticks ++ [{ t with sample := 0 }] }).count (streamBlock st) 0 1).count
            (streamBlock st) 2 1
        else if running.any fun j => j.holdsInput p g then s
        else
          let h := tickHandle st n
          let runs := p.segPasses seg
          let s := s.copySample x (x.handle st).toNat pf g
          let s := (s.setStream st { x with nextTick := n + 1, cons := x.cons + 1, ticks := x.ticks ++ [t] }).count (streamBlock st) 0 1
          State.handRuns { s with jobs := s.jobs ++ [{
            handle := h, named := (x.handle st).toNat, msg := none, tick := some (st, n), plan := x.plan, seg, st := .running,
            time := s.now, rank := 0, startTime := s.now, left := (runs.map fun r => r.2.2.length).sum }] } h runs

/-- A stream number. -/
def streamNo (st : Nat) : Bool := st < 64

/-- CADENCE_TICK_DISPATCH. -/
def execCadenceTickDispatch (st : Nat) (s : State) : Host.Outcome State Fault Refusal :=
  onUnit [.mem, .bus, .cores, .jobs, .streams, .log, .counters] (streamNo st) s fun s => s.dispatchTick st

/-! ### Delivery (R360, R366, R369, R370) -/

/-- The header of an output entry (Table 15-4). -/
def Tick.header (t : Tick) (x : Stream) (status drain late : Nat) : List Byte :=
  let phase := x.outw.toNat / 2 ^ x.outLog2 % 2 = 0
  leBytes 4 t.n ++ leBytes 4 t.sample ++ leBytes 2 status ++ leBytes 2 (drain ||| if t.missed then 64 else 0) ++
    leBytes 1 ((if phase then 1 else 0) + if t.noInput then 2 else 0) ++ leBytes 1 t.entry ++ leBytes 2 0 ++ leBytes 8 t.tn ++
    leBytes 4 late ++ leBytes 36 0

/-- What a tick delivers: status, drain status and its run; none while it runs. -/
def State.tickStatus (s : State) (st : Nat) (t : Tick) : Option (Nat × Nat × Option Job) :=
  match s.tickJob st t.n with
  | none => some (t.ended.getD stOK, t.drain.toNat, none)
  | some j => (s.jobStatus j).map fun code => (code, j.drain.toNat, some j)

/-- CADENCE_OUTPUT_DELIVER: the oldest tick delivers, its data and then its header; a tick that a JOB_FATAL status ended delivers no
data, and halts the stream. -/
def State.deliverTick (s : State) (st : Nat) (late : BitVec 32) : State :=
  match s.stream st with
  | none => s
  | some x => match x.ticks, s.streamSeg x with
    | t :: rest, some (_, g) =>
      let port := s.streamPort x
      match s.tickStatus st t with
      | none => s
      | some (status, drain, j) =>
        if t.missed ≠ decide (late ≠ 0) || (s.port port).d3 then s
        else
          let base := x.outBase + x.outw.toNat % 2 ^ x.outLog2 * g.outEntry
          let fatal := status ≠ stOK && status ≠ stDATA_POISON
          let s := match j with
            | some j => if fatal then s else (j.outs.filter fun (o : Nat × List Byte × Bool) => s.outCommitted j o.1).foldl (fun (s : State) (o : Nat × List Byte × Bool) =>
                s.emit port (.dma port (base + 64 + o.1) o.2.1 o.2.2 true)) s
            | none => s
          let s := s.emit port (.dma port base (t.header x status drain late.toNat) false false)
          let s : State := { s with jobs := s.jobs.filter (·.tick ≠ some (st, t.n)) }
          let s := s.setStream st { x with
            ticks := rest, outw := x.outw + 1, completed := x.completed + 1, misses := if t.missed then x.misses else 0 }
          (if fatal then s.haltStream st status [] else s).settleStream st
    | _, _ => s

/-- CADENCE_OUTPUT_DELIVER. -/
def execCadenceOutputDeliver (st : Nat) (late : BitVec 32) (s : State) : Host.Outcome State Fault Refusal :=
  onUnit (finishParts ++ [.mem, .cores, .edges, .jobs, .streamGens, .log]) (streamNo st) s fun s => s.deliverTick st late

/-- CADENCE_DEADLINE_MISS (R369, R370): the deadline of a tick that has not delivered passes. -/
def State.tickMisses (s : State) (st n : Nat) : State :=
  match s.stream st with
  | none => s
  | some x =>
    let sent := x.ticks.any fun t => t.n = n && !t.missed
    let ahead := x.nextTick ≤ n && !x.missedAhead.contains n && !x.halted && !x.disarming
    if !sent && !ahead then s
    else
      let detail := leBytes 1 st ++ leBytes 3 0 ++ leBytes 4 n
      let y : Stream := { x with
        misses := x.misses + 1, totalMisses := x.totalMisses + 1,
        ticks := x.ticks.map fun t => if t.n = n then { t with missed := true } else t,
        missedAhead := if ahead then x.missedAhead ++ [n] else x.missedAhead }
      let t := ((s.putStream st y).count (streamBlock st) 3 1).logFault {
        code := stCADENCE_MISS, cls := 2, part := 7, handle := (x.handle st).toNat, detail }
      if x.missLimit ≤ y.misses then t.haltStream st stCADENCE_MISS detail else t

/-- CADENCE_DEADLINE_MISS. -/
def execCadenceDeadlineMiss (st tick : Nat) (s : State) : Host.Outcome State Fault Refusal :=
  onUnit (finishParts ++ [.cores, .edges, .streamGens, .log]) (streamNo st) s fun s => s.tickMisses st tick

/-! ### Counters that the host writes (R359, R361) -/

/-- IC_PROD_WRITE. -/
def execIcProdWrite (st : Nat) (v : BitVec 32) (s : State) : Host.Outcome State Fault Refusal :=
  onUnit [.mem, .streams, .log, .counters] (streamNo st) s fun s => s.writeProd st v

/-- IC_OREL_WRITE. -/
def execIcOrelWrite (st : Nat) (v : BitVec 32) (s : State) : Host.Outcome State Fault Refusal :=
  onUnit [.mem, .streams] (streamNo st) s fun s => s.writeOrel st v

end Sys2Proof.Machine
end

