-- ==== Sys2Proof/Machine/Start.lean ====
section
/-! DEFINITION. Firmware slots, the start of the unit, resets and power (R295, R307, R324, R381 to R383, R397 to R413, R441, R443,
R449). -/

namespace Sys2Proof.Machine

/-! ### Firmware slots (R324, R401) -/

def State.fwSlot (s : State) (i : Nat) : FwSlot := Sparse.get {} s.fw i
def State.setFw (s : State) (i : Nat) (x : FwSlot) : State := { s with fw := Sparse.set {} s.fw i x }

/-- Bytes of a slot. -/
def State.flash (s : State) (i off n : Nat) : List Byte :=
  let x := s.fwSlot i
  (List.range n).map fun k => (Sparse.find x.bytes (off + k)).getD (Config.flashByte i (off + k))

/-- R401: the verdict of a slot. -/
def State.verdict (s : State) (i : Nat) : Nat :=
  let h := s.flash i 0 256
  let len := bytesAt h 8 4
  let zero (o n : Nat) : Bool := ((h.drop o).take n).all (· = 0)
  if (s.flash i 0 4096).all (· = 0xFF) then 3
  else if bytesAt h 0 4 ≠ 0x4D524946 || bytesAt h 4 1 ≠ 3 || bytesAt h 6 1 = 0 || 3 < bytesAt h 7 1 || len % 4096 ≠ 0 || len < 4096 ||
      2 ^ 24 < len || !zero 12 52 || !zero 160 96 then 2
  else if ecVerify (Config.bootKey (bytesAt h 7 1)) (sha384 (h.take 64 ++ s.flash i 256 (len - 256))) (beNat ((h.drop 64).take 48))
      (beNat ((h.drop 112).take 48)) then 0
  else 1

/-- The boot ROM's check of a slot, which FW_QUERY then shows. -/
def State.verifySlot (s : State) (i : Nat) : State :=
  s.setFw i { s.fwSlot i with
    verdict := s.verdict i, ifMajor := bytesAt (s.flash i 4 1) 0 1, ifMinor := bytesAt (s.flash i 5 1) 0 1,
    build := bytesAt (s.flash i 6 1) 0 1 }

/-- FW_WRITE. -/
def fwWriteMsg (rd : DmaRead) (m : Msg) (s : State) : State :=
  let d := descAt m.entry 16
  let i := eByte m.entry 32
  let off := eNum m.entry 36 4
  if 1 < i || d.len < 4096 || 2 ^ 20 < d.len || off % 4096 ≠ 0 || 0x3FC0000 < off + d.len then s.finish m stOUT_OF_RANGE []
  else if i = s.vigil.fwRun && s.vigil.noFirmware.isNone then s.finish m stIN_USE []
  else match s.payload m d rd with
    | .error st => s.finish m st []
    | .ok bs =>
      let x := s.fwSlot i
      (s.setFw i { x with
        bytes := bs.zipIdx.foldl (fun a p => Sparse.put a (off + p.2) p.1) x.bytes
        verdict := 0xFF }).finish m stOK []

/-- FW_WRITE. -/
def execFwWrite (m : MsgId) (rd : DmaRead) (s : State) : Host.Outcome State Fault Refusal := onMsg 0x0C01 [.fw] m (fwWriteMsg rd) s

/-- FW_VERIFY. -/
def fwVerifyMsg (m : Msg) (s : State) : State :=
  let i := eByte m.entry 16
  if 1 < i then s.finish m stOUT_OF_RANGE []
  else
    let t := s.verifySlot i
    let x := t.fwSlot i
    t.finish m stOK (leBytes 1 x.verdict ++ leBytes 1 x.build ++ leBytes 1 x.ifMajor ++ leBytes 1 x.ifMinor)

/-- FW_VERIFY. -/
def execFwVerify (m : MsgId) (s : State) : Host.Outcome State Fault Refusal := onMsg 0x0C02 [.fw] m fwVerifyMsg s

/-- FW_QUERY. -/
def execFwQuery (m : MsgId) (s : State) : Host.Outcome State Fault Refusal :=
  onMsg 0x0C04 [] m (fun m s =>
    let a := s.fwSlot 0
    let b := s.fwSlot 1
    s.finish m stOK (leBytes 1 s.vigil.fwRun ++ leBytes 1 s.vigil.fwBuild ++ leBytes 1 a.verdict ++ leBytes 1 a.build ++
      leBytes 1 b.verdict ++ leBytes 1 b.build)) s

/-! ### What a reset or a power-off ends (R295, R410, R411) -/

/-- R295: every fetched message and every job completes SUPERSEDED, but for the message that asks for the reset. A record write that has
begun ends (log entry 122). -/
def State.supersedeAll (s : State) (keep : Option MsgId) : State :=
  let s : State := { s with record := s.record.ended }
  let t := (s.jobs.filter (·.tick.isNone)).foldl (fun s j => s.finishJob j j.superseded) s
  let t := t.msgs.foldl (fun s m =>
    if some m.id = keep || (s.msg m.id).isNone then s else s.finish m stSUPERSEDED []) t
  let ws := t.smb.waiting
  ws.foldl (fun s w => s.writeEntries ⟨mgmtQ, w.1⟩ (sqTag w.2.2) stSUPERSEDED (match msgSpec (sqOp w.2.2) with | some x => x.slots | none => 1) [])
    { t with smb := { t.smb with waiting := [] } }

/-- Window reads that are still awaited end with Completer Abort (R341). -/
def State.abortReads (s : State) : State :=
  s.winReqs.foldl (fun (s : State) r => s.emit r.port (.abort r.port r.tag)) { s with winReqs := [] }

/-- Every domain of the fields, the Milliner sets and the link segments goes off: what they hold is lost, the handles of plans and
streams with it. The map of fields and BU spares stays in the unit record. -/
def State.clearWork (s : State) : State :=
  let s := s.abortReads
  { s with
    bus := s.bus.foldl (fun m p => Sparse.set {} m p.1 { spare := p.2.spare }) []
    cores := s.cores.foldl (fun m p => Sparse.set {} m p.1 { spares := p.2.spares }) []
    fields := s.fields.foldl (fun m p => Sparse.set {} m p.1 { phys := p.2.phys, health := p.2.health }) []
    edges := []
    msgs := []
    planGens := s.plans.foldl (fun g p => Sparse.set 0 g p.1 ((p.2.gen + 1) % 65536)) s.planGens
    plans := []
    jobs := []
    streamGens := s.streams.foldl (fun g p => Sparse.set 0 g p.1 ((p.2.gen + 1) % 65536)) s.streamGens
    streams := []
    staged := none
    fabStaged := none
    fabActive := none
    requests := []
    lanterns := {}
    limits := {}
    mesh := {}
    brims := []
    smb := { s.smb with staging := [], waiting := [], reserved := 0 } }

/-- Every queue pair is UNCREATED, in its port of a unit reset (R279), and every ADMIN register of the ports is at its reset value. -/
def State.clearQueues (s : State) : State :=
  { s with
    owner := []
    queues := s.queues.foldl (fun m p => Sparse.set {} m p.1 {
      gen := if p.2.st = .uncreated then p.2.gen else (p.2.gen + 1) % 65536 }) []
    ports := s.ports.foldl (fun m p => Sparse.set {} m p.1 { p.2 with
      sqBase := 0, cqBase := 0, sqLog2 := 0, cqLog2 := 0, enable := false, err := false }) [] }

/-- Rows and commons are lost; bulk modules keep their words. -/
def State.keepBulk (s : State) : State := s.fillMem { lo := 0, hi := bulkAddr 0, fill := .zero }

/-- Steps 2 and 3 of a unit reset (Table 17-5, R412): the unit reads WAKING. -/
def State.resetWork (s : State) : State :=
  let t := s.clearWork.clearQueues.keepBulk
  { t with
    ports := t.ports.foldl (fun m p => Sparse.set {} m p.1 { p.2 with eventCause := 0, timeLatch := 0 }) []
    active := none
    counters := []
    slots := t.slots.foldl (fun m p => Sparse.set {} m p.1 p.2.resetEngines) []
    vigil := { t.vigil with
      phase := .waking, retention := false, noFirmware := none, faultHold := none, cfgRefused := none, cfgTorn := none, degraded := false,
      replace := false, faulted := false, standby := true, mset := false, bootRom := false, latched := [], remaps := [], diag := [],
      wasReady := false, turn := 0, taken := 0, vckHoldover := [], vckRoot := vckRootOf t.vigil.vckFailed, fckStep := 4 } }

/-! ### Self-test and placement (R404) -/

/-- A self-test result names parts that the unit has. -/
def selfTestOk (t : SelfTest) : Bool :=
  t.fields.all (fun q => physExists q.1 q.2) && t.bus.all fun b => physExists b.1 b.2.1 && b.2.2.1 < 8 && b.2.2.2 < 132

/-- The physical fields that fail: named so, or with a core of more than 4 failing BUs. -/
def failedFields (t : SelfTest) : List (Nat × Nat) :=
  physFields.filter fun q => t.fields.contains q || (List.range 8).any fun c =>
    4 < ((t.bus.filter fun b => (b.1, b.2.1) = q && b.2.2.1 = c).map (·.2.2.2)).eraseDups.length

/-- The failing physical BUs of a core. -/
def failedBus (t : SelfTest) (q : Nat × Nat) (c : Nat) : List Nat :=
  (t.bus.filter fun b => (b.1, b.2.1) = q && b.2.2.1 = c).map (·.2.2.2)

/-- Failing BUs of a core are mapped to its spares, lowest first; a BU that passes keeps its place. -/
def State.mapBus (s : State) (f c : Nat) (bad : List Nat) : State :=
  if bad.isEmpty then s
  else
    let t := allBus.foldl (fun (r : State × List Nat) u =>
      let b := r.1.bu f c u
      if bad.contains (b.phys u) then
        match [1, 2, 3, 4].find? fun k => !bad.contains (127 + k) && !r.2.contains k with
        | some k => (r.1.setBu f c u { b with spare := k }, r.2 ++ [k])
        | none => r
      else r)
      (s, (s.core f c).spares)
    t.1.updCore f c fun k => { k with spares := (t.2 ++ [1, 2, 3, 4].filter fun k => bad.contains (127 + k)).eraseDups }

/-- A field's BUs and their spare maps are those of a physical field not used before. -/
def State.dropSpares (s : State) (f : Nat) : State :=
  allCores.foldl (fun s c => (allBus.foldl (fun s u => s.updBu f c u fun b => { b with spare := 0, failed := none, uncRows := [] }) s).updCore
    f c fun k => { k with spares := [], stopped := false }) s

/-- The record of a physical field that failed a self-test (Table 18-3): outcome 0 remapped, 1 lost, 2 spare retired. -/
def State.testRec (s : State) (f : Nat) (q : Nat × Nat) (cause outcome : Nat) (new : Nat × Nat) : State :=
  s.logFault {
    code := stFIELD_LOST, cls := 2, part := 12, field := f, phys := some q,
    detail := leBytes 1 cause ++ leBytes 1 outcome ++ leBytes 1 new.1 ++ leBytes 1 new.2 }

/-- Stands a logical field on a physical one. -/
def State.putField (s : State) (f : Nat) (q : Nat × Nat) : State :=
  s.updField f fun x => { x with phys := if startFields.getD f (0xFF, 0xFF) = q then none else some q, health := .healthy }

/-- A field's failing BUs, as the last full self-test found them in the physical field that it takes. -/
def State.mapField (s : State) (f : Nat) (q : Nat × Nat) : State :=
  allCores.foldl (fun s c => s.mapBus f c (failedBus ⟨[], s.vigil.badBus⟩ q c)) s

/-- R404: each logical field keeps its physical field where that passes, else takes the first of the passing spares; one without is
lost. A field already lost is placed again only where `again`. -/
def State.placeFields (s : State) (bad pool : List (Nat × Nat)) (again : Bool) : State × List (Nat × Nat) :=
  allFields.foldl (fun (r : State × List (Nat × Nat)) f =>
    let q := r.1.physOf f
    if (r.1.field f).health = .lost && !again then r
    else if !bad.contains q then (r.1.putField f q, r.2)
    else match r.2 with
      | p :: rest => (((r.1.testRec f q 0 0 p).dropSpares f |>.putField f p).mapField f p, rest)
      | [] => ((r.1.testRec f q 0 1 (0xFF, 0xFF)).updField f fun x => { x with health := .lost }, []))
    (s, pool)

/-- The flags that a start leaves: REPLACE while a field is lost, DEGRADED while a redundant part is gone (R435). -/
def State.startFlags (s : State) : State :=
  { s with vigil := { s.vigil with
      replace := !s.lostFields.isEmpty
      degraded := !s.vigil.standby || s.vigil.spares.isEmpty || s.slots.any (·.2.fenced) || !s.vigil.vckFailed.isEmpty ||
        (List.range 24).any fun k => !s.tapUp k } }

/-- Steps 6 and 7 of Table 17-1: the full self-test and the assignment that follows it, with its records. -/
def State.assign (s : State) (t : SelfTest) : State :=
  let bad := failedFields t
  let mapped := allFields.map s.physOf
  let s : State := { s with vigil := { s.vigil with badBus := t.bus } }
  let r := s.placeFields bad (physFields.filter fun q => !bad.contains q && !mapped.contains q) true
  let u := (bad.filter fun q => !mapped.contains q).foldl (fun s q => s.testRec 0xFF q 0 2 (0xFF, 0xFF)) r.1
  let u : State := { u with vigil := { u.vigil with spares := r.2, bad, retired := [] } }
  if t.bus.isEmpty then u
  else allFields.foldl (fun s f => if (s.field f).health = .healthy then s.mapField f (s.physOf f) else s) u

/-! ### The start (Table 17-1) -/

/-- R405: the persisted configuration is checked again and sealed without a message. -/
def State.sealPersisted (s : State) : State :=
  match s.record.torn, s.record.persisted with
  | some copy, _ => { s with vigil := { s.vigil with cfgTorn := some copy } }
  | none, none => s
  | none, some b =>
    if cfgStatus none b = stOK then
      let c := s.newConfig 0 b
      { s with active := some c, cfgGens := Sparse.set 0 s.cfgGens c.index (c.gen + 1) }
    else { s with vigil := { s.vigil with cfgRefused := some (cfgStatus none b) } }

/-- R402: the record of a preferred slot that failed its check while the other runs. -/
def State.slotRec (s : State) (i v : Nat) : State :=
  s.logFault {
    code := if v = 1 then stSEAL_REQUIRED else stMALFORMED, cls := 2, part := 9,
    detail := leBytes 1 0xFF ++ leBytes 1 0 ++ leBytes 2 0xFFFF ++ leBytes 8 i }

/-- R402: the boot ROM's choice: the slot that runs, none where both fail. -/
def State.chooseImage (s : State) : State × Option Nat :=
  let p := s.vigil.fwPref
  let t := s.verifySlot p
  if (t.fwSlot p).verdict = 0 then (t, some p)
  else
    let u := t.verifySlot (1 - p)
    if (u.fwSlot (1 - p)).verdict = 0 then
      (({ u with vigil := { u.vigil with fwPref := 1 - p } } : State).slotRec p (u.fwSlot p).verdict, some (1 - p))
    else (u, none)

/-- Every admin queue whose ENABLE is set comes up (R336, R400). -/
def State.bringUpAll (s : State) : State := (List.range 4).foldl State.bringUp s

/-- Latched doorbells are judged (R288, R400). -/
def State.serveLatched (s : State) : State :=
  s.vigil.latched.foldl (fun s d =>
    if d.2.1 < 1024 then s.judgeTail d.2.1 d.2.2.toNat d.1 else s.judgeHead (d.2.1 - 1024) d.2.2.toNat)
    { s with vigil := { s.vigil with latched := [] } }

/-- Steps 2 to 8 of Table 17-1: the image is chosen and the unit ends in HELD; where no image runs, the boot ROM serves (R402). -/
def State.start (s : State) (test : SelfTest) : State :=
  let c := s.chooseImage
  let t := c.1
  let t := match c.2 with
    | some i =>
      let x := t.fwSlot i
      let u := State.assign { t with vigil := { t.vigil with fwRun := i, fwBuild := x.build, fwMinor := x.ifMinor } } test
      let u := State.sealPersisted { u with mesh := { u.mesh with tables := some u.topoNow } }
      u.startFlags
    | none => { t with vigil := { t.vigil with
        noFirmware := some ((t.fwSlot 0).verdict + 256 * (t.fwSlot 1).verdict), bootRom := true, fwBuild := 0, fwMinor := 2 } }
  (State.bringUpAll { t with
    ports := t.ports.foldl (fun m p => Sparse.set {} m p.1 { p.2 with crs := false }) []
    vigil := { t.vigil with phase := .up } }).raiseAll 0

/-- R443, R449: step 4 of a reset waits for RESET_L and for good power. -/
def State.startOr (s : State) (test : SelfTest) : State := if s.vigil.holdReset || s.vigil.holdPower then s else s.start test

/-! ### Unit resets (R411) -/

/-- A reset message: it may be the reset only while the unit is up. -/
def resetMsg (test : SelfTest) (m : Msg) (s : State) : State :=
  (((s.supersedeAll (some m.id)).finish m stACCEPTED []).resetWork).startOr test

/-- UNIT_RESET (R307). -/
def execUnitReset (m : MsgId) (t : SelfTest) (s : State) : Host.Outcome State Fault Refusal :=
  if selfTestOk t then onMsg 0x0010 resetParts m (resetMsg t) s else .fault .noSuchPart

/-- FW_ACTIVATE (R413): the slot is recorded as preferred, and the unit resets into it. -/
def fwActivateMsg (test : SelfTest) (m : Msg) (s : State) : State :=
  let i := eByte m.entry 16
  if 1 < i || (s.fwSlot i).verdict ≠ 0 then s.finish m stOUT_OF_RANGE []
  else resetMsg test m { s with vigil := { s.vigil with fwPref := i } }

/-- FW_ACTIVATE. -/
def execFwActivate (m : MsgId) (t : SelfTest) (s : State) : Host.Outcome State Fault Refusal :=
  if selfTestOk t then onMsg 0x0C03 resetParts m (fwActivateMsg t) s else .fault .noSuchPart

/-- R411: a reset without a message, by the carrier contact or SMBus. -/
def State.bareReset (s : State) (test : SelfTest) : State := ((s.supersedeAll none).resetWork).startOr test

/-- RESET_L_ASSERT (R449): the unit resets, and step 3 holds until release; in VIGIL the retained state is discarded. -/
def State.resetLow (s : State) : State :=
  let s : State := { s with vigil := { s.vigil with resetLow := true } }
  match s.vigil.phase with
  | .off => s
  | .vigil => { s.clearQueues with active := none, log := {}, vigil := { s.vigil with retention := true } }
  | .waking => { s with vigil := { s.vigil with holdReset := true } }
  | .up =>
    let t := (s.supersedeAll none).resetWork
    { t with vigil := { t.vigil with holdReset := true } }

/-- RESET_L_ASSERT. -/
def execResetLAssert (s : State) : Host.Outcome State Fault Refusal := onUnit resetParts true s State.resetLow

/-- RESET_L_RELEASE: a start that waited for it goes on from step 2 of Table 17-1. -/
def State.resetHigh (s : State) (test : SelfTest) : State :=
  let t : State := { s with vigil := { s.vigil with resetLow := false, holdReset := false } }
  if s.vigil.holdReset then (if s.vigil.holdPower then t else t.resetWork.start test) else t

/-- RESET_L_RELEASE. -/
def execResetLRelease (t : SelfTest) (s : State) : Host.Outcome State Fault Refusal :=
  onUnit resetParts (selfTestOk t) s fun s => s.resetHigh t

/-! ### VIGIL (R410) -/

/-- UNIT_DOWN: the unit enters VIGIL, keeping its queue pairs, ports, configuration and fault log. -/
def unitDownMsg (m : Msg) (s : State) : State :=
  let t := ((s.supersedeAll (some m.id)).finish m stACCEPTED []).clearWork
  { t with
    mem := {}
    slots := t.slots.foldl (fun l p => Sparse.set {} l p.1 { present := p.2.present, fenced := p.2.fenced }) []
    vigil := { t.vigil with phase := .vigil, latched := [], remaps := [], diag := [], wasReady := false } }

/-- UNIT_DOWN. -/
def execUnitDown (m : MsgId) (s : State) : Host.Outcome State Fault Refusal := onMsg 0x0011 resetParts m unitDownMsg s

/-- R410, R423, Table 16-6: a wake from VIGIL reaches HELD with its counters at 0, and what woke it is served. Fields that fail the service test take spares; where
the retained image is gone, the wake is a cold start from step 2. -/
def State.wake (s : State) (test : SelfTest) (imageOk : Bool) : State :=
  if s.vigil.phase ≠ .waking || s.vigil.holdReset || s.vigil.holdPower then s
  else if !imageOk || s.vigil.retention then s.resetWork.start test
  else
    let bad := failedFields test
    let r := s.placeFields bad (s.vigil.spares.filter fun q => !bad.contains q) false
    let t : State := { r.1 with counters := [], vigil := { r.1.vigil with phase := .up, spares := r.2, bad } }
    let t : State := { t with mesh := { t.mesh with tables := some t.topoNow } }
    let t : State := { t with vigil := { t.vigil with
      degraded := t.vigil.degraded || t.vigil.spares.isEmpty, replace := t.vigil.replace || !t.lostFields.isEmpty } }
    t.serveLatched.bringUpAll

/-- UNIT_WAKE. -/
def execUnitWake (t : SelfTest) (imageOk : Bool) (s : State) : Host.Outcome State Fault Refusal :=
  onUnit resetParts (selfTestOk t) s fun s => s.wake t imageOk

/-! ### Power (R399, R441, R443) -/

/-- R443, R405: a record write that power interrupts leaves its copy torn; the spec does not give which of the two it is (log entry 122). -/
def State.tearWrite (s : State) : State :=
  if s.record.writing.isNone then s
  else
    let v := s.fresh
    { v.1 with record := { v.1.record with torn := some (v.2.toNat % 2), writing := none } }

/-- The unit goes OFF: what is not in flash, or fitted, is lost. DESIGN CHOICE: while no image is chosen, before step 3 of Table 17-1,
the running build and minor are those of State.reset, and IDENT answers them (log entry 7). -/
def State.powerOff (s : State) : State :=
  { State.reset with
    pending := s.pending
    freeCtr := s.freeCtr
    out := s.out
    bus := s.bus.foldl (fun m p => Sparse.set {} m p.1 { spare := p.2.spare }) []
    cores := s.cores.foldl (fun m p => Sparse.set {} m p.1 { spares := p.2.spares }) []
    fields := s.fields.foldl (fun m p => Sparse.set {} m p.1 { phys := p.2.phys, health := p.2.health }) []
    record := s.record
    fw := s.fw
    slots := s.slots.foldl (fun m p => Sparse.set {} m p.1 { present := p.2.present }) []
    sensors := s.sensors
    jtag := s.jtag
    vigil := {
      phase := .off, resetLow := s.vigil.resetLow, fwPref := s.vigil.fwPref, spares := s.vigil.spares, bad := s.vigil.bad, badBus := s.vigil.badBus
      vckFailed := s.vigil.vckFailed, vckRoot := s.vigil.vckRoot } }

/-- POWER_GOOD: a cold start, which RESET_L holds after step 1; or the end of the wait of a power fail. -/
def State.powerGood (s : State) (test : SelfTest) : State :=
  match s.vigil.phase with
  | .off =>
    let t : State := { s with vigil := { s.vigil with phase := .waking, vigilTime := 0, holdReset := s.vigil.resetLow } }
    if s.vigil.resetLow then { t with ports := (List.range 4).foldl (fun m p => Sparse.set {} m p { t.port p with crs := true }) t.ports }
    else t.start test
  | .waking =>
    if !s.vigil.holdPower then s
    else State.startOr { s with vigil := { s.vigil with holdPower := false, holdReset := s.vigil.holdReset || s.vigil.resetLow } } test
  | _ => s

/-- POWER_GOOD. -/
def execPowerGood (t : SelfTest) (s : State) : Host.Outcome State Fault Refusal :=
  onUnit [.bus, .cores, .fields, .queues, .active, .cfgGens, .fw, .log, .counters, .mesh] (selfTestOk t) s fun s => s.powerGood t

/-- POWER_FAIL (R443): as a unit reset from step 2, which waits at step 3 for good power; below 30 V the unit is OFF. -/
def State.powerFail (s : State) (mv : Nat) : State :=
  if s.vigil.phase = .off then s
  else
    let s : State := { s with sensors := { s.sensors with busMv := mv } }
    let s := s.noteRange 1 0xFF 0xFF mv (44000 ≤ mv && mv ≤ 58000)
    if mv < 30000 then s.tearWrite.powerOff
    else
      let t := s.tearWrite.resetWork
      { t with vigil := { t.vigil with holdPower := true } }

/-- POWER_FAIL. -/
def execPowerFail (mv : Nat) (s : State) : Host.Outcome State Fault Refusal :=
  onUnit (resetParts ++ [.reqNo, .fabGen, .sensors, .jtag]) true s fun s => s.powerFail mv

/-- VIGIL_SUPPLY_LOSS: the Vigil domain has no power (R397). -/
def execVigilSupplyLoss (s : State) : Host.Outcome State Fault Refusal :=
  onUnit (resetParts ++ [.reqNo, .fabGen, .sensors, .jtag]) true s fun s => s.tearWrite.powerOff

end Sys2Proof.Machine
end

