-- ==== Sys2Proof/Machine/PortReset.lean ====
section
/-! DEFINITION. The reset of one host port (R349, R350, R414), by PERST#, a Hot Reset, the loss of its data link or a Function Level
Reset. -/

namespace Sys2Proof.Machine

/-- Step 1 of Table 17-6 with R350: the port's registers return to their reset values, its reads in flight are discarded, and so are
posted writes that have not left it. -/
def State.resetRegisters (s : State) (p : Nat) : State :=
  let x := s.port p
  { s.setPort p { width := x.width, speed := x.speed } with
    winReqs := s.winReqs.filter (·.port ≠ p)
    bus := s.bus.foldl (fun m b => Sparse.set {} m b.1 { b.2 with queue := b.2.queue.filter fun a => a.write || a.port ≠ p }) [] }

/-- A queue of a port. -/
def State.onPortQ (s : State) (p q : Nat) : Bool := q < 1024 && s.ownerOf q = p

/-- Step 2: jobs submitted on the port's queues are cancelled, and streams armed from them disarmed; no completion is written. A DIAG_RUN that
runs goes on, without a completion, and a record write ends so (log entry 122). -/
def State.endPortWork (s : State) (p : Nat) : State :=
  let mine (j : Job) : Bool := match j.msg with | some i => s.onPortQ p i.src | none => false
  let s : State := { s with
    msgs := s.msgs.filter fun m => !s.onPortQ p m.id.src
    record := if (match s.record.writing with | some w => s.onPortQ p w.1.src | none => false) then s.record.ended else s.record
    vigil := { s.vigil with diag := s.vigil.diag.map fun r =>
      if (match r.msg with | some i => s.onPortQ p i.src | none => false) then { r with msg := none } else r } }
  let t := (s.jobs.filter mine).foldl (fun s j => (s.cancelJob j.handle).dropStartRequests (s.planFields j.plan)) s
  let t : State := { t with jobs := t.jobs.filter fun j => !mine j }
  (t.streams.filter fun q => s.onPortQ p q.2.owner).foldl (fun s q => match s.stream q.1 with
    | some x => (s.putStream q.1 { x with disarming := true }).settleStream q.1
    | none => s) t

/-- Step 3: the port's queue pairs become UNCREATED and their resources pass to its admin queue, staged configurations are discarded,
the port's shared-limit requests are unset, and its fields return to data mode. -/
def State.endPortQueues (s : State) (p : Nat) : State :=
  let t : State := { s with
    staged := s.staged.filter fun c => !s.onPortQ p c.owner
    fabStaged := s.fabStaged.filter fun c => !s.onPortQ p c.owner
    fields := s.fields.foldl (fun m f => Sparse.set {} m f.1 { f.2 with
      cmdEnding := f.2.cmdEnding || (match f.2.cmdMode with | some q => s.onPortQ p q | none => false) }) [] }
  let t := (s.queues.filter fun q => q.2.st ≠ .uncreated && s.onPortQ p q.1).foldl (fun s q => s.uncreate q.1) t
  let t := allFields.foldl (fun s f => s.endCommands f) t
  (t.poolChanged (t.setRequest (p + 1) {})).followRequests.settleDeletes

/-- R349, R414: a port reset. -/
def State.resetPort (s : State) (p : Nat) : State :=
  if s.vigil.phase = .off then s else ((s.resetRegisters p).endPortWork p).endPortQueues p

/-- PERST_ASSERT. -/
def execPerstAssert (port : Nat) (s : State) : Host.Outcome State Fault Refusal :=
  onUnit (poolParts ++ [.freeCtr, .mem, .bus, .winReqs, .jobs, .requests, .mesh, .brims, .slots, .record]) (decide (port < 4)) s fun s => s.resetPort port
/-- HOT_RESET. -/
def execHotReset (port : Nat) (s : State) : Host.Outcome State Fault Refusal :=
  onUnit (poolParts ++ [.freeCtr, .mem, .bus, .winReqs, .jobs, .requests, .mesh, .brims, .slots, .record]) (decide (port < 4)) s fun s => s.resetPort port
/-- PORT_LINK_DOWN. -/
def execPortLinkDown (port : Nat) (s : State) : Host.Outcome State Fault Refusal :=
  onUnit (poolParts ++ [.freeCtr, .mem, .bus, .winReqs, .jobs, .requests, .mesh, .brims, .slots, .record]) (decide (port < 4)) s fun s => s.resetPort port
/-- FUNCTION_LEVEL_RESET. -/
def execFunctionLevelReset (port : Nat) (s : State) : Host.Outcome State Fault Refusal :=
  onUnit (poolParts ++ [.freeCtr, .mem, .bus, .winReqs, .jobs, .requests, .mesh, .brims, .slots, .record]) (decide (port < 4)) s fun s => s.resetPort port

end Sys2Proof.Machine
end

