-- ==== Sys2Proof/Machine/Repair.lean ====
section
/-! DEFINITION. Failed parts (R236, R277, R278, R375, R395, R426 to R436, R445, R446): bank units and their spares, fields and their
remap, the VCK tree, the Milliner sets, and faults that stop the unit. -/

namespace Sys2Proof.Machine

/-! ### Restoring plans (R432) -/

/-- The image that a restore reads for a plan, with the section CRCs of a field checked; none where the read or a CRC fails. -/
def Plan.restoreImage (p : Plan) (f : Nat) : DmaRead → Option (List Byte)
  | .ok b =>
    if b.length = p.len && p.sects.all fun e => e.2.1 ≠ f || (e.1 ≠ 3 && e.1 ≠ 4) ||
        (crc32c (sliceAt b e.2.2.1 e.2.2.2.1)).toNat = e.2.2.2.2 then some b else none
  | _ => none

/-- A plan whose restore failed is broken. -/
def State.breakPlan (s : State) (i f cause : Nat) (p : Plan) : State :=
  State.logFault { s with plans := Sparse.put s.plans i { p with broken := true } } {
    code := stFIELD_LOST, cls := 2, part := 7, field := f, handle := (p.handle i).toNat,
    detail := leBytes 1 cause ++ leBytes 1 0 ++ leBytes 1 (s.physOf f).1 ++ leBytes 1 (s.physOf f).2 }

/-- Restores the resident plans of a field, from the extents that `which` takes; its pass lists too where `lists`. -/
def State.restorePlans (s : State) (f cause : Nat) (rds : List (Nat × DmaRead)) (lists : Bool) (which : Extent → Bool) : State :=
  s.plans.foldl (fun s q => match q.2.inField f with
    | none => s
    | some pf =>
      match (q.2.restoreImage f (match rds.find? (·.1 = q.1) with | some r => r.2 | none => .failed)) with
      | none => s.breakPlan q.1 f cause q.2
      | some b =>
        let t := if lists then s.writeList pf else s
        (q.2.extents.filter fun e => e.field = f && which e).foldl (fun s e => s.writeExtent b pf e) t) s

/-! ### Fields (R430 to R434) -/

/-- The number of a cause in a FIELD_LOST record; Table 18-3 has none for a failed check of a core sequencer, the commons or the service
domain (log entry 3). -/
def State.causeNo (s : State) : FieldFault → State × Nat
  | .selfTest => (s, 0)
  | .buSpares => (s, 1)
  | .stewardSilent => (s, 2)
  | .thermal => (s, 3)
  | .vck => (s, 4)
  | .cutOff => (s, 5)
  | .service => let v := s.fresh; (v.1, v.2.toNat % 256)

/-- The part that a FIELD_FATAL record names. -/
def causePart : FieldFault → Nat
  | .buSpares => 0
  | .thermal => 8
  | .vck => 13
  | .cutOff => 4
  | .service => 11
  | _ => 12

/-- R431: causes after which nothing can be read. -/
def unreadable : FieldFault → Bool
  | .stewardSilent | .thermal | .vck | .cutOff => true
  | _ => false

/-- Window accesses that wait in a field are refused: reads with Unsupported Request, writes dropped (R434). -/
def State.dropAccesses (s : State) (f : Nat) : State :=
  let mine (k : Nat) : Bool := k / 1024 = f
  let ids := ((s.bus.filter fun p => mine p.1).map fun p => p.2.queue.map (·.req)).flatten
  let t := (s.winReqs.filter fun r => ids.contains r.id).foldl (fun (s : State) r => s.emit r.port (.unsupported r.port r.tag)) s
  State.completeReads { t with
    winReqs := (t.winReqs.filter fun r => !ids.contains r.id).map fun r => { r with behind := r.behind.filter fun i => !ids.contains i }
    bus := t.bus.foldl (fun m p => Sparse.set {} m p.1 (if mine p.1 then { p.2 with queue := [] } else p.2)) [] }

/-- A job has a pass started, committed or in the window on a field. -/
def State.jobOn (s : State) (f : Nat) (j : Job) : Bool :=
  j.committed.any (·.1 = f) || allCores.any fun c => (s.core f c).window.any (·.job = j.handle)

def State.hb (s : State) (f port : Nat) : HbPort := Sparse.get {} (s.field f).ports port
def State.setHb (s : State) (f port : Nat) (x : HbPort) : State := s.updField f fun y => { y with ports := Sparse.set {} y.ports port x }

/-- The field and port at the other end of a link, where the link is up (R226, R235). -/
def State.hbPeer (s : State) (f port : Nat) : Option (Nat × Nat) :=
  let q := s.physOf f
  if (s.field f).health = .lost || !(s.hb f port).up then none
  else match (hbNeighbour q.1 q.2 port).bind s.logicalAt with
    | some g => if (s.hb g (oppositePort port)).up then some (g, oppositePort port) else none
    | none => none

/-- R235: a port is down, with its buffers empty. -/
def HbPort.down (x : HbPort) : HbPort := { x with up := false, bufC := 0, bufD := 0, bufA := 0 }

/-- Both ends of a link go down. -/
def State.linkDown (s : State) (f port g gp : Nat) : State := (s.setHb f port (s.hb f port).down).setHb g gp (s.hb g gp).down

/-- The record of a job that a packet names which is discarded at a port. -/
def State.packetRec (s : State) (f port : Nat) (h : Word) : State :=
  match s.job h with
  | none => s
  | some j => if j.isEnded then s else s.logFault {
      code := stLINK_LOST, cls := 3, part := 4, field := f, handle := j.named, detail := waitDetail 0 port 0xFFFF 0xFF }

/-- Packets are discarded at a port of a field, and the jobs that they name end with LINK_LOST (R235). -/
def State.dropPackets (s : State) (f port : Nat) (lost : Packet → Bool) : State :=
  let jobs := ((s.mesh.packets.filter lost).map (·.job)).eraseDups
  jobs.foldl (fun s h => (s.packetRec f port h).endJob h stLINK_LOST none)
    { s with mesh := { s.mesh with packets := s.mesh.packets.filter fun p => !lost p } }

/-- A phit of a packet stands in a router of its route. -/
def State.phitsAt (s : State) (p : Packet) (f : Nat) : Bool :=
  match s.topo.route p.src p.dst with
  | none => false
  | some hops => match hops.findIdx? (·.1 = s.physOf f) with
    | some i => 0 < i && p.crossed.getD i 0 < p.crossed.getD (i - 1) 0
    | none => false

/-- R236: the links of a field go down as in R235: with the packets to it, from it and in its router. -/
def State.fieldLinksDown (s : State) (f : Nat) : State :=
  let gone (p : Packet) : Bool := p.src = f || p.dst = f || s.phitsAt p f
  let t := (List.range 4).foldl (fun s port => match s.hbPeer f port with
    | some (g, gp) => s.linkDown f port g gp
    | none => s) s
  t.dropPackets f 0xFF gone

/-- What an unreadable field holds is lost: registers of its bank units and edge unit, and the windows of its cores. Passes that no job
has started there stay to come. -/
def State.loseField (s : State) (f : Nat) : State :=
  let t := allCores.foldl (fun s c => (s.loseBus f c).updCore f c fun k => {
    run := k.run, serials := k.serials, spares := k.spares }) s
  t.sleepEdge f .off

/-- R370: a stream that uses the field halts, and each undelivered tick's entry carries FIELD_LOST. -/
def State.haltOnField (s : State) (f : Nat) : State :=
  (s.streams.filter fun q => !q.2.disarming && (s.streamFields q.2).contains f).foldl (fun s q => match s.stream q.1 with
    | none => s
    | some x =>
      let t := x.ticks.foldl (fun s t => match s.tickJob q.1 t.n with | some j => s.endJob j.handle stFIELD_LOST none | none => s) s
      (t.putStream q.1 { x with ticks := x.ticks.map fun t => if t.noInput then { t with ended := some stFIELD_LOST } else t }).haltStream
        q.1 stFIELD_LOST []) s

/-- Steps 1 and 2 of Table 18-7: a field is declared failed and waits for its remap. -/
def State.failField (s : State) (f : Nat) (cause : FieldFault) (readable : Bool) : State :=
  if (s.field f).health ≠ .healthy then s
  else
    let n := s.causeNo cause
    let spare := n.1.vigil.spares[n.1.vigil.remaps.length]?
    let q := spare.getD (0xFF, 0xFF)
    let t := n.1.logFault {
      code := stFIELD_LOST, cls := 4, part := causePart cause, field := f,
      detail := leBytes 1 n.2 ++ leBytes 1 (if spare.isSome then 0 else 1) ++ leBytes 1 q.1 ++ leBytes 1 q.2 }
    let t := t.updField f fun x => { x with
      health := .failed cause readable, service := if cause = .thermal then .off else x.service }
    let t : State := { t with vigil := { t.vigil with remaps := t.vigil.remaps ++ [f] } }
    let t := (t.jobs.filter fun j => j.tick.isNone && (t.planFields j.plan).contains f).foldl (fun s j =>
      if j.st = .running && !readable && s.jobOn f j then s.endJob j.handle stFIELD_LOST none
      else if j.st = .running then s.updJob j.handle fun j => { j with paused := true } else s) t
    let t := (t.haltOnField f).dropAccesses f
    if readable then t else (t.fieldLinksDown f).loseField f

/-- A logical field exists. -/
def fieldExists (f : Nat) : Bool := f < 96

/-- FIELD_FAILURE: it can be read where every core reached its commit in time, its service domain runs, its Hatband ports are up and the
cause leaves it so (R431). -/
def execFieldFailure (f : Nat) (cause : FieldFault) (drained : Bool) (s : State) : Host.Outcome State Fault Refusal :=
  onUnit repairParts (fieldExists f) s fun s =>
    s.failField f cause (drained && !unreadable cause && (s.field f).service = .run && (s.field f).ports.all (·.2.up))

/-- STEWARD_HEARTBEAT_TIMEOUT (R430). -/
def execStewardHeartbeatTimeout (f : Nat) (s : State) : Host.Outcome State Fault Refusal :=
  onUnit repairParts (fieldExists f) s fun s => s.failField f .stewardSilent false

/-- R236: fields that the loaded tables cut off from the tree root fail. -/
def State.failCutOff (s : State) : State := s.topo.cutOff.foldl (fun s f => s.failField f .cutOff false) s

/-- R433: a field without a spare is lost; the jobs with passes on it end. -/
def State.loseLogical (s : State) (f : Nat) : State :=
  let t := ((s.fieldLinksDown f).loseField f).updField f fun x => { x with health := .lost, lent := 0, heldL := 0 }
  let t := (t.jobs.filter fun j => j.tick.isNone && j.st = .running && (t.planFields j.plan).contains f).foldl (fun s j =>
    s.endJob j.handle stFIELD_LOST none) t
  { t with vigil := { t.vigil with replace := true } }

/-- The jobs that no failed field of their plan holds up any more go on. -/
def State.resumeJobs (s : State) : State :=
  { s with jobs := s.jobs.map fun j =>
      if j.paused && (s.planFields j.plan).all fun f => (s.field f).health = .healthy then { j with paused := false } else j }

/-- Cores with passes to come wake (R382). -/
def State.wakeRuns (s : State) (f : Nat) : State :=
  allCores.foldl (fun s c => if (s.core f c).run.isEmpty then s else s.wakeCore f c) s

/-- Steps 5 and 6 of Table 18-7: the logical field stands on a spare, with its state copied, or its plans restored. -/
def State.relocate (s : State) (f : Nat) (q : Nat × Nat) (cause : FieldFault) (readable : Bool) (rds : List (Nat × DmaRead)) : State :=
  let n := s.causeNo cause
  let old := s.physOf f
  let t := ((((s.fieldLinksDown f).dropSpares f).putField f q).mapField f q).updField f fun x => { x with service := .run, serviceWaking := false, ports := [] }
  let t := t.count unitBlock 5 1
  let t : State := { t with vigil := { t.vigil with retired := t.vigil.retired ++ [old] } }
  let t := if readable then t.sleepEdge f .retain
    else
      let t := (t.fillMem { lo := rowAddr f 0 0 0, hi := rowAddr f 0 0 0 + 0x2000000, fill := .poisonZero }).fillMem {
        lo := commonsAddr f, hi := commonsAddr f + 0x300000, fill := .poisonZero }
      (t.restorePlans f n.2 rds true fun _ => true).sleepEdge f .retain
  t.wakeRuns f

/-- R434: spares that fail their tests are retired, and the next is tried. -/
def State.retireSpares (s : State) : List (Nat × Nat) → State
  | [] => s
  | q :: qs => State.retireSpares { (s.testRec 0xFF q 0 2 (0xFF, 0xFF)) with
      vigil := { (s.testRec 0xFF q 0 2 (0xFF, 0xFF)).vigil with retired := s.vigil.retired ++ [q] } } qs

/-- FIELD_REMAP (Table 18-7): the first field that waits, once its cores have committed where it can be read, and no packet is in
flight. -/
def State.remapField (s : State) (f : Nat) (bad : List (Nat × Nat)) (rds : List (Nat × DmaRead)) : State :=
  match s.vigil.remaps, (s.field f).health with
  | g :: rest, .failed cause readable =>
    if g ≠ f || !s.mesh.packets.isEmpty || (readable && allCores.any fun c => !(s.core f c).window.isEmpty) then s
    else
      let gone := s.vigil.spares.takeWhile bad.contains
      let left := s.vigil.spares.drop gone.length
      let t := s.retireSpares gone
      let t : State := { t with vigil := { t.vigil with remaps := rest, spares := left.drop 1 } }
      let t := match left with
        | q :: _ => t.relocate f q cause readable rds
        | [] => t.loseLogical f
      let t : State := { t with mesh := { t.mesh with tables := some t.topoNow } }
      let t := if (left.drop 1).isEmpty || (List.range 24).any fun k => !t.tapUp k then t.degrade else t
      State.resumeJobs t.failCutOff
  | _, _ => s

/-- FIELD_REMAP. -/
def execFieldRemap (f : Nat) (bad : List (Nat × Nat)) (rds : List (Nat × DmaRead)) (s : State) : Host.Outcome State Fault Refusal :=
  onUnit repairParts (fieldExists f) s fun s => s.remapField f bad rds

/-! ### Heat and regulators (R395, R445, R446) -/

/-- THERMAL_SWITCH_OFF (R395). -/
def execThermalSwitchOff (f : Nat) (s : State) : Host.Outcome State Fault Refusal :=
  onUnit repairParts (fieldExists f) s fun s => s.failField f .thermal false

/-- Table 16-2: the supply of a step in mV. -/
def stepSupply (n : Nat) : Nat := [600, 630, 660, 690, 720].getD n 720

/-- R445: an output is out of range, or no report has come. The range is that of the unit's step, and while it changes from one step to
another it covers both. -/
def State.regulatorBad (s : State) (mv : Option Nat) : Bool :=
  match mv with
  | none => true
  | some v =>
    let a := stepSupply s.vigil.fckStep
    let b := stepSupply s.effFck
    100 * v < 95 * min a b || 105 * max a b < 100 * v

/-- REGULATOR_FAULT (R445, R439): the field is switched off. -/
def State.regulator (s : State) (f : Nat) (mv : Option Nat) : State :=
  let t := s.updField f fun x => { x with regMv := mv }
  if s.regulatorBad mv then (t.noteRange 3 f 0xFF (mv.getD 0) false).failField f .thermal false
  else t.noteRange 3 f 0xFF (mv.getD 0) true

/-- REGULATOR_FAULT. -/
def execRegulatorFault (f : Nat) (mv : Option Nat) (s : State) : Host.Outcome State Fault Refusal :=
  onUnit (repairParts ++ [.sensors]) (fieldExists f) s fun s => s.regulator f mv

/-- JUNCTION_SENSOR_FAIL (R446, R439): a field with no sensor left is switched off. The reading is not known (log entry 3). -/
def State.sensorFails (s : State) (f c k : Nat) : State :=
  let v := s.fresh
  let t := v.1
  let l := if t.sensors.failed.contains (f, c, k) then t.sensors.failed else t.sensors.failed ++ [(f, c, k)]
  let t := State.noteRange { t with sensors := { t.sensors with failed := l } } 4 f c (v.2.toNat % 2 ^ 32) false
  if allCores.all fun c => l.contains (f, c, 0) && l.contains (f, c, 1) then t.failField f .thermal false else t

/-- JUNCTION_SENSOR_FAIL. -/
def execJunctionSensorFail (f c sensor : Nat) (s : State) : Host.Outcome State Fault Refusal :=
  onUnit (repairParts ++ [.sensors]) (coreExists f c && sensor < 2) s fun s => s.sensorFails f c sensor

/-! ### VCK (R375) -/

/-- Every neighbour's repeater of a field has failed. -/
def vckCut (failed : List (Nat × Nat)) (q : Nat × Nat) : Bool :=
  ((List.range 4).filterMap fun p => hbNeighbour q.1 q.2 p).all failed.contains

/-- VCK_TREE_REROOT: the tree without the failed repeaters; holdover ends, and a field that cannot be reached fails. -/
def State.reroot (s : State) : State :=
  let v := s.vigil
  let t : State := { s with vigil := { v with vckRoot := vckRootOf v.vckFailed, vckHoldover := [] } }
  (allFields.filter fun f => vckCut v.vckFailed (s.physOf f)).foldl (fun s f => s.failField f .vck false) t

/-- VCK_TREE_REROOT. -/
def execVckTreeReroot (s : State) : Host.Outcome State Fault Refusal := onUnit repairParts true s State.reroot

/-! ### Bank units (R426 to R429) -/

/-- A job has a pass in a core. -/
def State.jobIn (s : State) (f c : Nat) (j : Job) : Bool :=
  match s.planField j.plan f with | some pf => !(pf.segRun j.seg c).isEmpty | none => false

/-- R426: 8 uncorrectable words in distinct rows within 1 ms. -/
def State.eightRows (s : State) (b : Bu) : Bool :=
  8 ≤ ((b.uncRows.filter fun r => s.now ≤ r.1 + 10000).map (·.2)).eraseDups.length

/-- The unused spares of a core: those that passed their tests and that no BU has used. -/
def State.freeSpares (s : State) (f c : Nat) : List Nat := [1, 2, 3, 4].filter fun k => !(s.core f c).spares.contains k

/-- BU_FAILURE: fetch stops for the replacement; without a spare the field fails (R429). Jobs with a pass in the core of an unreadable BU
end (R428). -/
def State.failBu (s : State) (f c u : Nat) (cause : BuFault) : State :=
  let b := s.bu f c u
  if b.failed.isSome || (s.field f).health ≠ .healthy || (cause = .uncorrectable && !s.eightRows b) then s
  else
    let t := (s.setBu f c u { b with failed := some cause }).updCore f c fun k => { k with stopped := true }
    let t := if cause = .logic then
        (t.jobs.filter fun j => !j.isEnded && t.jobIn f c j).foldl (fun s j =>
          (s.updJob j.handle fun j => { j with failCode := stUNCORRECTABLE }).endJob j.handle stUNCORRECTABLE none) t
      else t
    if (s.freeSpares f c).isEmpty then t.failField f .buSpares (cause ≠ .logic) else t

/-- BU_FAILURE. -/
def execBuFailure (f c u : Nat) (cause : BuFault) (s : State) : Host.Outcome State Fault Refusal :=
  onUnit repairParts (buExists f c u) s fun s => s.failBu f c u cause

/-- BU_REPLACEMENT (R427, R428): once the core's window has committed, its lowest unused spare takes the BU's number. -/
def State.replaceBu (s : State) (f c u : Nat) (rds : List (Nat × DmaRead)) : State :=
  let b := s.bu f c u
  match b.failed, s.freeSpares f c with
  | some cause, k :: _ =>
    if !(s.core f c).window.isEmpty || (s.field f).health ≠ .healthy then s
    else
      let t := (s.logFault {
        code := stUNCORRECTABLE, cls := 2, part := 0, field := f, core := c, bu := u, pbu := b.phys u }).count (coreBlock f c) 12 1
      let t := if cause = .logic then
          let t : State := { t.setBu f c u { (b.lose t.freeCtr) with scrub := [] } with freeCtr := t.freeCtr + 1 }
          let t := t.fillMem { lo := rowAddr f c u 0, hi := rowAddr f c u 0 + 0x8000, fill := .poisonZero }
          t.restorePlans f 1 rds false fun e => !e.commons && e.core = c && (e.bu = u || e.bu = 0xFF)
        else t
      let t := t.updBu f c u fun b => { b with spare := k, failed := none, uncRows := [] }
      t.updCore f c fun x => { x with spares := x.spares ++ [k], stopped := allBus.any fun v => (t.bu f c v).failed.isSome }
  | _, _ => s

/-- BU_REPLACEMENT. -/
def execBuReplacement (f c u : Nat) (rds : List (Nat × DmaRead)) (s : State) : Host.Outcome State Fault Refusal :=
  onUnit [.freeCtr, .mem, .bus, .cores, .plans, .log, .counters] (buExists f c u) s fun s => s.replaceBu f c u rds

/-! ### The Milliner sets and the unit (R277, R278, R436) -/

/-- Code, part and detail of the record of a UNIT_FATAL fault. -/
def fatalRec : UnitFault → Rec
  | .lastMilliner => { code := stFIELD_LOST, cls := 5, part := 7, detail := leBytes 1 6 ++ leBytes 1 1 ++ leBytes 2 0xFFFF }
  | .noTap => { code := stINTERNAL, cls := 5, part := 14 }
  | .vckRoot => { code := stINTERNAL, cls := 5, part := 13 }
  | .vigilState => { code := stINTERNAL, cls := 5, part := 7 }

/-- R436: every field domain goes off and every job and stream ends; the unit is HELD with FAULT_HOLD until a reset, and the boot ROM's
service answers. -/
def State.unitFatal (s : State) (cause : UnitFault) : State :=
  if s.vigil.phase ≠ .up || s.vigil.faultHold.isSome then s
  else
    let t := if cause = .lastMilliner then s else (s.jobs.filter (·.tick.isNone)).foldl (fun s j => s.finishJob j stFIELD_LOST) s
    let t := t.logFault (fatalRec cause)
    let t := { t.clearWork.clearQueues.keepBulk with slots := t.slots, record := t.record.ended }
    { t with vigil := { t.vigil with
        faultHold := some ((t.log.next + 65535) % 65536), faulted := true, bootRom := true, remaps := [], diag := [] } }

/-- A UNIT_FATAL fault can be found: no set is in reserve, or no tap works. -/
def State.fatalNow (s : State) : UnitFault → Bool
  | .lastMilliner => !s.vigil.standby
  | .noTap => !s.anyTap
  | _ => true

/-- UNIT_FATAL_FAULT. -/
def execUnitFatalFault (cause : UnitFault) (s : State) : Host.Outcome State Fault Refusal :=
  onUnit resetParts true s fun s => if s.fatalNow cause then s.unitFatal cause else s

/-- R277 step 2: the completion entries that the host has not released are written again, with the same bytes. -/
def State.rewriteEntries (s : State) : State :=
  s.queues.foldl (fun s q => q.2.written.foldl (fun s w =>
    s.emit (s.ownerOf q.1) (.dma (s.ownerOf q.1) (q.2.cqBase + 32 * w.1) (leBytes 32 w.2.toNat) false false)) s) s

/-- MILLINER_FAILOVER: the standby takes over; without one the fault is UNIT_FATAL (R278). -/
def State.failover (s : State) : State :=
  if s.vigil.phase ≠ .up then s
  else if !s.vigil.standby then s.unitFatal .lastMilliner
  else
    let t := s.rewriteEntries.degrade
    let t := t.logFault { code := stFIELD_LOST, cls := 2, part := 7, detail := leBytes 1 6 ++ leBytes 1 1 ++ leBytes 2 0xFFFF }
    { t.raiseAll 2 with vigil := { (t.raiseAll 2).vigil with standby := false, mset := true } }

/-- MILLINER_FAILOVER: each cause of R277 has the same takeover. -/
def execMillinerFailover (cause : FailoverCause) (s : State) : Host.Outcome State Fault Refusal :=
  onUnit resetParts (match cause with | .heartbeat | .controlState | .powerDomain => true) s State.failover

end Sys2Proof.Machine
end

