-- ==== Sys2Proof/Machine/Hatband.lean ====
section
/-! DEFINITION. The Hatband mesh (R226 to R236): phits and their words, credits, arbitration, packets, links that go down, and routing
tables. -/

namespace Sys2Proof.Machine

/-- Credits and buffered phits of a class. -/
def HbPort.cred (x : HbPort) : HbClass → Nat | .c => x.credC | .d => x.credD | .a => x.credA
def HbPort.buf (x : HbPort) : HbClass → Nat | .c => x.bufC | .d => x.bufD | .a => x.bufA
def HbPort.setCred (x : HbPort) (k : HbClass) (n : Nat) : HbPort :=
  match k with | .c => { x with credC := n } | .d => { x with credD := n } | .a => { x with credA := n }
def HbPort.setBuf (x : HbPort) (k : HbClass) (n : Nat) : HbPort :=
  match k with | .c => { x with bufC := n } | .d => { x with bufD := n } | .a => { x with bufA := n }

/-! ### Phits (R227, R233) -/

/-- A word as a router's check finds it. -/
def judgeHb (w : HbWord) : Finding := (Stored.judge { data := w.got, good := w.sent }).1

/-- A packet's words with an uncorrectable word among them: it is forwarded as it came, with its poison flag set. -/
def Packet.damage (p : Packet) (w : HbWord) : Packet :=
  let n := p.writes.findIdx? fun x => x.2.1 = w.sent && !x.2.2
  let half (d : BitVec 32) (ws : List (Nat × List AccWord)) : List (Nat × List AccWord) :=
    let i := ws.findIdx? fun x => x.2.any fun a => a.data = d && a.poison = 0
    ws.zipIdx.map fun x => if some x.2 = i then
      (x.1.1, let k := x.1.2.findIdx? fun a => a.data = d && a.poison = 0
        x.1.2.zipIdx.map fun a => if some a.2 = k then { a.1 with poison := 3 } else a.1) else x.1
  { p with
    writes := p.writes.zipIdx.map fun x => if some x.2 = n then (x.1.1, w.got, true) else x.1
    operand := p.operand.map fun o => { o with words := half (w.sent.extractLsb' 32 32) (half (w.sent.extractLsb' 0 32) o.words) } }

/-- R228: the phits of a packet: a head with up to 96 data bytes, and data phits of 128 bytes. -/
def Packet.phits (p : Packet) : Nat :=
  1 + cdiv (8 * p.writes.length + (match p.operand with | some o => (o.words.map fun w => operandBytes w.2.length).sum | none => 0) - 96) 128

/-- Phits of a packet that have crossed the link at hop `i` of its route. -/
def Packet.over (p : Packet) (i : Nat) : Nat := p.crossed.getD i 0

/-- A packet with one phit more across the link at hop `i`. -/
def Packet.cross (p : Packet) (i : Nat) : Packet :=
  { p with crossed := (p.crossed ++ List.replicate (i + 1 - p.crossed.length) 0).set i (p.over i + 1) }

/-- The hop at which a packet's route takes the link out of a field's port. -/
def State.hopAt (s : State) (p : Packet) (f port : Nat) : Option Nat :=
  (s.topo.route p.src p.dst).bind fun hops => hops.findIdx? (· = (s.physOf f, port))

/-- The route of a packet takes the link out of a field's port. -/
def State.passes (s : State) (p : Packet) (f port : Nat) : Bool := (s.hopAt p f port).isSome

/-- A phit of a packet stands in the receive buffer of the link out of a field's port. -/
def State.buffers (s : State) (p : Packet) (f port : Nat) : Bool :=
  match s.hopAt p f port with | some i => p.over (i + 1) < p.over i | none => false

/-- The input of a router at which a packet reaches hop `i` of its route: a port, or 4 the field itself. -/
def State.inputAt (s : State) (p : Packet) (i : Nat) : Nat :=
  if i = 0 then 4 else match (s.topo.route p.src p.dst).bind (·[i - 1]?) with | some h => oppositePort h.2 | none => 4

/-- The packets of a class with a phit that waits at an output: packet, hop and input. -/
def State.atOutput (s : State) (g gp : Nat) (cls : HbClass) : List (Packet × Nat × Nat) :=
  s.mesh.packets.filterMap fun p => if p.cls ≠ cls then none else (s.hopAt p g gp).bind fun i =>
    if p.over i < p.phits && (i = 0 || p.over i < p.over (i - 1)) then some (p, i, s.inputAt p i) else none

def HbPort.served (x : HbPort) : HbClass → Nat | .c => x.servedC | .d => x.servedD | .a => x.servedA
def HbPort.setServed (x : HbPort) (k : HbClass) (n : Nat) : HbPort :=
  match k with | .c => { x with servedC := n } | .d => { x with servedD := n } | .a => { x with servedA := n }

/-- R234: whose phit an output sends next in a class: the packet that it is sending, or the first of the next input in round robin. -/
def State.nextPhit (s : State) (g gp : Nat) (cls : HbClass) : Option (Packet × Nat × Nat) :=
  let ws := s.atOutput g gp cls
  match ws.find? fun w => 0 < w.1.over w.2.1 with
  | some w => some w
  | none => (List.range 5).findSome? fun k => ws.find? fun w => w.2.2 = ((s.hb g gp).served cls + 1 + k) % 5

/-- R234: class C wins: a phit of it waits at the output, with credit. -/
def State.classCWaits (s : State) (g gp : Nat) : Bool := 0 < (s.hb g gp).credC && !(s.atOutput g gp .c).isEmpty

/-- Changes a packet by its number. -/
def State.updPacket (s : State) (no : Nat) (h : Packet → Packet) : State :=
  { s with mesh := { s.mesh with packets := s.mesh.packets.map fun p => if p.no = no then h p else p } }

/-- An uncorrectable word in a phit on the link from port `gp` of field `g` into port `port` of field `f`: the record names both ends, and
the word's packet, where it is one of the unit's, carries its poison on. -/
def State.damageWord (s : State) (f port g gp : Nat) (no : Option Nat) (w : HbWord) : State :=
  let t := (s.count (hbBlock f port) 3 1).logFault {
    code := stUNCORRECTABLE, cls := 2, part := 4, field := f, detail := leBytes 1 port ++ leBytes 1 0xFF ++ leBytes 2 g ++ leBytes 1 gp }
  let t := t.setHb f port { t.hb f port with uncTimes := (t.hb f port).uncTimes ++ [s.now] }
  match no with | some n => t.updPacket n fun p => p.damage w | none => t

/-- R227: the check of one word that arrives. -/
def State.checkHb (s : State) (f port g gp : Nat) (no : Option Nat) (w : HbWord) : State :=
  match judgeHb w with
  | .corrected => s.countCorrected (hbBlock f port) 2
  | .uncorrectable => s.damageWord f port g gp no w
  | _ => s

/-- PHIT_RECEIVE: the sender spends a credit, the receiver buffers the phit and checks its words. A sender without credit waits, and a
phit of class D or A waits while one of class C can go. Where no packet of the unit waits there, the phit is of traffic that has none
(log entry 99). -/
def State.phit (s : State) (f port : Nat) (cls : HbClass) (ws : List HbWord) : State :=
  match s.hbPeer f port with
  | none => s
  | some (g, gp) =>
    let n := (s.hb g gp).cred cls
    if n = 0 then s.count (hbBlock g gp) 1 1
    else if cls ≠ .c && s.classCWaits g gp then s
    else
      let p := s.nextPhit g gp cls
      let t := (s.setHb g gp ((s.hb g gp).setCred cls (n - 1))).count (hbBlock g gp) 0 1
      let t := t.setHb f port ((t.hb f port).setBuf cls ((t.hb f port).buf cls + 1))
      let t := match p with
        | some w => (t.updPacket w.1.no fun q => q.cross w.2.1).setHb g gp ((t.hb g gp).setServed cls w.2.2)
        | none => t
      ws.foldl (fun s w => s.checkHb f port g gp (p.map (·.1.no)) w) t

/-- A Hatband port. -/
def hbExists (f port : Nat) : Bool := f < 96 && port < 4

/-- PHIT_RECEIVE, of a phit of up to 16 words. -/
def execPhitReceive (f port : Nat) (cls : HbClass) (ws : List HbWord) (s : State) : Host.Outcome State Fault Refusal :=
  onUnit [.fields, .log, .counters, .mesh] (hbExists f port && ws.length ≤ 16) s fun s => s.phit f port cls ws

/-- HATBAND_CREDIT_RETURN: a phit has left the receiver's buffer, and its credit is back at the sender on `port` of `f`. -/
def State.creditBack (s : State) (f port : Nat) (cls : HbClass) : State :=
  match s.hbPeer f port with
  | none => s
  | some (g, gp) =>
    let n := (s.hb g gp).buf cls
    if n = 0 then s
    else
      let t := s.setHb g gp ((s.hb g gp).setBuf cls (n - 1))
      t.setHb f port ((t.hb f port).setCred cls ((t.hb f port).cred cls + 1))

/-- HATBAND_CREDIT_RETURN. -/
def execHatbandCreditReturn (f port : Nat) (cls : HbClass) (s : State) : Host.Outcome State Fault Refusal :=
  onUnit [.fields] (hbExists f port) s fun s => s.creditBack f port cls

/-! ### Packets (R228, R231) -/

/-- An operand's words join those of it that have come before, in other packets (R228). -/
def State.takeWords (s : State) (o : Operand) : State :=
  if s.mesh.operands.any (·.same o) then
    { s with mesh := { s.mesh with operands := s.mesh.operands.map fun x => if x.same o then { x with words := x.words ++ o.words } else x } }
  else { s with mesh := { s.mesh with operands := s.mesh.operands ++ [o] } }

/-- A packet's load reaches its destination, and its write acknowledgement goes back where the writer waits for one (R229, R252); an
operand of a job that has ended is discarded (R129). -/
def State.landPacket (s : State) (p : Packet) : State :=
  let t : State := { s with mesh := { s.mesh with packets := s.mesh.packets.filter (·.no ≠ p.no) } }
  let t := p.writes.foldl (fun s w => s.writeWord w.1 w.2.1 w.2.2) t
  let t := if p.acked && p.cls = .d then
      t.sendPacket { no := 0, cls := .a, src := p.dst, dst := p.src, who := p.who, job := p.job, idx := p.idx }
    else t
  match p.operand with
  | some o => if (match s.job o.job with | some j => !j.isEnded | none => false) then t.takeWords o else t
  | none => t

/-- HATBAND_PACKET_ARRIVAL: packets of one class between two fields arrive in order, while every link of the route is up. -/
def State.packetArrives (s : State) (cls : HbClass) (src dst : Nat) : State :=
  match s.mesh.packets.find? fun p => p.cls = cls && p.src = src && p.dst = dst with
  | none => s
  | some p => if s.pathDown src dst then s else s.landPacket p

/-- HATBAND_PACKET_ARRIVAL. -/
def execHatbandPacketArrival (cls : HbClass) (src dst : Nat) (s : State) : Host.Outcome State Fault Refusal :=
  onUnit [.mem, .mesh] (fieldExists src && fieldExists dst) s fun s => s.packetArrives cls src dst

/-! ### Links and tables (R230, R235) -/

/-- The uncorrectable words that arrived at a port within 1 ms. -/
def State.recentUnc (s : State) (f port : Nat) : Nat := ((s.hb f port).uncTimes.filter fun t => s.now ≤ t + 10000).length

/-- R235: what takes a link down has happened: 16 uncorrectable words in both directions together within 1 ms, or the service domain
of an end away from run. -/
def State.hbFails (s : State) (f port g gp : Nat) (cause : HbCause) : Bool :=
  match cause with
  | .phaseFifo => true
  | .uncorrectable => 16 ≤ s.recentUnc f port + s.recentUnc g gp
  | .domain => (s.field f).service ≠ .run || (s.field g).service ≠ .run

/-- HATBAND_LINK_DOWN: both ends go down, and the packets in the link's buffers are discarded with their jobs. -/
def State.hbLinkDown (s : State) (f port : Nat) (cause : HbCause) (lost : List Nat) : State :=
  match s.hbPeer f port with
  | none => s
  | some (g, gp) =>
    if !s.hbFails f port g gp cause then s
    else
      let gone (p : Packet) : Bool :=
        (lost.contains p.no && (s.passes p f port || s.passes p g gp)) || s.buffers p f port || s.buffers p g gp
      ((s.linkDown f port g gp).dropPackets f port gone).degrade

/-- HATBAND_LINK_DOWN. -/
def execHatbandLinkDown (f port : Nat) (cause : HbCause) (lost : List Nat) (s : State) : Host.Outcome State Fault Refusal :=
  onUnit endParts (hbExists f port) s fun s => s.hbLinkDown f port cause lost

/-- HATBAND_TABLE_LOAD: while no packet of class D is in flight, tables without the links that are down are loaded; fields that they cut
off fail (R236). -/
def State.loadTables (s : State) : State :=
  if s.mesh.packets.any (·.cls = .d) then s else State.failCutOff { s with mesh := { s.mesh with tables := some s.topoNow } }

/-- HATBAND_TABLE_LOAD. -/
def execHatbandTableLoad (s : State) : Host.Outcome State Fault Refusal := onUnit repairParts true s State.loadTables

end Sys2Proof.Machine
end

