-- ==== Sys2Proof/Machine/Brim.lean ====
section
/-! DEFINITION. Brim links (R239 to R248): flits, training, sequence numbers and replay, credits, and the link rows. -/

namespace Sys2Proof.Machine

/-! ### Flits (Table 10-6) -/

def fSeq (f : Flit) : Nat := fld f 0 10
def fAck (f : Flit) : Nat := fld f 10 10
def fVc (f : Flit) : Nat := fld f 20 3
def fType (f : Flit) : Nat := fld f 23 2
def fHead (f : Flit) : Bool := bit f 25
def fTail (f : Flit) : Bool := bit f 26
def fAckv (f : Flit) : Bool := bit f 27
/-- `n` payload bytes from byte `i`, as a number. -/
def fPay (f : Flit) (i n : Nat) : Nat := fld f (32 + 8 * i) (8 * n)
/-- Payload word `i`. -/
def fWord (f : Flit) (i : Nat) : Word := f.extractLsb' (32 + 64 * i) 64
/-- Bytes 0 to 251. -/
def flitBytes (f : Flit) : List Byte := leBytes 252 (f.toNat % 2 ^ 2016)
/-- The CRC of a flit holds (R243). -/
def flitCrc (f : Flit) : Bool := (crc32c (flitBytes f)).toNat = fld f 2016 32

/-- A flit without acknowledgement and CRC. -/
def mkFlit (seq vc type : Nat) (head tail : Bool) (payload : Nat) : Flit :=
  BitVec.ofNat 2048 (seq + vc * 2 ^ 20 + type * 2 ^ 23 + (if head then 2 ^ 25 else 0) + (if tail then 2 ^ 26 else 0) +
    payload % 2 ^ 1984 * 2 ^ 32)

/-- A control flit: kind, and payload bytes after it. -/
def controlFlit (seq vc type kind : Nat) (rest : List Byte) : Flit := mkFlit seq vc type false false (leNat (leBytes 1 kind ++ rest))

/-- A flit as a link sends it: with the last number received in order and the CRC (R243, R245). -/
def Brim.finish (b : Brim) (f : Flit) : Flit :=
  let g : Flit := if b.rxAny then f ||| BitVec.ofNat 2048 ((b.rxSeq + 1023) % 1024 * 2 ^ 10 + 2 ^ 27) else f
  g ||| BitVec.ofNat 2048 ((crc32c (flitBytes g)).toNat * 2 ^ 2016)

/-- Sends a flit on a link. -/
def State.sendFlit (s : State) (l : Nat) (f : Flit) : State :=
  State.count { s with out := s.out ++ [Out.flit l ((s.brim l).finish f)] } (brimBlock l) 1 1

/-- The interface revision of the running image. -/
def State.linkRev (s : State) : Nat := 0x30 + s.vigil.fwMinor % 16
/-- The fabric domain (R320). -/
def State.domain (s : State) : Nat := match s.fabActive with | some x => x.domain | none => 0

/-- A PARAM flit (Table 10-5). -/
def State.sendParam (s : State) (l : Nat) : State :=
  s.sendFlit l (controlFlit 0 0 2 4 (leBytes 2 s.domain ++ leBytes 2 s.ordinal ++ leBytes 1 l ++ leBytes 1 s.linkRev ++
    leBytes 2 (s.brim l).rxSeq))

/-! ### States (R241) -/

/-- A link enters LOCK for an attempt. -/
def State.toLock (s : State) (l attempt : Nat) : State := (s.toLink l .lock).updBrim l fun b => { b with attempts := attempt }

/-- The retrain rule: up to three attempts, then DETECT. -/
def State.retrain (s : State) (l : Nat) : State :=
  if (s.brim l).attempts < 3 then s.toLock l ((s.brim l).attempts + 1) else (s.toLink l .detect).updBrim l fun b => { b with attempts := 0 }

/-- A brim link. -/
def linkNo (l : Nat) : Bool := l < 64

/-- The fields are served: links train. -/
def State.trains (s : State) : Bool := s.vigil.phase = .up && !s.vigil.bootRom

/-- LINK_SIGNAL_DETECT. -/
def execLinkSignalDetect (l : Nat) (s : State) : Host.Outcome State Fault Refusal :=
  onUnit [.counters, .brims] (linkNo l) s fun s => if s.trains && (s.brim l).st = .detect then s.toLink l .equalize else s

/-- LINK_EQUALIZE_DONE: the first attempt at LOCK. -/
def execLinkEqualizeDone (l : Nat) (s : State) : Host.Outcome State Fault Refusal :=
  onUnit [.counters, .brims] (linkNo l) s fun s => if s.trains && (s.brim l).st = .equalize then s.toLock l 1 else s

/-- LINK_LOCK_DONE: PARAM flits are exchanged. -/
def execLinkLockDone (l : Nat) (s : State) : Host.Outcome State Fault Refusal :=
  onUnit [.counters, .brims] (linkNo l) s fun s => if s.trains && (s.brim l).st = .lock then (s.toLink l .params).sendParam l else s

/-- LINK_TRAINING_TIMEOUT: a bound of Table 10-4 passes. A mismatch, and a unit that has not left HELD, hold the link in PARAMS, and the
exchange is repeated (R242, R398). -/
def State.trainingExpires (s : State) (l : Nat) : State :=
  match (s.brim l).st with
  | .equalize => s.toLink l .detect
  | .lock => s.retrain l
  | .params => if (s.brim l).miswired || !s.vigil.wasReady then s.sendParam l else s.retrain l
  | _ => s

/-- LINK_TRAINING_TIMEOUT. -/
def execLinkTrainingTimeout (l : Nat) (s : State) : Host.Outcome State Fault Refusal :=
  onUnit [.counters, .brims] (linkNo l) s fun s => if s.trains then s.trainingExpires l else s

/-- LINK_LOCK_LOSS: codeword lock is lost. -/
def State.lockLoss (s : State) (l : Nat) : State :=
  match (s.brim l).st with
  | .active => s.toLock l 1
  | .params => s.retrain l
  | _ => s

/-- LINK_LOCK_LOSS. -/
def execLinkLockLoss (l : Nat) (s : State) : Host.Outcome State Fault Refusal :=
  onUnit [.counters, .brims] (linkNo l) s fun s => s.lockLoss l

/-! ### A lost link (R241, R246, R255) -/

/-- The place of the pass of this unit that sent a message: job, field, core and index. -/
def State.senderOf (s : State) (no : Nat) : Option (Word × Nat × Nat × Nat) :=
  match s.mesh.awaited.find? (·.no = no) with
  | some a => some (a.job, a.field, a.core, a.idx)
  | none => (allUnitCores.find? fun q => (s.core q.1 q.2).window.any (·.msgs.contains no)).bind fun q =>
      ((s.core q.1 q.2).window.find? (·.msgs.contains no)).map fun w => (w.job, q.1, q.2, w.idx)

/-- R255: a message of this unit is lost: its sender writes LINK_LOST and its job ends with it. -/
def State.messageLost (s : State) (l no code : Nat) : State :=
  match s.senderOf no with
  | none => s
  | some (h, f, c, i) => match s.job h with
    | none => s
    | some j =>
      if j.isEnded then s
      else ((s.logFault {
        code, cls := 3, part := 5, field := f, core := c, handle := j.named, pass := i,
        detail := waitDetail 1 l 0xFFFF 0xFF }).updJob h fun j => { j with failCode := code }).endJob h code (some (f, c, i))

/-- LINK_LOST_TIMER: a link that has been ACTIVE is down for 10 ms: its replay buffer is discarded, with the messages in it,
and so is a message that was coming in. -/
def State.loseLink (s : State) (l : Nat) : State :=
  let b := s.brim l
  if !b.everActive || b.st = .active || b.lost then s
  else
    let nos := (b.replay.map (·.2)).eraseDups
    let t := s.setBrim l { b with lost := true, replay := [], resends := 0, rx := [], poisonMask := [] }
    let t : State := { t with mesh := { t.mesh with
      msgs := t.mesh.msgs.filter fun m => !(nos.contains m.no && 0 < m.sent) && !(m.from_ = some l && 0 < m.short) } }
    (nos.foldl (fun s no => s.messageLost l no stLINK_LOST) t).degrade

/-- LINK_LOST_TIMER. -/
def execLinkLostTimer (l : Nat) (s : State) : Host.Outcome State Fault Refusal :=
  onUnit (endParts ++ [.brims]) (linkNo l) s fun s => s.loseLink l

/-! ### Replay (R245, R246) -/

/-- The flit is covered by an acknowledgement. -/
def covered (ack : Nat) (f : Flit) : Bool := (ack + 1024 - fSeq f) % 1024 < 512

/-- Takes the acknowledgement of a flit that was received. -/
def State.takeAck (s : State) (l : Nat) (f : Flit) : State :=
  if !fAckv f then s
  else s.updBrim l fun b =>
    let r := b.replay.dropWhile fun p => covered (fAck f) p.1
    { b with replay := r, resends := if r.length = b.replay.length then b.resends else 0 }

/-- Resends from the oldest flit that is not acknowledged; the eighth time without progress takes the link to LOCK. -/
def State.resend (s : State) (l : Nat) : State :=
  let b := s.brim l
  if b.st ≠ .active || b.replay.isEmpty then s
  else
    let t := s.setBrim l { b with resends := b.resends + 1 }
    let t := (b.replay.foldl (fun s p => s.sendFlit l p.1) t).count (brimBlock l) 3 b.replay.length
    if 8 ≤ b.resends + 1 then (t.toLock l 1).updBrim l fun b => { b with resends := 0 } else t

/-- REPLAY_TIMEOUT. -/
def execReplayTimeout (l : Nat) (s : State) : Host.Outcome State Fault Refusal :=
  onUnit [.counters, .brims] (linkNo l) s fun s => s.resend l

/-- One NAK for a discarded or unexpected flit. -/
def State.sendNak (s : State) (l : Nat) : State :=
  let b := s.brim l
  if b.nakSent then s
  else (s.setBrim l { b with nakSent := true }).sendFlit l (controlFlit 0 0 2 2 (leBytes 1 0 ++ leBytes 2 b.rxSeq))

/-- R240: the codeword, by lane and number on it, that carries a symbol of the flit stream: ten bits to a symbol, symbols to the eight
lanes in turn, 514 of them to a codeword. -/
def codewordOf (sym : Nat) : Nat × Nat := (sym % 8, sym / 8 / 514)

/-- R240: a codeword overlaps a flit of the stream. -/
def overlaps (pos : Nat) (c : Nat × Nat) : Bool :=
  (List.range 206).any fun i => decide ((2048 * pos / 10 + i) * 10 < 2048 * (pos + 1)) && codewordOf (2048 * pos / 10 + i) = c

/-- A codeword that failed overlaps the flit. -/
def fecFailed (x : Fec) : Bool := x.failed.any (overlaps x.pos)

/-- Counts what the codes say of a flit (R256): each failed codeword with the first flit it overlaps. -/
def State.countFec (s : State) (l : Nat) (x : Fec) : State :=
  let fresh := x.failed.filter fun c => overlaps x.pos c && !(decide (0 < x.pos) && overlaps (x.pos - 1) c)
  (s.count (brimBlock l) 0 x.corrected).count (brimBlock l) 13 fresh.length

/-- A flit is discarded, and counted by its cause. -/
def State.discardFlit (s : State) (l pos : Nat) : State := (s.count (brimBlock l) pos 1).sendNak l

/-- Payload bytes from `i` on that are 0, where a flit's kind gives them no use. -/
def payZero (f : Flit) (i n : Nat) : Bool := fPay f i n = 0

/-- What a flit is, by its type and control kind (Tables 10-6, 10-7): a reserved kind is its own class. -/
inductive FlitClass where
  | data
  | poison
  | credit
  | nak
  | param
  | idle
  | reserved
deriving DecidableEq, Repr

/-- The class of a flit. -/
def flitClass (f : Flit) : FlitClass :=
  match fType f, fPay f 0 1 with
  | 0, _ => .data
  | 1, 3 => .poison
  | 2, 1 => .credit
  | 2, 2 => .nak
  | 2, 4 => .param
  | 3, _ => .idle
  | _, _ => .reserved

/-- What a receiver makes of a flit: its acknowledgement is taken and the flit handed on, or it is discarded (R243, R244), whole, where
a failed codeword overlaps it. A whole flit of a class that is not the command's is another command's. -/
def State.receiveFlit (s : State) (l : Nat) (f : Flit) (x : Fec) (mine : List FlitClass) (shape : Bool) (on : State → State) : State :=
  if (s.brim l).st ≠ .active && (s.brim l).st ≠ .params then s
  else if !fecFailed x && flitCrc f && flitClass f ≠ .reserved && !mine.contains (flitClass f) then s
  else
    let t := (s.countFec l x).count (brimBlock l) 2 1
    if fecFailed x then t.sendNak l
    else if !flitCrc f then t.discardFlit l 14
    else if flitClass f = .reserved || fld f 28 4 ≠ 0 || !shape then t.discardFlit l 15
    else on (t.takeAck l f)

/-- A sequenced flit of the expected number is accepted; any other draws one NAK. -/
def State.inOrder (s : State) (l : Nat) (f : Flit) (on : State → State) : State :=
  let b := s.brim l
  if b.st ≠ .active then s
  else if fSeq f ≠ b.rxSeq then s.sendNak l
  else on (s.setBrim l { b with rxSeq := (b.rxSeq + 1) % 1024, rxAny := true, nakSent := false })

/-! ### Control flits (Table 10-7) -/

/-- An unsequenced control flit with nothing but the first `used` bytes of payload. -/
def controlShape (f : Flit) (used : Nat) : Bool := fSeq f = 0 && !fHead f && !fTail f && payZero f used (248 - used)

/-- R248: what the peer has freed comes back as credit. -/
def State.takeCredit (s : State) (l : Nat) (f : Flit) : State :=
  s.updBrim l fun b =>
    let seen := (List.range 8).map fun v => fPay f (2 + 2 * v) 2
    { b with
      credits := (List.range 8).map fun v => b.credits.getD v 0 + (seen.getD v 0 + 65536 - b.freedSeen.getD v 0) % 65536
      freedSeen := seen }

/-- CREDIT. -/
def execCreditFlit (l : Nat) (flit : Arrival) (s : State) : Host.Outcome State Fault Refusal :=
  onUnit [.counters, .brims] (linkNo l) s fun s =>
    s.receiveFlit l flit.bits flit.fec [.credit] (controlShape flit.bits 18 && payZero flit.bits 1 1) fun s => s.takeCredit l flit.bits

/-- NAK. -/
def execNakFlit (l : Nat) (flit : Arrival) (s : State) : Host.Outcome State Fault Refusal :=
  onUnit [.counters, .brims] (linkNo l) s fun s =>
    s.receiveFlit l flit.bits flit.fec [.nak] (controlShape flit.bits 4 && payZero flit.bits 1 1 && fPay flit.bits 2 2 < 1024) fun s => s.resend l

/-- A POISON flit with nothing but its mask. -/
def poisonShape (f : Flit) : Bool :=
  !fHead f && !fTail f && payZero f 1 3 && fPay f 4 4 < 2 ^ 31 && payZero f 8 240

/-- The mask of the next data flit on its VC. -/
def State.takePoison (s : State) (l : Nat) (f : Flit) : State :=
  s.inOrder l f fun s =>
    s.updBrim l fun b => { b with poisonMask := Sparse.set 0 b.poisonMask (fVc f) (BitVec.ofNat 32 (fPay f 4 4)) }

/-- POISON. -/
def execPoisonFlit (l : Nat) (flit : Arrival) (s : State) : Host.Outcome State Fault Refusal :=
  onUnit [.counters, .brims] (linkNo l) s fun s => s.receiveFlit l flit.bits flit.fec [.poison] (poisonShape flit.bits) fun s => s.takePoison l flit.bits

/-- IDLE: nothing but an acknowledgement. -/
def execIdleFlitReceive (l : Nat) (flit : Arrival) (s : State) : Host.Outcome State Fault Refusal :=
  onUnit [.counters, .brims] (linkNo l) s fun s => s.receiveFlit l flit.bits flit.fec [.idle] (fSeq flit.bits = 0 && !fHead flit.bits && !fTail flit.bits) id

/-- R242: the peer's parameters agree with this unit's. -/
def State.paramsAgree (s : State) (l : Nat) (f : Flit) : Bool :=
  let want : BitVec 32 := match s.fabActive with | some x => Sparse.get 0 x.neighbours l | none => 0
  fPay f 1 2 = s.domain && fPay f 6 1 = s.linkRev && (!bit want 31 || (fPay f 3 2 = fld want 0 15 && fPay f 5 1 = fld want 16 6))

/-- A link enters ACTIVE: what the peer has received leaves the replay buffer, and the rest is sent again (R246). -/
def State.activate (s : State) (l next : Nat) : State :=
  let b := s.brim l
  let r := b.replay.dropWhile fun p => covered ((next + 1023) % 1024) p.1
  let t := (s.toLink l .active).updBrim l fun b => { b with
    attempts := 0, miswired := false, lost := false, resends := 0, nakSent := false, everActive := true, replay := r,
    txSeq := if r.isEmpty then next else b.txSeq, credits := if b.everActive then b.credits else List.replicate 8 64 }
  r.foldl (fun s p => s.sendFlit l p.1) t

/-- PARAM: judged in PARAMS, where agreement makes the link ACTIVE once the unit has left HELD (R242, R398); disagreement takes an
ACTIVE link to LOCK. -/
def State.takeParam (s : State) (l : Nat) (f : Flit) : State :=
  let ok := s.paramsAgree l f
  match (s.brim l).st with
  | .params =>
    if !ok then s.updBrim l fun b => { b with miswired := true }
    else if s.vigil.wasReady then s.activate l (fPay f 7 2 % 1024) else s.updBrim l fun b => { b with miswired := false }
  | .active => if ok then s else s.toLock l 1
  | _ => s

/-- PARAM. -/
def execParamFlit (l : Nat) (flit : Arrival) (s : State) : Host.Outcome State Fault Refusal :=
  onUnit [.counters, .brims] (linkNo l) s fun s =>
    s.receiveFlit l flit.bits flit.fec [.param] (controlShape flit.bits 9 && fPay flit.bits 3 2 < 2 ^ 15 && fPay flit.bits 5 1 < 64 && fPay flit.bits 7 2 < 1024) fun s =>
      s.takeParam l flit.bits

/-- CREDIT_REPORT_TIMER: a CREDIT flit where counts have changed (R248), else an idle flit: every flit that a link sends reports its
last number received in order (R245). -/
def State.reportCredit (s : State) (l : Nat) : State :=
  let b := s.brim l
  if b.st ≠ .active && b.st ≠ .params then s
  else if b.freed = b.freedSent then s.sendFlit l (mkFlit 0 0 3 false false 0)
  else (s.setBrim l { b with freedSent := b.freed }).sendFlit l (controlFlit 0 0 2 1 (leBytes 1 0 ++ (b.freed.map fun n => leBytes 2 n).flatten))

/-- CREDIT_REPORT_TIMER. -/
def execCreditReportTimer (l : Nat) (s : State) : Host.Outcome State Fault Refusal :=
  onUnit [.counters, .brims] (linkNo l) s fun s => s.reportCredit l

end Sys2Proof.Machine
end

