-- ==== Sys2Proof/Machine/Fabric.lean ====
section
/-! DEFINITION. The fabric: its configuration and the messages of family 0x08xx (R242, R293, R320), data flits (R245, R249), the hops of
messages (R247, R251), and what a message does where it is delivered (R252 to R255). -/

namespace Sys2Proof.Machine

/-! ### Messages, 0x08xx (R320, Table 13-12) -/

/-- The reserved bits of a neighbour table entry are 0. -/
def neighbourOk (w : Nat) : Bool := w / 2 ^ 15 % 2 = 0 && w / 2 ^ 22 % 2 ^ 9 = 0

/-- The 4-byte entries of a neighbour table. -/
def neighbourTable (bs : List Byte) : List Nat := (List.range 64).map fun i => leNat ((bs.drop (4 * i)).take 4)

/-- Another channel has a fabric configuration staged. -/
def State.fabElsewhere (s : State) (q : Nat) : Bool := match s.fabStaged with | some c => c.owner ≠ q | none => false

/-- FABRIC_STAGE. -/
def fabricStageMsg (rd : DmaRead) (m : Msg) (s : State) : State :=
  let e := m.entry
  let timeout := eNum e 36 4
  if s.fabElsewhere m.id.src then s.finish m stNOT_OWNER []
  else if (descAt e 16).len ≠ 256 || 2 ^ 15 ≤ eNum e 34 2 then s.finish m stMALFORMED []
  else if 10000 < timeout then s.finish m stOUT_OF_RANGE []
  else match s.payload m (descAt e 16) rd with
    | .error st => s.finish m st []
    | .ok bs =>
      let ns := neighbourTable bs
      if !ns.all neighbourOk then s.finish m stMALFORMED []
      else
        let c : Fabric := {
          owner := m.id.src, gen := s.fabGen, domain := eNum e 32 2, ordinal := eNum e 34 2
          timeout := if timeout = 0 then 20 else timeout
          neighbours := ns.zipIdx.foldl (fun (a : Sparse (BitVec 32)) p => Sparse.set 0 a p.2 (BitVec.ofNat 32 p.1)) [] }
        State.finish { s with fabStaged := some c, fabGen := s.fabGen + 1 } m stOK (leBytes 8 c.handle.toNat)

/-- FABRIC_STAGE. -/
def execFabricStage (m : MsgId) (rd : DmaRead) (s : State) : Host.Outcome State Fault Refusal :=
  onMsg 0x0801 [.fabGen] m (fabricStageMsg rd) s

/-- R251: the reserved bits of a route table entry are 0. -/
def routeOk (e : BitVec 128) : Bool := fld e 117 3 = 0 && fld e 120 8 = 0

/-- The entries of a route payload. -/
def routeEntries (bs : List Byte) (n : Nat) : List (BitVec 128) :=
  (List.range n).map fun i => BitVec.ofNat 128 (leNat ((bs.drop (16 * i)).take 16))

/-- Route table entries from an ordinal on. -/
def Fabric.setRoutes (x : Fabric) (first : Nat) (es : List (BitVec 128)) : Fabric :=
  { x with routes := es.zipIdx.foldl (fun (a : Sparse (BitVec 128)) p => Sparse.set 0 a (first + p.2) p.1) x.routes }

/-- The owner of the fabric configuration that a handle names. -/
def State.fabOwner (s : State) (h : Word) : Option Nat :=
  if fabNamed h s.fabStaged then s.fabStaged.map (·.owner) else if fabNamed h s.fabActive then s.fabActive.map (·.owner) else none

/-- FABRIC_ROUTES: into the staged or the active configuration. -/
def fabricRoutesMsg (rd : DmaRead) (m : Msg) (s : State) : State :=
  let e := m.entry
  let h := sqHandle e
  let first := eNum e 32 4
  let n := eNum e 36 4
  if s.fabOwner h ≠ some m.id.src then s.finish m stNOT_OWNER []
  else if n = 0 || 32768 < n || 32768 < first + n then s.finish m stOUT_OF_RANGE []
  else if (descAt e 16).len ≠ 16 * n then s.finish m stMALFORMED []
  else match s.payload m (descAt e 16) rd with
    | .error st => s.finish m st []
    | .ok bs =>
      let es := routeEntries bs n
      if !es.all routeOk then s.finish m stMALFORMED []
      else if fabNamed h s.fabStaged then
        State.finish { s with fabStaged := s.fabStaged.map fun x => x.setRoutes first es } m stOK []
      else State.finish { s with fabActive := s.fabActive.map fun x => x.setRoutes first es } m stOK []

/-- FABRIC_ROUTES. -/
def execFabricRoutes (m : MsgId) (rd : DmaRead) (s : State) : Host.Outcome State Fault Refusal :=
  onMsg 0x0802 [] m (fabricRoutesMsg rd) s

/-- A descriptor waits for other units: a REDUCE of level 2 or a FABRIC move. -/
def Desc.crossesUnits (d : Desc) : Bool := (Desc.kind d = 6 && Desc.rdLevel d = 2) || (Desc.kind d = 9 && Desc.mvKind d = 2)

/-- A job runs a pass that waits for other units. -/
def State.fabricBusy (s : State) : Bool :=
  s.jobs.any fun j => j.st ≠ .waiting && (match s.plan j.plan with
    | some p => p.fields.any fun pf => allCores.any fun c => (pf.segRun j.seg c).any fun i => Desc.crossesUnits (pf.desc i)
    | none => false)

/-- An ACTIVE link returns to PARAMS, to be checked again. -/
def State.recheckLink (s : State) (l : Nat) : State :=
  if (s.brim l).st = .active then (s.toLink l .params).sendParam l else s

/-- FABRIC_APPLY. -/
def fabricApplyMsg (m : Msg) (s : State) : State :=
  match s.fabStaged with
  | none => s.finish m stOUT_OF_RANGE []
  | some c =>
    if !fabNamed (sqHandle m.entry) (some c) then s.finish m stOUT_OF_RANGE []
    else if c.owner ≠ m.id.src then s.finish m stNOT_OWNER []
    else if s.fabricBusy then s.finish m stIN_USE []
    else ((List.range 64).foldl State.recheckLink { s with fabStaged := none, fabActive := some c }).finish m stOK []

/-- FABRIC_APPLY. -/
def execFabricApply (m : MsgId) (s : State) : Host.Outcome State Fault Refusal := onMsg 0x0803 [.brims] m fabricApplyMsg s

/-- LINK_ENABLE (R293): the masked links of this source. -/
def linkEnableMsg (m : Msg) (s : State) : State :=
  let mask : Word := m.entry.extractLsb' 128 64
  let on := eByte m.entry 24
  if 1 < on then s.finish m stOUT_OF_RANGE []
  else
    let i := s.sourceOf m
    let r := s.request i
    let r : Request := if on = 1 then { r with linksOn := r.linksOn ||| mask, linksOff := r.linksOff &&& ~~~mask }
      else { r with linksOff := r.linksOff ||| mask, linksOn := r.linksOn &&& ~~~mask }
    let t := (s.setRequest i r).followRequests
    let ok := (List.range 64).all fun l => !bit mask l || t.linkOn l = decide (on = 1)
    t.finish m (if ok then stOK else stSUPERSEDED) (leBytes 8 t.linkMask)

/-- LINK_ENABLE. -/
def execLinkEnable (m : MsgId) (s : State) : Host.Outcome State Fault Refusal := onMsg 0x0804 [.requests, .brims] m linkEnableMsg s

/-- The code of a link state. -/
def LinkState.code : LinkState → Nat
  | .disabled => 0
  | .detect => 1
  | .equalize => 2
  | .lock => 3
  | .params => 4
  | .active => 5

/-- A link's byte in LINK_STATE. -/
def Brim.stateByte (b : Brim) : Nat := LinkState.code b.st + (if b.miswired then 64 else 0) + (if b.lost then 128 else 0)

/-- LINK_STATE. -/
def execLinkState (m : MsgId) (s : State) : Host.Outcome State Fault Refusal :=
  onMsg 0x0805 [] m (fun m s => s.finish m stOK ((List.range 64).map fun l => BitVec.ofNat 8 (s.brim l).stateByte)) s

/-! ### Message headers (Table 10-8) -/

/-- The header of a message as a number of 56 bytes. -/
def FabMsg.header (m : FabMsg) (ptr : Nat) : Nat :=
  m.kind + m.hops * 2 ^ 4 + ptr * 2 ^ 8 + (m.words.length + m.short) / 8 * 2 ^ 16 + m.tag.toNat * 2 ^ 32 + m.addr.toNat * 2 ^ 64 +
  m.src * 2 ^ 128 + m.id * 2 ^ 144 + m.pass * 2 ^ 160 + m.rank * 2 ^ 176 + m.round * 2 ^ 178 + m.route.toNat * 2 ^ 184

/-- Flits of a message of `n` data words (R249). -/
def msgFlits (n : Nat) : Nat := if n ≤ 24 then 1 else 1 + cdiv (n - 24) 31

/-- The 31 payload words of flit `i` of a message, with poison, filled up with zeros. -/
def FabMsg.flitWords (m : FabMsg) (ptr i : Nat) : List (Word × Bool) :=
  let ws : List (Word × Bool) :=
    if i = 0 then ((List.range 7).map fun k => (BitVec.ofNat 64 (m.header ptr / 2 ^ (64 * k)), false)) ++ m.words.take 24
    else (m.words.drop (24 + 31 * (i - 1))).take 31
  ws ++ List.replicate (31 - ws.length) (0, false)

/-- Words as a payload number. -/
def payloadOf (ws : List (Word × Bool)) : Nat := ws.foldr (fun w n => w.1.toNat + 2 ^ 64 * n) 0
/-- The poison mask of words. -/
def poisonOf (ws : List (Word × Bool)) : Nat := ws.foldr (fun w n => (if w.2 then 1 else 0) + 2 * n) 0

/-- Payload words of a flit with their poison, from word `lo` on. -/
def dataWords (f : Flit) (mask : BitVec 32) (lo n : Nat) : List (Word × Bool) :=
  (List.range n).map fun i => (fWord f (lo + i), bit mask (lo + i))

/-- The message that a head flit begins, none where the header or the tail bit breaks R249. -/
def parseHead (l no vc : Nat) (f : Flit) (mask : BitVec 32) : Option FabMsg :=
  let b (i n : Nat) : Nat := fPay f i n
  let n := 8 * b 2 2
  let kind := b 0 1 % 16
  let ptr := b 1 1
  if 1 ≤ kind && kind ≤ 4 && ptr ≤ 16 && 1 ≤ b 2 2 && b 2 2 ≤ 1024 && b 16 2 < 2 ^ 15 && fPay f 37 19 = 0 &&
      fTail f = decide (msgFlits n = 1) then
    some {
      no, kind, hops := b 0 1 / 16, ptr, tag := BitVec.ofNat 32 (b 4 4), addr := BitVec.ofNat 64 (b 8 8), src := b 16 2
      id := b 18 2, pass := b 20 2, rank := b 22 1 % 4, round := b 22 1 / 4, route := BitVec.ofNat 112 (b 23 14)
      words := (dataWords f mask 7 24).take n, plane := decide (vc % 2 = 1), from_ := some l, short := n - 24, buf := 1, inVc := vc }
  else none

/-! ### SEQUENCED_FLIT_RECEIVE (R245, R249) -/

/-- A protocol error in a flit that was accepted. -/
def State.flitError (s : State) (l : Nat) : State := s.count (brimBlock l) 15 1

/-- R248: flits leave the buffer of a VC. -/
def State.freeFlits (s : State) (l v n : Nat) : State :=
  s.updBrim l fun b => { b with freed := b.freed.set v ((b.freed.getD v 0 + n) % 65536) }

/-- A message's flits leave the buffer they stand in. -/
def State.freeBuf (s : State) (m : FabMsg) (n : Nat) : State :=
  match m.from_ with
  | some l => if n = 0 then s else s.freeFlits l m.inVc n
  | none => s

/-- Changes a message by its number. -/
def State.updMsg (s : State) (no : Nat) (g : FabMsg → FabMsg) : State :=
  { s with mesh := { s.mesh with msgs := s.mesh.msgs.map fun m => if m.no = no then g m else m } }
/-- Removes a message. -/
def State.dropMsg (s : State) (no : Nat) : State := { s with mesh := { s.mesh with msgs := s.mesh.msgs.filter (·.no ≠ no) } }

/-- A message at this unit. -/
def State.msgNo? (s : State) (no : Nat) : Option FabMsg := s.mesh.msgs.find? (·.no = no)

/-- A data flit that is a protocol error leaves its buffer, and the message that its VC was receiving is dropped. -/
def State.badData (s : State) (l v no : Nat) : State :=
  let t := match s.msgNo? no with
    | some m => (s.freeBuf m m.buf).dropMsg no
    | none => s
  ((t.freeFlits l v 1).updBrim l fun b => { b with rx := Sparse.set {} b.rx v {} }).flitError l

/-- A data flit joins the message of its VC, and stands in the VC's buffer until it goes on (R248). A head begins a message at this
unit. A message with a bad header, or one that starts, goes on or ends out of turn, is a protocol error. A flit of a message that was
discarded leaves the buffer at once. -/
def State.takeData (s : State) (l : Nat) (f : Flit) : State :=
  let b := s.brim l
  let v := fVc f
  let r := Sparse.get {} b.rx v
  let mask := Sparse.get 0 b.poisonMask v
  let t := s.setBrim l { b with poisonMask := Sparse.set 0 b.poisonMask v 0 }
  let rx (t : State) (r : RxMsg) : State := t.updBrim l fun b => { b with rx := Sparse.set {} b.rx v r }
  if fHead f ≠ decide (r.total = 0) then (if r.total = 0 then t.badData l v t.mesh.msgNo else t.badData l v r.no)
  else if fHead f then
    match parseHead l t.mesh.msgNo v f mask with
    | none => t.badData l v t.mesh.msgNo
    | some m =>
      let u : State := { t with mesh := { t.mesh with msgs := t.mesh.msgs ++ [m], msgNo := t.mesh.msgNo + 1 } }
      if m.short = 0 then u else rx u { no := m.no, got := 1, total := msgFlits (m.words.length + m.short) }
  else
    let last := decide (r.got + 1 = r.total)
    if fTail f ≠ last then t.badData l v r.no
    else
      let u := rx t (if last then {} else { r with got := r.got + 1 })
      if (u.msgNo? r.no).isNone then u.freeFlits l v 1
      else u.updMsg r.no fun m => { m with
        words := m.words ++ (dataWords f mask 0 31).take m.short, short := m.short - 31, buf := m.buf + 1 }

/-- A data flit or a POISON flit is taken in order. -/
def State.takeSequenced (s : State) (l : Nat) (f : Flit) (x : Fec) : State :=
  s.receiveFlit l f x [.data, .poison] (flitClass f = .data || poisonShape f) fun s =>
    if flitClass f = .data then s.inOrder l f fun s => s.takeData l f else s.takePoison l f

/-- SEQUENCED_FLIT_RECEIVE. -/
def execSequencedFlitReceive (l : Nat) (flit : Flit) (fec : Fec) (s : State) : Host.Outcome State Fault Refusal :=
  onUnit [.counters, .mesh, .brims] (linkNo l) s fun s => s.takeSequenced l flit fec

/-! ### MESSAGE_HOP (R247, R251) -/

/-- The traffic class of a message kind. -/
def msgClass (kind : Nat) : Nat := match kind with | 1 => 2 | 2 => 1 | 3 => 3 | _ => 0

/-- The next hop of a message: link, and virtual channel; none where it has arrived. -/
def FabMsg.next (m : FabMsg) : Option (Nat × Nat) :=
  if m.ptr ≤ m.hops then
    some (fld m.route (7 * m.ptr) 6, 2 * msgClass m.kind + (if m.plane || bit m.route (7 * m.ptr + 6) then 1 else 0))
  else none

/-- The link of a message's next hop is down; a message part of which is sent waits while its link may still return (R246). -/
def State.hopDown (s : State) (m : FabMsg) (l : Nat) : Bool := (s.brim l).st ≠ .active && (m.sent = 0 || (s.brim l).lost)

/-- A sender may send one more sequenced flit on a VC, with its POISON flit where a word is poisoned. -/
def Brim.canSend (b : Brim) (vc : Nat) (poison : Bool) : Bool :=
  b.st = .active && 0 < b.credits.getD vc 0 && b.replay.length + (if poison then 2 else 1) ≤ 512

/-- The words of the next flit that a message sends. -/
def FabMsg.nextWords (m : FabMsg) : List (Word × Bool) := m.flitWords (m.ptr + 1) m.sent

/-- No message before it in the list takes the same link and VC. -/
def firstOnVc (before : List FabMsg) (q : Nat × Nat) : Bool := !before.any fun o => !o.here && o.next = some q

/-- R237, R238: no way leads over the ring and a working tap between the link and the field that a message comes from or goes to. -/
def State.msgCut (s : State) (m : FabMsg) : Bool :=
  match m.next, m.from_ with
  | none, some l =>
    decide (m.kind ≤ 2) && (s.topo.place (faField m.addr)).isSome && s.brimCut (linkSegment l) (faField m.addr)
  | some q, none => match s.senderOf m.no with
    | some p => s.brimCutFrom p.2.1 (linkSegment q.1)
    | none => false
  | _, _ => false

/-- The next flit of a message is at this unit. -/
def FabMsg.flitReady (m : FabMsg) : Bool := decide (m.short = 0) || decide (m.sent < msgFlits m.words.length)

/-- The message at the unit that can go on, after the ones passed over: flits of it arrive, its link is down, or it can send. -/
def State.pickMsg (s : State) (before : List FabMsg) : List FabMsg → Option FabMsg
  | [] => none
  | m :: ms =>
    let go := !m.here && (match m.next with
      | none => (decide (0 < m.buf) || decide (m.short = 0)) && !s.msgCut m
      | some q => s.hopDown m q.1 || (firstOnVc before q && m.flitReady && !s.msgCut m &&
          (s.brim q.1).canSend q.2 (poisonOf m.nextWords ≠ 0)))
    if go then some m else State.pickMsg s (before ++ [m]) ms

/-- R251: the links taken so far, in reverse order, as a route. -/
def reverseRoute (m : FabMsg) : BitVec 112 :=
  BitVec.ofNat 112 (((List.range m.ptr).map fun i => fld m.route (7 * (m.ptr - 1 - i)) 6 * 2 ^ (7 * i)).sum)

/-- R251: a message whose link is down is discarded, and its source learns LINK_LOST: at once where this unit is its source, else by
the reverse route. -/
def State.turnBack (s : State) (m : FabMsg) : State :=
  if m.from_.isNone then
    (if m.kind = 3 then s.dropMsg m.no
     else s.updMsg m.no fun m => { m with kind := 3, pass := stLINK_LOST, words := [], here := true })
  else
    let t := (s.freeBuf m m.buf).dropMsg m.no
    if m.kind = 3 then t
    else
      let back : FabMsg := { m with
        no := t.mesh.msgNo, kind := 3, pass := stLINK_LOST, words := List.replicate 8 (0, false), addr := mkFa m.src 0 0 0
        src := s.ordinal, route := reverseRoute m, hops := m.ptr - 1, ptr := 0, plane := false, sent := 0, short := 0, buf := 0
        here := decide (m.ptr = 0) }
      { t with mesh := { t.mesh with msgs := t.mesh.msgs ++ [back], msgNo := t.mesh.msgNo + 1 } }

/-- Puts one sequenced flit on a link and into its replay buffer (R245). -/
def State.sendSequenced (s : State) (l no : Nat) (f : Nat → Flit) : State :=
  let x := f (s.brim l).txSeq
  (s.updBrim l fun b => { b with txSeq := (b.txSeq + 1) % 1024, replay := b.replay ++ [(x, no)] }).sendFlit l x

/-- Sends the next flit of a message on a VC (R244, R248, R254). -/
def State.sendPart (s : State) (m : FabMsg) (l vc : Nat) : State :=
  let ws := m.nextWords
  let mask := poisonOf ws
  let t := if mask = 0 then s
    else s.sendSequenced l m.no fun q =>
      mkFlit q vc 1 false false (leNat (leBytes 1 3 ++ leBytes 3 0 ++ leBytes 4 mask))
  let last := m.sent + 1 = msgFlits (m.words.length + m.short)
  let t := t.sendSequenced l m.no fun q => mkFlit q vc 0 (m.sent = 0) last (payloadOf ws)
  let t := t.updBrim l fun b => { b with credits := b.credits.set vc (b.credits.getD vc 0 - 1) }
  let t := t.freeBuf m (min m.buf 1)
  if last then t.dropMsg m.no else t.updMsg m.no fun m => { m with sent := m.sent + 1, buf := m.buf - 1 }

/-- Sends the flits of a message while credit and the replay buffer allow. -/
def State.sendMsg (s : State) (no l vc : Nat) : Nat → State
  | 0 => s
  | n + 1 => match s.mesh.msgs.find? (·.no = no) with
    | none => s
    | some m =>
      if m.flitReady && (s.brim l).canSend vc (poisonOf m.nextWords ≠ 0) then State.sendMsg (s.sendPart m l vc) no l vc n else s

/-- The VC on which the oldest message that waits for credit waits, by link and VC. -/
def State.creditWaiter (s : State) : Option (Nat × Nat) :=
  (s.mesh.msgs.filterMap fun m => if m.here || !m.flitReady then none else m.next).find? fun q =>
    (s.brim q.1).st = .active && (s.brim q.1).credits.getD q.2 0 = 0

/-- MESSAGE_HOP: the oldest message that can go on arrives, turns back or leaves, as far as its flits are at this unit. Where none can, the one that waits for credit has
waited one flit time more (R256). -/
def State.hop (s : State) : State :=
  match s.pickMsg [] s.mesh.msgs with
  | none => match s.creditWaiter with
    | some q => s.count (brimBlock q.1) (4 + q.2) 1
    | none => s
  | some m => match m.next with
    | none => (s.freeBuf m m.buf).updMsg m.no fun m => { m with here := decide (m.short = 0), buf := 0 }
    | some q => if s.hopDown m q.1 then s.turnBack m else s.sendMsg m.no q.1 q.2 (msgFlits m.words.length)

/-- MESSAGE_HOP. -/
def execMessageHop (s : State) : Host.Outcome State Fault Refusal := onUnit [.counters, .mesh, .brims] true s fun s => s.hop

/-! ### Messages delivered to this unit (R250, R252, R254, R255) -/

/-- The oldest message of a kind that is delivered here. -/
def State.delivered (s : State) (kind : Nat) : Option FabMsg := s.mesh.msgs.find? fun m => m.here && m.kind = kind

/-- The running job, or tick, that is bound to a tag. -/
def State.boundJob (s : State) (tag : BitVec 32) : Option Job := s.jobs.find? fun j => j.st = .running && Config.jobTag j.handle = tag

/-- The unit has a route to an ordinal. -/
def State.routable (s : State) (n : Nat) : Bool := n = s.ordinal || bit (s.routeEntry n) 116

/-- Acknowledges a write with a status (R252): 64 zero bytes of data, under the write's tag and number. -/
def State.ackMsg (s : State) (m : FabMsg) (status : Nat) : State :=
  if s.routable m.src then
    (s.postMsg m.src {
      no := 0, kind := 3, tag := m.tag, addr := mkFa m.src 0 0 0, id := m.id, pass := status
      words := List.replicate 8 (0, false) }).1
  else s

/-- A write's 64-byte unit `i` lies in the windows of the plan in its field. -/
def State.unitInPlan (s : State) (plan : Nat) (fa : Word) (i : Nat) : Bool :=
  match s.planField plan (faField fa) with
  | none => false
  | some pf =>
    if faRegion fa = 0 then
      let off := faOff fa
      let q := off / 2 ^ 25 % 8 * 128 + off / 2 ^ 18 % 128 + i
      off % 64 = 0 && off / 64 % 4096 + q / 1024 < pf.rows
    else faRegion fa = 1 && faOff fa % 64 = 0 && faOff fa + 64 * (i + 1) ≤ pf.comLen

/-- MSG_WRITE: the data is written where the job's plan places it, and acknowledged. -/
def State.writeMsg (s : State) (m : FabMsg) : State :=
  let t := s.dropMsg m.no
  match s.boundJob m.tag with
  | none => t.ackMsg m stTIMEOUT
  | some j =>
    let n := m.words.length / 8
    if !(List.range n).all (s.unitInPlan j.plan m.addr) then t.ackMsg m stOUT_OF_RANGE
    else
      ((List.range n).foldl (fun s i => match s.endpoint j.plan m.addr i with
        | some a => s.writeWords a ((m.words.drop (8 * i)).take 8)
        | none => s) t).ackMsg m stOK

/-- MSG_WRITE. -/
def execMsgWrite (s : State) : Host.Outcome State Fault Refusal :=
  onUnit [.mem, .mesh] true s fun s => match s.delivered 1 with | some m => s.writeMsg m | none => s

/-- The level-2 REDUCE of a job that an operand message belongs to, in a window: field, core and pass. -/
def State.reduceFor (s : State) (j : Job) (m : FabMsg) : Option (Nat × Nat × WinPass) :=
  allUnitCores.findSome? fun q => ((s.core q.1 q.2).window.find? fun w =>
    w.job = j.handle && Desc.kind w.desc = 6 && Desc.rdLevel w.desc = 2 && s.reduceOrdinal q.1 w = m.pass &&
    (reduceParts w.desc).contains m.src).map fun w => (q.1, q.2, w)

/-- The messages of one operand that are here, in order of their numbers. -/
def State.operandParts (s : State) (m : FabMsg) : List FabMsg :=
  let all := s.mesh.msgs.filter fun o =>
    o.here && o.kind = 2 && o.tag = m.tag && o.src = m.src && o.pass = m.pass && o.round = m.round
  (List.range all.length).filterMap fun i => all.find? fun o => faOff o.addr = i

/-- Words of an operand's data for a group: slot words and SAT bits, to a multiple of 64 bytes. -/
def operandLen (g : Group) : Nat :=
  let n := 128 * (groupWords g).length
  cdiv (cdiv n 2 + cdiv (n * (if g.pair then 2 else 1)) 64) 8 * 8

/-- An operand message whose REDUCE stands in a window, with every message of its operand here. -/
def State.operandReady (s : State) (m : FabMsg) : Option (Job × Nat × Nat × WinPass × List FabMsg) :=
  if !m.here || m.kind ≠ 2 then none
  else (s.boundJob m.tag).bind fun j => (s.reduceFor j m).bind fun r =>
    let g := (s.bu r.1 r.2.1 0).group (Desc.grp r.2.2.desc)
    let ps := s.operandParts m
    if operandLen g ≤ (ps.map fun o => o.words.length).sum then some (j, r.1, r.2.1, r.2.2, ps) else none

/-- R129, R255: an operand message of a job that has ended. -/
def State.lateOperand (s : State) (m : FabMsg) : Bool := m.here && m.kind = 2 && s.mesh.late.contains m.tag

/-- MSG_REDUCE_OPERAND: late messages are discarded, and the oldest operand that is whole reaches its node (R126, R254). -/
def State.takeOperand (s : State) : State :=
  let s : State := { s with mesh := { s.mesh with msgs := s.mesh.msgs.filter fun m => !s.lateOperand m } }
  match s.mesh.msgs.findSome? s.operandReady with
  | none => s
  | some (j, f, c, w, ps) =>
    let g := (s.bu f c 0).group (Desc.grp w.desc)
    match ps with
    | [] => s
    | m :: _ =>
      let o : Operand := {
        job := j.handle, field := f, core := c, level := 2, ordinal := m.pass, parts := m.src, round := m.round
        words := operandWords g (ps.map (·.words)).flatten }
      { s with mesh := { s.mesh with
        operands := s.mesh.operands ++ [o], msgs := s.mesh.msgs.filter fun x => !ps.any (·.no = x.no) } }

/-- MSG_REDUCE_OPERAND. -/
def execMsgReduceOperand (s : State) : Host.Outcome State Fault Refusal := onUnit [.mesh] true s fun s => s.takeOperand

/-- R255, chapter edges: a negative acknowledgement ends the job that waits for it. -/
def State.ackEnds (s : State) (h : Word) (code : Nat) (place : Option (Nat × Nat × Nat)) (link peer : Nat) : State :=
  match s.job h with
  | none => s
  | some j =>
    if j.isEnded then s
    else ((s.logFault {
      code, cls := 3, part := 5, field := (place.map (·.1)).getD 0xFF, core := (place.map (·.2.1)).getD 0xFF, handle := j.named
      pass := (place.map (·.2.2)).getD 0xFFFF
      detail := if code = stLINK_LOST || code = stTIMEOUT then waitDetail 1 link peer 0xFF else [] }).updJob h fun j =>
        { j with failCode := code }).endJob h code place

/-- A status of Table 13-1 that an acknowledgement carries; INTERNAL for a code that the table does not give (R300). -/
def ackStatus (code : Nat) : Nat :=
  if [stOK, stACCEPTED, stNOT_OWNER, stSUPERSEDED, stMALFORMED, stOUT_OF_RANGE, stSHAPE_MISMATCH, stCAPACITY, stSEAL_REQUIRED, stHELD,
    stIN_USE, stLANTERN_DENIED, stCADENCE_MISS, stINPUT_OVERRUN, stDATA_POISON, stMETADATA_FAULT, stUNCORRECTABLE, stPAYLOAD_CRC,
    stTIMEOUT, stLINK_LOST, stFIELD_LOST].contains code then code else stINTERNAL

/-- MSG_WRITE_ACK: OK ends the wait, TIMEOUT marks the message not ready, and any other status ends the sender's job. -/
def State.takeWriteAck (s : State) (m : FabMsg) : State :=
  let t := s.dropMsg m.no
  match t.mesh.awaited.find? fun a => a.msg.tag = m.tag && a.id = m.id with
  | some a =>
    if m.pass = stOK then { t with mesh := { t.mesh with awaited := t.mesh.awaited.filter (· ≠ a) } }
    else if m.pass = stTIMEOUT then
      { t with mesh := { t.mesh with awaited := t.mesh.awaited.map fun x => if x = a then { x with notReady := true } else x } }
    else
      let l := s.firstLink (faOrdinal a.msg.addr)
      t.ackEnds a.job (ackStatus m.pass) (some (a.field, a.core, a.idx)) l.1 (faOrdinal a.msg.addr)
  | none =>
    if m.pass = stOK then t
    else match s.senderOf m.no, t.boundJob m.tag with
      | some p, _ => t.ackEnds p.1 (ackStatus m.pass) (some p.2) (fld m.route 0 6) (faOrdinal m.addr)
      | none, some j => t.ackEnds j.handle (ackStatus m.pass) none (m.from_.getD 0xFF) m.src
      | none, none => t

/-- MSG_WRITE_ACK. -/
def execMsgWriteAck (s : State) : Host.Outcome State Fault Refusal :=
  onUnit endParts true s fun s => match s.delivered 3 with | some m => s.takeWriteAck m | none => s

/-- MSG_FABRIC_CONTROL: the spec gives its contents no effect beyond its receipt. -/
def execMsgFabricControl (s : State) : Host.Outcome State Fault Refusal :=
  onUnit [.mesh] true s fun s => match s.delivered 4 with | some m => s.dropMsg m.no | none => s

/-- NOT_READY_RESEND (R252): the message of that number which was not ready at its destination goes again. -/
def State.resendNotReady (s : State) (id : Nat) : State :=
  match s.mesh.awaited.find? fun a => a.notReady && a.id = id with
  | none => s
  | some a =>
    let t := s.postMsg (faOrdinal a.msg.addr) a.msg
    { t.1 with mesh := { t.1.mesh with
      awaited := t.1.mesh.awaited.map fun x => if x = a then { x with no := t.2, notReady := false } else x } }

/-- NOT_READY_RESEND. -/
def execNotReadyResend (id : Nat) (s : State) : Host.Outcome State Fault Refusal :=
  onUnit [.mesh] (decide (id < 65536)) s fun s => s.resendNotReady id

end Sys2Proof.Machine
end

