-- ==== Sys2Proof/Machine/Jtag.lean ====
section
/-! DEFINITION. The test access port (R459). Cell i is the i-th from TDI. -/

namespace Sys2Proof.Machine

/-- The cells of open-drain outputs (Table 19-5): SMBCLK, SMBDAT, SMBALERT_L and the four indicators of J40. -/
def openDrain : BitVec 97 := 0x1E7

/-- The port has power. -/
def jtagOn (s : State) (f : State → State) : State := if s.vigil.phase = .off then s else f s

/-- One bit through the bypass register. -/
def State.bypassBit (s : State) (code : BitVec 8) (tdi : Bool) : State :=
  { s with out := s.out ++ [Out.bypass s.jtag.bypassBit], jtag := { s.jtag with code, bypassBit := tdi } }

/-- EXTEST: in VIGIL, open-drain cells that hold 0 drive their contacts low; in every other state it acts as BYPASS, through which the
cell nearest to TDI is the last bit to come. -/
def State.extestCells (s : State) (cells : BitVec 97) : State :=
  if s.vigil.phase = .vigil then
    { s with out := s.out ++ [Out.contacts (openDrain &&& ~~~cells)], jtag := { s.jtag with code := 0x00, cells } }
  else s.bypassBit 0x00 (bit cells 0)

/-- EXTEST. -/
def execExtest (cells : BitVec 97) (s : State) : Host.Outcome State Fault Refusal :=
  onUnit [.jtag] true s fun s => jtagOn s fun s => s.extestCells cells

/-- SAMPLE/PRELOAD: the cells take what the contacts hold, and shift it out as the next values come in. -/
def execSamplePreload (pins cells : BitVec 97) (s : State) : Host.Outcome State Fault Refusal :=
  onUnit [.jtag] true s fun s => jtagOn s fun s =>
    { s with out := s.out ++ [Out.jtag pins], jtag := { s.jtag with code := 0x01, cells } }

/-- A code that selects the bypass register: every code but those of EXTEST in VIGIL and SAMPLE/PRELOAD. -/
def State.bypasses (s : State) (code : BitVec 8) : Bool := code ≠ 0x01 && (code ≠ 0x00 || s.vigil.phase ≠ .vigil)

/-- BYPASS. -/
def execBypass (code : BitVec 8) (tdi : Bool) (s : State) : Host.Outcome State Fault Refusal :=
  onUnit [.jtag] true s fun s => jtagOn s fun s => if s.bypasses code then s.bypassBit code tdi else s

end Sys2Proof.Machine
end

