-- ==== Sys2Proof/Machine/Modules.lean ====
section
/-! DEFINITION. Bulk slots and module links (R257 to R261, R274): presence, training, frames, and fencing. -/

namespace Sys2Proof.Machine

/-- A bulk slot. -/
def slotNo (m : Nat) : Bool := m < 16

/-! ### Fencing (R274) -/

/-- A pass has started with a module: a move of bulk kind to or from it. -/
def usesModule (m : Nat) (w : WinPass) : Bool :=
  Desc.kind w.desc = 9 && (Desc.mvKind w.desc = 3 || Desc.mvKind w.desc = 4) && moveSlot w.desc = m && w.started

/-- A pass of a core has a request to a module outstanding: its copy is not done, or its words are not all sent and executed. -/
def State.outstanding (s : State) (m f c : Nat) (w : WinPass) : Bool :=
  usesModule m w && (!w.done || !w.words.isEmpty || s.engineBusy f c w.serial)

/-- The pass of a core, its head, with a request to a module outstanding: job, place and pass index. -/
def State.waitersAt (s : State) (m f c : Nat) : List (Word × Nat × Nat × Nat) :=
  ((s.core f c).window.filter fun w => (s.core f c).isHead w.serial && s.outstanding m f c w).map fun w => (w.job, f, c, w.idx)

/-- The job of a pass ends with LINK_LOST: the module that it waits for is gone. -/
def State.moduleLost (s : State) (m : Nat) (q : Word × Nat × Nat × Nat) : State :=
  match s.job q.1 with
  | none => s
  | some j =>
    if j.isEnded then s
    else ((s.logFault {
      code := stLINK_LOST, cls := 3, part := 3, field := q.2.1, core := q.2.2.1, handle := j.named, pass := q.2.2.2
      detail := waitDetail 2 m 0xFFFF 0xFF }).updJob q.1 fun j => { j with failCode := stLINK_LOST }).endJob q.1 stLINK_LOST
        (some (q.2.1, q.2.2.1, q.2.2.2))

/-- R274: a slot is fenced: its link is disabled, what its engines hold is lost, and jobs with a request or an unacknowledged frame there
end. -/
def State.fence (s : State) (m : Nat) : State :=
  if (s.slot m).fenced then s
  else
    let ws := (allUnitCores.map fun q => s.waitersAt m q.1 q.2).flatten ++ ((s.slot m).unacked.filterMap fun i =>
      i.who.map fun w => (i.job, w.1, w.2.1, i.idx))
    let t := ws.foldl (fun s q => s.moduleLost m q) s
    let x := t.slot m
    ((t.setSlot m { present := x.present, fenced := true, everActive := x.everActive, st := .disabled }).raiseAll 7).degrade

/-- PRSNT_CHANGE: a module inserted or removed in OFF; in any other state the change fences the slot. -/
def State.presence (s : State) (m : Nat) (present : Bool) : State :=
  if (s.slot m).present = present then s
  else
    let t := s.updSlot m fun x => { x with present }
    if s.vigil.phase = .off then t else t.fence m

/-- PRSNT_CHANGE. -/
def execPrsntChange (m : Nat) (present : Bool) (s : State) : Host.Outcome State Fault Refusal :=
  onUnit endParts (slotNo m) s fun s => s.presence m present

/-! ### Training (Table 11-2) -/

/-- A module link in a state. -/
def State.toModule (s : State) (m : Nat) (st : LinkState) (attempts : Nat) : State :=
  s.updSlot m fun x => { x with st, attempts }

/-- The link of a fitted module trains. -/
def State.moduleTrains (s : State) (m : Nat) : Bool := s.trains && s.slotUp m

/-- MODULE_LINK_DETECT. -/
def execModuleLinkDetect (m : Nat) (s : State) : Host.Outcome State Fault Refusal :=
  onUnit [.slots] (slotNo m) s fun s => if s.moduleTrains m && (s.slot m).st = .detect then s.toModule m .lock 1 else s

/-- MODULE_LINK_LOCK. -/
def execModuleLinkLock (m : Nat) (s : State) : Host.Outcome State Fault Refusal :=
  onUnit [.slots] (slotNo m) s fun s =>
    if s.moduleTrains m && (s.slot m).st = .lock then s.toModule m .params (s.slot m).attempts else s

/-- A module link enters ACTIVE: frames not acknowledged go again, and those that wait follow (R246, R259). -/
def State.moduleActive (s : State) (m : Nat) : State :=
  let t := s.updSlot m fun x => { x with st := .active, attempts := 0, everActive := true, resends := 0, nakSent := false }
  let t := (t.slot m).replay.foldl (fun s f => s.sendFrame m f.1) t
  t.sendFrames m (t.slot m).waiting.length

/-- R261: what the module reports: 128 GiB, 8 channels and revision 0x32, or the slot is fenced. -/
def State.judgeModule (s : State) (m gib channels rev : Nat) : State :=
  if s.moduleTrains m && (s.slot m).st = .params then
    (if gib = 128 && channels = 8 && rev = 0x32 then s.moduleActive m else s.fence m)
  else s

/-- MODULE_PARAMS. -/
def execModuleParams (m gib channels rev : Nat) (s : State) : Host.Outcome State Fault Refusal :=
  onUnit endParts (slotNo m) s fun s => s.judgeModule m gib channels rev

/-- MODULE_LINK_LOCK_LOSS. -/
def execModuleLinkLockLoss (m : Nat) (s : State) : Host.Outcome State Fault Refusal :=
  onUnit [.slots] (slotNo m) s fun s => if (s.slot m).st = .active then s.toModule m .lock 1 else s

/-- A bound of Table 11-2 passes. -/
def State.moduleExpires (s : State) (m : Nat) : State :=
  let x := s.slot m
  match x.st with
  | .lock => if x.attempts < 3 then s.toModule m .lock (x.attempts + 1) else s.toModule m .detect 0
  | .params => s.toModule m .lock 1
  | _ => s

/-- MODULE_LINK_TIMEOUT. -/
def execModuleLinkTimeout (m : Nat) (s : State) : Host.Outcome State Fault Refusal :=
  onUnit [.slots] (slotNo m) s fun s => if s.moduleTrains m then s.moduleExpires m else s

/-- MODULE_LINK_LOST: a link that has been ACTIVE is down for 10 ms, and its slot is fenced. -/
def execModuleLinkLost (m : Nat) (s : State) : Host.Outcome State Fault Refusal :=
  onUnit endParts (slotNo m) s fun s =>
    if s.vigil.phase ≠ .off && s.slotUp m && (s.slot m).everActive && (s.slot m).st ≠ .active then s.fence m else s

/-! ### Frames (R258, R259) -/

/-- Resends from the oldest frame that is not acknowledged; the eighth time without progress takes the link to LOCK. -/
def State.resendFrames (s : State) (m : Nat) : State :=
  let x := s.slot m
  if x.st ≠ .active || x.replay.isEmpty then s
  else
    let t := x.replay.foldl (fun s f => s.sendFrame m f.1) (s.setSlot m { x with resends := x.resends + 1 })
    if 8 ≤ x.resends + 1 then (t.toModule m .lock 1).updSlot m fun x => { x with resends := 0 } else t

/-- BULK_RESEND_TIMER. -/
def execBulkResendTimer (m : Nat) (s : State) : Host.Outcome State Fault Refusal :=
  onUnit [.slots] (slotNo m) s fun s => s.resendFrames m

/-- One NAK for a discarded or unexpected frame; its payload is internal. -/
def State.nakFrame (s : State) (m : Nat) : State :=
  let x := s.slot m
  if x.nakSent then s
  else
    State.sendFrame { s.setSlot m { x with nakSent := true } with freeCtr := s.freeCtr + 1 } m
      (mkFrame 0 2 0 (Config.frameTag s.freeCtr) (Config.framePayload s.freeCtr) 0)

/-- A frame's acknowledgement and credit report are taken, and frames that waited for them go. -/
def State.takeReports (s : State) (m : Nat) (f : Frame) : State :=
  let t := s.updSlot m fun x =>
    let r := if bfAckv f then x.replay.dropWhile fun g => (bfAck f + 1024 - bfSeq g.1) % 1024 < 512 else x.replay
    { x with
      replay := r, resends := if r.length = x.replay.length then x.resends else 0
      credits := x.credits + (bfCredit f + 256 - x.freedSeen) % 256, freedSeen := bfCredit f }
  t.sendFrames m (t.slot m).waiting.length

/-- R275: a line that a module returned with poisoned words: one record names the slot and the channel. Its module offset is that of the
request, which the frame does not give (log entry 3). -/
def State.poisonedLine (s : State) (m : Nat) (f : Frame) : State :=
  let v := s.fresh
  let off := fld v.2 0 26 * 2048 + bfChan f * 256 + fld v.2 26 2 * 64
  (v.1.count (slotBlock m) 5 1).logFault {
    code := stUNCORRECTABLE, cls := 2, part := 3, detail := wordDetail (bfChan f) 0 0xFFFF 0xFF (bulkAddr m + off / 8) }

/-- A data or command frame: accepted in order, else one NAK. -/
def State.takeFrame (s : State) (m : Nat) (f : Frame) : State :=
  let x := s.slot m
  if bfSeq f ≠ x.rxSeq then s.nakFrame m
  else
    let t := s.setSlot m { x with rxSeq := (x.rxSeq + 1) % 1024, rxAny := true, nakSent := false, freed := (x.freed + 1) % 256 }
    if bfType f = 0 && bfPoison f ≠ 0 then t.poisonedLine m f else t

/-- BULK_FRAME_RECEIVE: a frame whose CRC fails is discarded whole, and counted. -/
def State.frameIn (s : State) (m : Nat) (f : Frame) : State :=
  if (s.slot m).st ≠ .active then s
  else if !frameCrc f then (s.count (slotBlock m) 7 1).nakFrame m
  else if !bfReservedOk f then s.nakFrame m
  else
    let t := s.takeReports m f
    if bfType f ≤ 1 then t.takeFrame m f
    else if bfType f = 2 && Config.frameIsNak (bfPayload f) then t.resendFrames m
    else t

/-- BULK_FRAME_RECEIVE. -/
def execBulkFrameReceive (m : Nat) (frame : BitVec 2176) (s : State) : Host.Outcome State Fault Refusal :=
  onUnit [.freeCtr, .log, .counters, .slots] (slotNo m) s fun s => s.frameIn m frame

end Sys2Proof.Machine
end

