-- ==== Sys2Proof/Machine/Smbus.lean ====
section
/-! DEFINITION. The management SMBus (R456 to R458). -/

namespace Sys2Proof.Machine

/-- Result codes. -/
def rcOK : Nat := 0
def rcPec : Nat := 1
def rcLength : Nat := 3
def rcFull : Nat := 4
def rcAsleep : Nat := 5
def rcWaking : Nat := 6
def rcKey : Nat := 7
def rcTimeout : Nat := 8

/-- A transaction's result. -/
def State.smbResult (s : State) (r : Nat) : State := { s with smb := { s.smb with last := r } }
/-- A transaction that the unit does not acknowledge. -/
def State.smbNak (s : State) (r : Nat) : State := State.smbResult { s with out := s.out ++ [Out.nak] } r
/-- Data that the controller reads. -/
def State.smbReply (s : State) (bs : List Byte) : State := { s with out := s.out ++ [Out.smbus bs] }

/-- A command that is answered whenever the Vigil domain has power. -/
def smbAlways (s : State) (f : State → State) : State := if s.vigil.phase = .off then s else f s

/-- R457: commands 0x10 to 0x22, not acknowledged in VIGIL and during WAKING. -/
def smbAwake (s : State) (f : State → State) : State :=
  match s.vigil.phase with
  | .off => s
  | .vigil => s.smbNak rcAsleep
  | .waking => s.smbNak rcWaking
  | .up => f s

/-- R456: a write whose packet error code fails or is missing has no effect but its result. -/
def smbWrite (pec : Bool) (s : State) (f : State → State) : State := if pec then f s else s.smbResult rcPec

/-- IDENT. -/
def execSmbIdent (s : State) : Host.Outcome State Fault Refusal :=
  onUnit [.smb] true s fun s => smbAlways s fun s => (s.smbReply (leBytes 8 s.idrev.toNat)).smbResult rcOK

/-- STATE. -/
def execSmbState (s : State) : Host.Outcome State Fault Refusal :=
  onUnit [.smb] true s fun s => smbAlways s fun s =>
    (s.smbReply (leBytes 4 (s.unitState.toNat % 2 ^ 32) ++ leBytes 4 (s.heldWord.toNat % 2 ^ 32) ++ leBytes 8 s.replaceDetail.toNat ++
      leBytes 8 s.vigil.vigilTime.toNat)).smbResult rcOK

/-- UNIT_SENSE: the unit record of R322. -/
def execSmbUnitSense (s : State) : Host.Outcome State Fault Refusal :=
  onUnit [.smb] true s fun s => smbAlways s fun s => (s.smbReply s.unitRecord).smbResult rcOK

/-- Messages of the management channel submitted and not completed. -/
def State.smbOutstanding (s : State) : Nat := s.smb.waiting.length + (s.msgs.filter fun m => m.id.src = mgmtQ).length

/-- SMB_STATUS. It leaves the last result as it is. -/
def execSmbStatus (s : State) : Host.Outcome State Fault Refusal :=
  onUnit [] true s fun s =>
    smbAlways s fun s => s.smbReply (leBytes 2 (s.smb.last + (if s.smb.completions.isEmpty then 0 else 256) +
    (15 - s.smbOutstanding) * 512))

/-- WAKE: the unit leaves VIGIL (R382). -/
def State.smbWakes (s : State) : State :=
  if s.vigil.phase = .vigil then { s with vigil := { s.vigil with phase := .waking } } else s

/-- WAKE. -/
def execSmbWake (pec : Bool) (s : State) : Host.Outcome State Fault Refusal :=
  onUnit [.smb] true s fun s => smbAlways s fun s => smbWrite pec s fun s => s.smbWakes.smbResult rcOK

/-- RESET: the key starts a unit reset (R411). -/
def smbResetBody (key : BitVec 16) (pec : Bool) (t : SelfTest) (s : State) : State :=
  match s.vigil.phase with
  | .off => s
  | .vigil => s.smbNak rcAsleep
  | _ => smbWrite pec s fun s => if key = 0xA5C3 then (s.bareReset t).smbResult rcOK else s.smbResult rcKey

/-- SMB_RESET. -/
def execSmbReset (key : BitVec 16) (pec : Bool) (t : SelfTest) (s : State) : Host.Outcome State Fault Refusal :=
  onUnit resetParts (selfTestOk t) s fun s => smbResetBody key pec t s

/-- Writes bytes into the staging buffer. -/
def State.stage (s : State) (off : Nat) (bs : List Byte) : State :=
  { s with smb := { s.smb with staging := bs.zipIdx.foldl (fun a p => Sparse.set 0 a (off + p.2) p.1) s.smb.staging } }

/-- R457, R458: a length of 1 to 248 bytes, within the staging buffer. -/
def stageRange (off len : Nat) : Bool := 1 ≤ len && len ≤ 248 && off + len ≤ stagingSize

/-- STAGE_WRITE. -/
def execStageWrite (off : Nat) (bytes : List Byte) (pec : Bool) (s : State) : Host.Outcome State Fault Refusal :=
  onUnit [.smb] (decide (off < 2 ^ 32)) s fun s => smbAwake s fun s =>
    if stageRange off bytes.length then smbWrite pec s fun s => (s.stage off bytes).smbResult rcOK else s.smbNak rcLength

/-- STAGE_READ. -/
def execStageRead (off len : Nat) (s : State) : Host.Outcome State Fault Refusal :=
  onUnit [.smb] (decide (off < 2 ^ 32)) s fun s => smbAwake s fun s =>
    if stageRange off len then
      (s.smbReply ((List.range len).map fun i => Sparse.get 0 s.smb.staging (off + i))).smbResult rcOK
    else s.smbNak rcLength

/-- Completion entries that the management channel holds. -/
def State.smbHeld (s : State) : Nat := (s.smb.completions.map List.length).sum

/-- R458: an entry can be submitted: fewer than 15 messages outstanding, and 4 of 64 completion entries free beyond those reserved. -/
def State.smbRoom (s : State) : Bool := s.smbOutstanding < 15 && s.smbHeld + s.smb.reserved + 4 ≤ 64

/-- An accepted entry waits to be fetched, with its stamp and its completion entries reserved (R291, R292). -/
def State.smbAccept (s : State) (e : Entry) : State :=
  let n := match msgSpec (sqOp e) with | some x => x.slots | none => 1
  { s with smb := { s.smb with
    waiting := s.smb.waiting ++ [(s.smb.ctr, s.now, e)], ctr := (s.smb.ctr + 1) % 65536, reserved := s.smb.reserved + n } }

/-- SUBMIT. -/
def execSmbSubmit (e : Entry) (pec : Bool) (s : State) : Host.Outcome State Fault Refusal :=
  onUnit [.smb] true s fun s => smbAwake s fun s =>
    if s.smbRoom then smbWrite pec s fun s => (s.smbAccept e).smbResult rcOK else s.smbNak rcFull

/-- COMPLETION: the entries of the oldest message, the same until they are released. -/
def execSmbCompletion (s : State) : Host.Outcome State Fault Refusal :=
  onUnit [.smb] true s fun s => smbAwake s fun s =>
    match s.smb.completions with
    | [] => (s.smbReply []).smbResult rcOK
    | es :: _ =>
      let t := (s.smbReply (es.map fun e => leBytes 32 e.toNat).flatten).smbResult rcOK
      { t with smb := { t.smb with returned := true } }

/-- COMPLETION_ACK. -/
def State.smbRelease (s : State) : State :=
  if s.smb.returned then { s with smb := { s.smb with completions := s.smb.completions.drop 1, returned := false } } else s

/-- COMPLETION_ACK. -/
def execSmbCompletionAck (pec : Bool) (s : State) : Host.Outcome State Fault Refusal :=
  onUnit [.smb] true s fun s => smbAwake s fun s => smbWrite pec s fun s => s.smbRelease.smbResult rcOK

/-- SMB_BUS_TIMEOUT: the interface resets; the transaction has no effect but its result (R456). -/
def execSmbBusTimeout (s : State) : Host.Outcome State Fault Refusal :=
  onUnit [.smb] true s fun s => smbAlways s fun s => s.smbResult rcTimeout

end Sys2Proof.Machine
end

