-- ==== Sys2Proof/Machine/Dispatch.lean ====
section
/-! DEFINITION. The meaning of every command: one arm for each constructor of Instr. -/

namespace Sys2Proof.Machine

/-- What a command does to everything but the queue. -/
def exec (i : Instr) (s : State) : Host.Outcome State Fault Refusal :=
  match i with
  | .nop at_ by_ w => Sys2Proof.Machine.execNop at_ by_ w s
  | .plogic at_ by_ w => Sys2Proof.Machine.execPlogic at_ by_ w s
  | .padd at_ by_ w => Sys2Proof.Machine.execPadd at_ by_ w s
  | .psub at_ by_ w => Sys2Proof.Machine.execPsub at_ by_ w s
  | .pcmp at_ by_ w => Sys2Proof.Machine.execPcmp at_ by_ w s
  | .pflag at_ by_ w => Sys2Proof.Machine.execPflag at_ by_ w s
  | .psel at_ by_ w => Sys2Proof.Machine.execPsel at_ by_ w s
  | .pshe at_ by_ w => Sys2Proof.Machine.execPshe at_ by_ w s
  | .ppop at_ by_ w => Sys2Proof.Machine.execPpop at_ by_ w s
  | .rowcp at_ by_ w => Sys2Proof.Machine.execRowcp at_ by_ w s
  | .pbcast at_ by_ w => Sys2Proof.Machine.execPbcast at_ by_ w s
  | .lookup at_ by_ w => Sys2Proof.Machine.execLookup at_ by_ w s
  | .lookups at_ by_ w card win row => Sys2Proof.Machine.execLookups at_ by_ w card win row s
  | .mac16 at_ by_ w => Sys2Proof.Machine.execMac16 at_ by_ w s
  | .escmac at_ by_ w => Sys2Proof.Machine.execEscmac at_ by_ w s
  | .preload at_ by_ w => Sys2Proof.Machine.execPreload at_ by_ w s
  | .csel at_ by_ w => Sys2Proof.Machine.execCsel at_ by_ w s
  | .tbuild at_ by_ w => Sys2Proof.Machine.execTbuild at_ by_ w s
  | .yield_ at_ by_ w => Sys2Proof.Machine.execYield at_ by_ w s
  | .gopen at_ by_ w => Sys2Proof.Machine.execGopen at_ by_ w s
  | .gclose at_ by_ w => Sys2Proof.Machine.execGclose at_ by_ w s
  | .drain at_ by_ w => Sys2Proof.Machine.execDrain at_ by_ w s
  | .sset at_ by_ w => Sys2Proof.Machine.execSset at_ by_ w s
  | .sadd at_ by_ w => Sys2Proof.Machine.execSadd at_ by_ w s
  | .yieldIntervalExpiry f c u => Sys2Proof.Machine.execYieldIntervalExpiry f c u s
  | .idleCycleYield f c u => Sys2Proof.Machine.execIdleCycleYield f c u s
  | .coreSettledSkip f c => Sys2Proof.Machine.execCoreSettledSkip f c s
  | .drainPathTake f c => Sys2Proof.Machine.execDrainPathTake f c s
  | .groupRelease f c g => Sys2Proof.Machine.execGroupRelease f c g s
  | .descriptorFetch f c => Sys2Proof.Machine.execDescriptorFetch f c s
  | .tablePass f c p => Sys2Proof.Machine.execTablePass f c p s
  | .sparsePass f c p => Sys2Proof.Machine.execSparsePass f c p s
  | .escapePass f c p => Sys2Proof.Machine.execEscapePass f c p s
  | .planePass f c p => Sys2Proof.Machine.execPlanePass f c p s
  | .mac16Pass f c p => Sys2Proof.Machine.execMac16Pass f c p s
  | .reducePass f c p => Sys2Proof.Machine.execReducePass f c p s
  | .routePass f c p => Sys2Proof.Machine.execRoutePass f c p s
  | .edgePass f c p => Sys2Proof.Machine.execEdgePass f c p s
  | .moveField f c p => Sys2Proof.Machine.execMoveField f c p s
  | .moveFabric f c p => Sys2Proof.Machine.execMoveFabric f c p s
  | .bulkCopy f c p => Sys2Proof.Machine.execBulkCopy f c p s
  | .bulkEngine f c p => Sys2Proof.Machine.execBulkEngine f c p s
  | .drainPass f c p => Sys2Proof.Machine.execDrainPass f c p s
  | .passCommit f c => Sys2Proof.Machine.execPassCommit f c s
  | .routeResolve f c => Sys2Proof.Machine.execRouteResolve f c s
  | .reduceNodeCombine f c p => Sys2Proof.Machine.execReduceNodeCombine f c p s
  | .reduceTimeout f c p => Sys2Proof.Machine.execReduceTimeout f c p s
  | .edgePostingRun f => Sys2Proof.Machine.execEdgePostingRun f s
  | .edgeAdd f w => Sys2Proof.Machine.execEdgeAdd f w s
  | .edgeSub f w => Sys2Proof.Machine.execEdgeSub f w s
  | .edgeMul f w => Sys2Proof.Machine.execEdgeMul f w s
  | .edgeFma f w => Sys2Proof.Machine.execEdgeFma f w s
  | .edgeMax f w => Sys2Proof.Machine.execEdgeMax f w s
  | .edgeMin f w => Sys2Proof.Machine.execEdgeMin f w s
  | .edgeAbs f w => Sys2Proof.Machine.execEdgeAbs f w s
  | .edgeNeg f w => Sys2Proof.Machine.execEdgeNeg f w s
  | .edgeCopy f w => Sys2Proof.Machine.execEdgeCopy f w s
  | .edgeDiv f w => Sys2Proof.Machine.execEdgeDiv f w s
  | .edgeRecip f w => Sys2Proof.Machine.execEdgeRecip f w s
  | .edgeSqrt f w => Sys2Proof.Machine.execEdgeSqrt f w s
  | .edgeRsqrt f w => Sys2Proof.Machine.execEdgeRsqrt f w s
  | .edgeExp f w => Sys2Proof.Machine.execEdgeExp f w s
  | .edgeLog f w => Sys2Proof.Machine.execEdgeLog f w s
  | .edgeTanh f w => Sys2Proof.Machine.execEdgeTanh f w s
  | .edgeSigm f w => Sys2Proof.Machine.execEdgeSigm f w s
  | .edgeRsum f w => Sys2Proof.Machine.execEdgeRsum f w s
  | .edgeRmax f w => Sys2Proof.Machine.execEdgeRmax f w s
  | .edgeRmin f w => Sys2Proof.Machine.execEdgeRmin f w s
  | .edgeLd f w => Sys2Proof.Machine.execEdgeLd f w s
  | .edgeSt f w => Sys2Proof.Machine.execEdgeSt f w s
  | .lanternGrant f c p => Sys2Proof.Machine.execLanternGrant f c p s
  | .lanternGrantTimeout f c p => Sys2Proof.Machine.execLanternGrantTimeout f c p s
  | .lanternLoanReturn l => Sys2Proof.Machine.execLanternLoanReturn l s
  | .sqTailDoorbell port q v => Sys2Proof.Machine.execSqTailDoorbell port q v s
  | .cqHeadDoorbell port q v => Sys2Proof.Machine.execCqHeadDoorbell port q v s
  | .sqEntryFetch q rd => Sys2Proof.Machine.execSqEntryFetch q rd s
  | .interruptModerationTimeout q => Sys2Proof.Machine.execInterruptModerationTimeout q s
  | .millinerFailover cause => Sys2Proof.Machine.execMillinerFailover cause s
  | .deviceNop m => Sys2Proof.Machine.execDeviceNop m s
  | .deviceInfo m => Sys2Proof.Machine.execDeviceInfo m s
  | .unitReset m t => Sys2Proof.Machine.execUnitReset m t s
  | .unitDown m => Sys2Proof.Machine.execUnitDown m s
  | .queueCreate m => Sys2Proof.Machine.execQueueCreate m s
  | .queueDelete m => Sys2Proof.Machine.execQueueDelete m s
  | .queueAssign m => Sys2Proof.Machine.execQueueAssign m s
  | .queueModerate m => Sys2Proof.Machine.execQueueModerate m s
  | .queueQuery m => Sys2Proof.Machine.execQueueQuery m s
  | .configStage m rd => Sys2Proof.Machine.execConfigStage m rd s
  | .configSeal m => Sys2Proof.Machine.execConfigSeal m s
  | .configDiscard m => Sys2Proof.Machine.execConfigDiscard m s
  | .configQuery m => Sys2Proof.Machine.execConfigQuery m s
  | .planLoad m rd => Sys2Proof.Machine.execPlanLoad m rd s
  | .planSeal m => Sys2Proof.Machine.execPlanSeal m s
  | .planUnload m => Sys2Proof.Machine.execPlanUnload m s
  | .planQuery m => Sys2Proof.Machine.execPlanQuery m s
  | .planWindows m => Sys2Proof.Machine.execPlanWindows m s
  | .jobSubmit m rd => Sys2Proof.Machine.execJobSubmit m rd s
  | .jobStart h => Sys2Proof.Machine.execJobStart h s
  | .jobComplete h => Sys2Proof.Machine.execJobComplete h s
  | .jobLimitExpiry h => Sys2Proof.Machine.execJobLimitExpiry h s
  | .jobCancel m => Sys2Proof.Machine.execJobCancel m s
  | .jobQuery m => Sys2Proof.Machine.execJobQuery m s
  | .cadenceArm m => Sys2Proof.Machine.execCadenceArm m s
  | .cadenceRearm m => Sys2Proof.Machine.execCadenceRearm m s
  | .cadenceDisarm m => Sys2Proof.Machine.execCadenceDisarm m s
  | .cadenceQuery m => Sys2Proof.Machine.execCadenceQuery m s
  | .cadenceTickDispatch st => Sys2Proof.Machine.execCadenceTickDispatch st s
  | .cadenceOutputDeliver st late => Sys2Proof.Machine.execCadenceOutputDeliver st late s
  | .cadenceDeadlineMiss st tick => Sys2Proof.Machine.execCadenceDeadlineMiss st tick s
  | .icProdWrite st v => Sys2Proof.Machine.execIcProdWrite st v s
  | .icOrelWrite st v => Sys2Proof.Machine.execIcOrelWrite st v s
  | .windowMode m => Sys2Proof.Machine.execWindowMode m s
  | .windowBase m => Sys2Proof.Machine.execWindowBase m s
  | .windowQuery m => Sys2Proof.Machine.execWindowQuery m s
  | .poolSet m => Sys2Proof.Machine.execPoolSet m s
  | .fckCeilingSet m => Sys2Proof.Machine.execFckCeilingSet m s
  | .powerQuery m => Sys2Proof.Machine.execPowerQuery m s
  | .fabricStage m rd => Sys2Proof.Machine.execFabricStage m rd s
  | .fabricRoutes m rd => Sys2Proof.Machine.execFabricRoutes m rd s
  | .fabricApply m => Sys2Proof.Machine.execFabricApply m s
  | .linkEnable m => Sys2Proof.Machine.execLinkEnable m s
  | .linkState m => Sys2Proof.Machine.execLinkState m s
  | .bulkQuery m => Sys2Proof.Machine.execBulkQuery m s
  | .bulkEngineReset m => Sys2Proof.Machine.execBulkEngineReset m s
  | .counterRead m => Sys2Proof.Machine.execCounterRead m s
  | .counterClear m => Sys2Proof.Machine.execCounterClear m s
  | .telemetryRead m => Sys2Proof.Machine.execTelemetryRead m s
  | .faultRead m => Sys2Proof.Machine.execFaultRead m s
  | .faultInfo m => Sys2Proof.Machine.execFaultInfo m s
  | .fwWrite m rd => Sys2Proof.Machine.execFwWrite m rd s
  | .fwVerify m => Sys2Proof.Machine.execFwVerify m s
  | .fwActivate m t => Sys2Proof.Machine.execFwActivate m t s
  | .fwQuery m => Sys2Proof.Machine.execFwQuery m s
  | .fieldMap m => Sys2Proof.Machine.execFieldMap m s
  | .diagRun m => Sys2Proof.Machine.execDiagRun m s
  | .diagRunComplete firstFail bus => Sys2Proof.Machine.execDiagRunComplete firstFail bus s
  | .diagInject m => Sys2Proof.Machine.execDiagInject m s
  | .vigilTimeLowRead port tag => Sys2Proof.Machine.execVigilTimeLowRead port tag s
  | .eventCauseWrite port v => Sys2Proof.Machine.execEventCauseWrite port v s
  | .eventMaskWrite port v => Sys2Proof.Machine.execEventMaskWrite port v s
  | .adminEnable port v => Sys2Proof.Machine.execAdminEnable port v s
  | .adminDisable port v => Sys2Proof.Machine.execAdminDisable port v s
  | .adminTeardownComplete port => Sys2Proof.Machine.execAdminTeardownComplete port s
  | .bar0RegisterWrite port off size v => Sys2Proof.Machine.execBar0RegisterWrite port off size v s
  | .windowRead port off len tag => Sys2Proof.Machine.execWindowRead port off len tag s
  | .windowWrite port off bytes ep => Sys2Proof.Machine.execWindowWrite port off bytes ep s
  | .commandWordWrite port off bytes => Sys2Proof.Machine.execCommandWordWrite port off bytes s
  | .bulkEngineWordWrite port addr w => Sys2Proof.Machine.execBulkEngineWordWrite port addr w s
  | .hostBulkAccess port off a => Sys2Proof.Machine.execHostBulkAccess port off a s
  | .engZero m e w => Sys2Proof.Machine.execEngZero m e w s
  | .engSeti m e w => Sys2Proof.Machine.execEngSeti m e w s
  | .engDot m e w => Sys2Proof.Machine.execEngDot m e w s
  | .engAdd m e w => Sys2Proof.Machine.execEngAdd m e w s
  | .engShr m e w => Sys2Proof.Machine.execEngShr m e w s
  | .engStore m e w => Sys2Proof.Machine.execEngStore m e w s
  | .engPtrx m e w => Sys2Proof.Machine.execEngPtrx m e w s
  | .engPtry m e w => Sys2Proof.Machine.execEngPtry m e w s
  | .engPtrz m e w => Sys2Proof.Machine.execEngPtrz m e w s
  | .coreIdleHoldExpiry f c => Sys2Proof.Machine.execCoreIdleHoldExpiry f c s
  | .edgeIdleHoldExpiry f => Sys2Proof.Machine.execEdgeIdleHoldExpiry f s
  | .domainWakeComplete d => Sys2Proof.Machine.execDomainWakeComplete d s
  | .fckStepChange => Sys2Proof.Machine.execFckStepChange s
  | .unitWake t imageOk => Sys2Proof.Machine.execUnitWake t imageOk s
  | .thermalReport f t => Sys2Proof.Machine.execThermalReport f t s
  | .thermalLimitTimer k => Sys2Proof.Machine.execThermalLimitTimer k s
  | .thermalSwitchOff f => Sys2Proof.Machine.execThermalSwitchOff f s
  | .vckEdgeLoss r c => Sys2Proof.Machine.execVckEdgeLoss r c s
  | .vckTreeReroot => Sys2Proof.Machine.execVckTreeReroot s
  | .powerGood t => Sys2Proof.Machine.execPowerGood t s
  | .busUndervoltage mv => Sys2Proof.Machine.execBusUndervoltage mv s
  | .powerFail mv => Sys2Proof.Machine.execPowerFail mv s
  | .inputPowerExcess watts => Sys2Proof.Machine.execInputPowerExcess watts s
  | .regulatorFault f mv => Sys2Proof.Machine.execRegulatorFault f mv s
  | .junctionSensorFail f c sensor => Sys2Proof.Machine.execJunctionSensorFail f c sensor s
  | .coolantFlowSample flow slow held => Sys2Proof.Machine.execCoolantFlowSample flow slow held s
  | .coolantInletSample t held => Sys2Proof.Machine.execCoolantInletSample t held s
  | .leakDetect => Sys2Proof.Machine.execLeakDetect s
  | .resetLAssert => Sys2Proof.Machine.execResetLAssert s
  | .resetLRelease t => Sys2Proof.Machine.execResetLRelease t s
  | .prsntChange m present => Sys2Proof.Machine.execPrsntChange m present s
  | .perstAssert port => Sys2Proof.Machine.execPerstAssert port s
  | .hotReset port => Sys2Proof.Machine.execHotReset port s
  | .portLinkDown port => Sys2Proof.Machine.execPortLinkDown port s
  | .functionLevelReset port => Sys2Proof.Machine.execFunctionLevelReset port s
  | .d3hotEntry port => Sys2Proof.Machine.execD3hotEntry port s
  | .d0Return port => Sys2Proof.Machine.execD0Return port s
  | .dmaReadTimeout m => Sys2Proof.Machine.execDmaReadTimeout m s
  | .buFailure f c u cause => Sys2Proof.Machine.execBuFailure f c u cause s
  | .buReplacement f c u rds => Sys2Proof.Machine.execBuReplacement f c u rds s
  | .stewardHeartbeatTimeout f => Sys2Proof.Machine.execStewardHeartbeatTimeout f s
  | .fieldFailure f cause drained => Sys2Proof.Machine.execFieldFailure f cause drained s
  | .fieldRemap f bad rds => Sys2Proof.Machine.execFieldRemap f bad rds s
  | .unitFatalFault cause => Sys2Proof.Machine.execUnitFatalFault cause s
  | .phitReceive f port cls ws => Sys2Proof.Machine.execPhitReceive f port cls ws s
  | .hatbandPacketArrival cls src dst => Sys2Proof.Machine.execHatbandPacketArrival cls src dst s
  | .hatbandLinkDown f port cause lost => Sys2Proof.Machine.execHatbandLinkDown f port cause lost s
  | .hatbandTableLoad => Sys2Proof.Machine.execHatbandTableLoad s
  | .unitTimeout f c p => Sys2Proof.Machine.execUnitTimeout f c p s
  | .fabricTimeout f c p => Sys2Proof.Machine.execFabricTimeout f c p s
  | .sequencedFlitReceive l flit fec => Sys2Proof.Machine.execSequencedFlitReceive l flit fec s
  | .creditFlit l flit => Sys2Proof.Machine.execCreditFlit l flit s
  | .nakFlit l flit => Sys2Proof.Machine.execNakFlit l flit s
  | .poisonFlit l flit => Sys2Proof.Machine.execPoisonFlit l flit s
  | .paramFlit l flit => Sys2Proof.Machine.execParamFlit l flit s
  | .replayTimeout l => Sys2Proof.Machine.execReplayTimeout l s
  | .linkSignalDetect l => Sys2Proof.Machine.execLinkSignalDetect l s
  | .linkEqualizeDone l => Sys2Proof.Machine.execLinkEqualizeDone l s
  | .linkLockDone l => Sys2Proof.Machine.execLinkLockDone l s
  | .linkTrainingTimeout l => Sys2Proof.Machine.execLinkTrainingTimeout l s
  | .linkLockLoss l => Sys2Proof.Machine.execLinkLockLoss l s
  | .linkLostTimer l => Sys2Proof.Machine.execLinkLostTimer l s
  | .msgWrite => Sys2Proof.Machine.execMsgWrite s
  | .msgReduceOperand => Sys2Proof.Machine.execMsgReduceOperand s
  | .msgWriteAck => Sys2Proof.Machine.execMsgWriteAck s
  | .msgFabricControl => Sys2Proof.Machine.execMsgFabricControl s
  | .messageHop => Sys2Proof.Machine.execMessageHop s
  | .notReadyResend id => Sys2Proof.Machine.execNotReadyResend id s
  | .bulkFrameReceive m frame => Sys2Proof.Machine.execBulkFrameReceive m frame s
  | .bulkResendTimer m => Sys2Proof.Machine.execBulkResendTimer m s
  | .moduleLinkDetect m => Sys2Proof.Machine.execModuleLinkDetect m s
  | .moduleLinkLock m => Sys2Proof.Machine.execModuleLinkLock m s
  | .moduleParams m gib channels rev => Sys2Proof.Machine.execModuleParams m gib channels rev s
  | .moduleLinkLockLoss m => Sys2Proof.Machine.execModuleLinkLockLoss m s
  | .moduleLinkTimeout m => Sys2Proof.Machine.execModuleLinkTimeout m s
  | .moduleLinkLost m => Sys2Proof.Machine.execModuleLinkLost m s
  | .bulkCopyTimeout f c p => Sys2Proof.Machine.execBulkCopyTimeout f c p s
  | .smbIdent => Sys2Proof.Machine.execSmbIdent s
  | .smbState => Sys2Proof.Machine.execSmbState s
  | .smbUnitSense => Sys2Proof.Machine.execSmbUnitSense s
  | .smbStatus => Sys2Proof.Machine.execSmbStatus s
  | .smbWake pec => Sys2Proof.Machine.execSmbWake pec s
  | .smbReset key pec t => Sys2Proof.Machine.execSmbReset key pec t s
  | .stageWrite off bytes pec => Sys2Proof.Machine.execStageWrite off bytes pec s
  | .stageRead off len => Sys2Proof.Machine.execStageRead off len s
  | .smbSubmit e pec => Sys2Proof.Machine.execSmbSubmit e pec s
  | .smbCompletion => Sys2Proof.Machine.execSmbCompletion s
  | .smbCompletionAck pec => Sys2Proof.Machine.execSmbCompletionAck pec s
  | .smbBusTimeout => Sys2Proof.Machine.execSmbBusTimeout s
  | .extest cells => Sys2Proof.Machine.execExtest cells s
  | .samplePreload pins cells => Sys2Proof.Machine.execSamplePreload pins cells s
  | .bypass code tdi => Sys2Proof.Machine.execBypass code tdi s
  | .msixUnmask port x => Sys2Proof.Machine.execMsixUnmask port x s
  | .leakClear => Sys2Proof.Machine.execLeakClear s
  | .vigilSupplyLoss => Sys2Proof.Machine.execVigilSupplyLoss s
  | .hatbandCreditReturn f port cls => Sys2Proof.Machine.execHatbandCreditReturn f port cls s
  | .idleFlitReceive l flit => Sys2Proof.Machine.execIdleFlitReceive l flit s
  | .creditReportTimer l => Sys2Proof.Machine.execCreditReportTimer l s
  | .armReservationTimeout m => Sys2Proof.Machine.execArmReservationTimeout m s

end Sys2Proof.Machine
end

