-- ==== Sys2Proof/Machine/Step.lean ====
section
/-! DEFINITION. One step of the unit: the oldest waiting command, or the tick of an idle unit. -/

namespace Sys2Proof.Machine

/-- A step: the command at the front of the queue, on the state with the queue's rest; on an empty queue the tick of an idle unit, in which
VIGIL_TIME counts one period while the Vigil domain has power (R335; log entry 11). -/
def step (s : State) : Host.Outcome State Fault Refusal :=
  match s.pending with
  | [] => .next s.idle
  | c :: cs => exec c { s with pending := cs }

/-- The state with the command that a word spells at the front of its queue. -/
def State.withFetchWord (s : State) (nbits w : Nat) : State :=
  match decodeTableWord nbits w with
  | none => s
  | some c => { s with pending := c :: s.pending }

end Sys2Proof.Machine
end

