-- ==== Sys2Proof/WellFormed.lean ====
section
/-! DEFINITION. Well-formed commands: the operands name parts that the unit has, and a word or value is one that the command of its
row carries. A command whose operands are well formed has its effect in every state; any other names nothing in the unit. -/

namespace Sys2Proof

open Sys2Proof.Machine

/-- The check of a command's operands (R10, R17, R72, R73, R83, R257, R266, R286, R327, R337). -/
def Instr.ok : Instr → Bool
  | .nop a _ w => buOk a w 0x00
  | .plogic a _ w => buOk a w 0x01
  | .padd a _ w => buOk a w 0x02
  | .psub a _ w => buOk a w 0x03
  | .pcmp a _ w => buOk a w 0x04
  | .pflag a _ w => buOk a w 0x05
  | .psel a _ w => buOk a w 0x06
  | .pshe a _ w => buOk a w 0x07
  | .ppop a _ w => buOk a w 0x08
  | .rowcp a _ w => buOk a w 0x09
  | .pbcast a _ w => buOk a w 0x0A
  | .lookup a _ w => buOk a w 0x10
  | .lookups a _ w _ _ _ => buOk a w 0x11
  | .mac16 a _ w => buOk a w 0x12
  | .escmac a _ w => buOk a w 0x13
  | .preload a _ w => buOk a w 0x14
  | .csel a _ w => buOk a w 0x15
  | .tbuild a _ w => buOk a w 0x16
  | .yield_ a _ w => buOk a w 0x20
  | .gopen a _ w => buOk a w 0x21
  | .gclose a _ w => buOk a w 0x22
  | .drain a _ w => buOk a w 0x23
  | .sset a _ w => buOk a w 0x24
  | .sadd a _ w => buOk a w 0x25
  | .yieldIntervalExpiry f c u | .idleCycleYield f c u | .buFailure f c u _ | .buReplacement f c u _ => buExists f c u
  | .coreSettledSkip f c | .drainPathTake f c | .descriptorFetch f c | .passCommit f c | .routeResolve f c
  | .coreIdleHoldExpiry f c => coreExists f c
  | .groupRelease f c g => coreExists f c && g < 8
  | .tablePass f c p | .sparsePass f c p | .escapePass f c p | .planePass f c p | .mac16Pass f c p | .reducePass f c p
  | .routePass f c p | .edgePass f c p | .moveField f c p | .moveFabric f c p | .bulkCopy f c p | .bulkEngine f c p
  | .drainPass f c p | .reduceNodeCombine f c p | .reduceTimeout f c p | .lanternGrant f c p | .lanternGrantTimeout f c p
  | .bulkCopyTimeout f c p => placeExists f c p
  | .edgePostingRun f | .edgeIdleHoldExpiry f | .thermalReport f _ => decide (f < 96)
  | .edgeAdd f w => f < 96 && ediOp w = 0x01
  | .edgeSub f w => f < 96 && ediOp w = 0x02
  | .edgeMul f w => f < 96 && ediOp w = 0x03
  | .edgeFma f w => f < 96 && ediOp w = 0x04
  | .edgeMax f w => f < 96 && ediOp w = 0x05
  | .edgeMin f w => f < 96 && ediOp w = 0x06
  | .edgeAbs f w => f < 96 && ediOp w = 0x07
  | .edgeNeg f w => f < 96 && ediOp w = 0x08
  | .edgeCopy f w => f < 96 && ediOp w = 0x09
  | .edgeDiv f w => f < 96 && ediOp w = 0x10
  | .edgeRecip f w => f < 96 && ediOp w = 0x11
  | .edgeSqrt f w => f < 96 && ediOp w = 0x12
  | .edgeRsqrt f w => f < 96 && ediOp w = 0x13
  | .edgeExp f w => f < 96 && ediOp w = 0x14
  | .edgeLog f w => f < 96 && ediOp w = 0x15
  | .edgeTanh f w => f < 96 && ediOp w = 0x16
  | .edgeSigm f w => f < 96 && ediOp w = 0x17
  | .edgeRsum f w => f < 96 && ediOp w = 0x20
  | .edgeRmax f w => f < 96 && ediOp w = 0x21
  | .edgeRmin f w => f < 96 && ediOp w = 0x22
  | .edgeLd f w => f < 96 && ediOp w = 0x30
  | .edgeSt f w => f < 96 && ediOp w = 0x31
  | .lanternLoanReturn l => loanExists l
  | .sqTailDoorbell port q _ | .cqHeadDoorbell port q _ => portQueue port q
  | .sqEntryFetch q _ => q ≤ 1024
  | .interruptModerationTimeout q => q < 1024
  | .millinerFailover _ | .jobStart _ | .jobComplete _ | .jobLimitExpiry _ | .fckStepChange | .thermalLimitTimer _
  | .vckTreeReroot | .busUndervoltage _ | .powerFail _ | .inputPowerExcess _ | .coolantFlowSample _ _ _
  | .coolantInletSample _ _ | .leakDetect | .resetLAssert | .unitFatalFault _ | .hatbandTableLoad | .msgWrite
  | .msgReduceOperand | .msgWriteAck | .msgFabricControl | .messageHop | .smbIdent | .smbState | .smbUnitSense | .smbStatus
  | .smbWake _ | .smbSubmit _ _ | .smbCompletion | .smbCompletionAck _ | .smbBusTimeout | .extest _ | .samplePreload _ _
  | .bypass _ _ | .leakClear | .vigilSupplyLoss => true
  | .deviceNop m | .deviceInfo m | .unitDown m | .queueCreate m | .queueDelete m | .queueAssign m | .queueModerate m
  | .queueQuery m | .configStage m _ | .configSeal m | .configDiscard m | .configQuery m | .planLoad m _ | .planSeal m
  | .planUnload m | .planQuery m | .planWindows m | .jobSubmit m _ | .jobCancel m | .jobQuery m | .cadenceArm m
  | .cadenceRearm m | .cadenceDisarm m | .cadenceQuery m | .windowMode m | .windowBase m | .windowQuery m | .poolSet m
  | .fckCeilingSet m | .powerQuery m | .fabricStage m _ | .fabricRoutes m _ | .fabricApply m | .linkEnable m | .linkState m
  | .bulkQuery m | .bulkEngineReset m | .counterRead m | .counterClear m | .telemetryRead m | .faultRead m | .faultInfo m
  | .fwWrite m _ | .fwVerify m | .fwQuery m | .fieldMap m | .diagRun m | .diagInject m | .dmaReadTimeout m
  | .armReservationTimeout m => msgIdOk m
  | .unitReset m t | .fwActivate m t => selfTestOk t && msgIdOk m
  | .cadenceTickDispatch st | .cadenceOutputDeliver st _ | .cadenceDeadlineMiss st _ | .icProdWrite st _ | .icOrelWrite st _
    => streamNo st
  | .diagRunComplete firstFail _ => (match firstFail with | some i => decide (i < 4) | none => true)
  | .vigilTimeLowRead port _ | .eventCauseWrite port _ | .eventMaskWrite port _ | .adminTeardownComplete port
  | .perstAssert port | .hotReset port | .portLinkDown port | .functionLevelReset port | .d3hotEntry port | .d0Return port
    => decide (port < 4)
  | .adminEnable port v => port < 4 && asEnable v
  | .adminDisable port v => port < 4 && !asEnable v
  | .bar0RegisterWrite port off size _ => port < 4 && off + size ≤ 0x400000
  | .windowRead port off len _ => readExists port off len
  | .windowWrite port off bytes _ | .commandWordWrite port off bytes => writeExists port off bytes.length
  | .bulkEngineWordWrite port addr _ => port < 4 && engineAddr addr
  | .hostBulkAccess port off a => bulkAccessOk port off a
  | .engZero m e w => engOk m e w 0x01
  | .engSeti m e w => engOk m e w 0x02
  | .engDot m e w => engOk m e w 0x03
  | .engAdd m e w => engOk m e w 0x04
  | .engShr m e w => engOk m e w 0x05
  | .engStore m e w => engOk m e w 0x06
  | .engPtrx m e w => engOk m e w 0x08
  | .engPtry m e w => engOk m e w 0x09
  | .engPtrz m e w => engOk m e w 0x0A
  | .domainWakeComplete d => domainExists d
  | .unitWake t _ | .powerGood t | .resetLRelease t | .smbReset _ _ t => selfTestOk t
  | .thermalSwitchOff f | .regulatorFault f _ | .stewardHeartbeatTimeout f | .fieldFailure f _ _ | .fieldRemap f _ _
    => fieldExists f
  | .vckEdgeLoss r c => physExists r c
  | .junctionSensorFail f c sensor => coreExists f c && sensor < 2
  | .prsntChange m _ | .bulkFrameReceive m _ | .bulkResendTimer m | .moduleLinkDetect m | .moduleLinkLock m
  | .moduleParams m _ _ _ | .moduleLinkLockLoss m | .moduleLinkTimeout m | .moduleLinkLost m => slotNo m
  | .phitReceive f port _ ws => hbExists f port && ws.length ≤ 16
  | .hatbandPacketArrival _ src dst => fieldExists src && fieldExists dst
  | .hatbandLinkDown f port _ _ | .hatbandCreditReturn f port _ => hbExists f port
  | .unitTimeout f c p | .fabricTimeout f c p => passExists f c p
  | .sequencedFlitReceive l _ _ | .creditFlit l _ | .nakFlit l _ | .poisonFlit l _ | .paramFlit l _ | .replayTimeout l
  | .linkSignalDetect l | .linkEqualizeDone l | .linkLockDone l | .linkTrainingTimeout l | .linkLockLoss l
  | .linkLostTimer l | .idleFlitReceive l _ | .creditReportTimer l => linkNo l
  | .notReadyResend id => decide (id < 65536)
  | .stageWrite off _ _ | .stageRead off _ => decide (off < 2 ^ 32)
  | .msixUnmask port x => port < 4 && msixExists x

end Sys2Proof
end

