-- ==== Sys2Proof/Safety.lean ====
section
/-! DEFINITION. Safe runs: the unit takes every waiting command whose operands are well formed, and never stops. -/

namespace Sys2Proof.Safety

open Sys2Proof.Machine

/-- Every waiting command has well-formed operands. -/
def Ready (s : State) : Prop := s.pending.all Instr.ok = true

/-- A run of `k` steps ends in a state, without a fault or a refusal. -/
def Runs (k : Nat) (s : State) : Prop := ∃ t, Host.Core.run Sys2Proof.core k s = .next t

/-- A state is safe where no number of steps ends in a fault or a refusal. -/
def Safe (s : State) : Prop := ∀ k, Runs k s

/-- Commands join the queue's end, oldest first. -/
def enqueue (s : State) (cs : List Instr) : State := { s with pending := s.pending ++ cs }

end Sys2Proof.Safety
end

