-- ==== Sys2Proof/Certificates/Slice0/Obligations.lean ====
section
/-! DEFINITION. The statements for the provers, and the words they are made of. -/

namespace Sys2Proof.Claims

open Sys2Proof.Machine

/-! ### Words of the statements -/

/-- A command completes: it answers a next state, of which `p` holds. -/
def Goes (i : Instr) (s : State) (p : State → Prop) : Prop := ∃ t, exec i s = .next t ∧ p t

/-- A host word at the front of the command FIFO of a core at run, for one BU of it (R345), in a field whose command mode is not
ending. -/
def HostFront (s : State) (f c u : Nat) (w : Word) : Prop :=
  f < 96 ∧ c < 8 ∧ u < 128 ∧ (s.core f c).level = .run ∧ (s.field f).cmdEnding = false ∧
  ∃ q rest, (s.core f c).fifo = q :: rest ∧ q.bu = some u ∧ q.w = w

/-- The BU of a logical number keeps its state, unless it is this one. -/
def OtherBus (s t : State) (f c u : Nat) : Prop := ∀ g d v, d < 8 → v < 128 → ¬(g = f ∧ d = c ∧ v = u) → t.bu g d v = s.bu g d v

/-- The frame of a host word: it leaves its core's FIFO, and beside that core, its BU and memory nothing changes. -/
def Taken (s t : State) (f c u : Nat) : Prop :=
  t = { s with bus := t.bus, cores := t.cores, mem := t.mem } ∧ OtherBus s t f c u ∧
  (∀ g d, d < 8 → t.core g d = if g = f ∧ d = c then { s.core f c with fifo := (s.core f c).fifo.drop 1 } else s.core g d)

/-- Bit `j` of a bank row as stored. -/
def rowBit (s : State) (f c u row j : Nat) : Bool := (s.mem.get (rowAddr f c u row + j / 64)).data.getLsbD (j % 64)

/-- Bits `lo` to `lo + n - 1` of a bank row, as a number. -/
def rowNum (s : State) (f c u row lo n : Nat) : Nat := ((List.range n).map fun k => if rowBit s f c u row (lo + k) then 2 ^ k else 0).sum

/-- The eight words of a row read without an error and without poison. -/
def rowClean (s : State) (f c u row : Nat) : Prop :=
  ∀ k < 8, (s.mem.get (rowAddr f c u row + k)).poison = false ∧
    (s.mem.get (rowAddr f c u row + k)).data = (s.mem.get (rowAddr f c u row + k)).good

/-- Memory outside the eight words of a row is unchanged. -/
def OnlyRow (s t : State) (f c u row : Nat) : Prop :=
  ∀ a, a < rowAddr f c u row ∨ rowAddr f c u row + 8 ≤ a → t.mem.get a = s.mem.get a

/-- Bit `j` of a plane register. -/
def planeBit (b : Bu) (i j : Nat) : Bool := (b.plane i).bits.getLsbD j

/-- Bit `j` of operand B: the row in row forms, else P[ins.pb]. -/
def operandBit (s : State) (f c u : Nat) (w : Word) (j : Nat) : Bool :=
  if insRm w = 1 ∨ insRm w = 3 then rowBit s f c u (insRow w) j else planeBit (s.bu f c u) (insPb w) j

/-- Bit `j` of the chain input: 0, C or 1. -/
def chainBit (b : Bu) (w : Word) (j : Nat) : Bool := if insCy w = 1 then b.c.bits.getLsbD j else decide (insCy w = 2)

/-- A result under the predicate: elements whose predicate bit is 0 keep the destination's bit. -/
def masked (b : Bu) (w : Word) (r : Nat → Bool) (j : Nat) : Bool :=
  if insPe w = true ∧ planeBit b (insPp w) j = false then planeBit b (insPd w) j else r j

/-- The result of a plane word: P[ins.pd] and, in row-writing forms, the row; every other plane, every other register of the BU but C
and Z, and every other word of memory is unchanged. -/
def PlaneOut (s t : State) (f c u : Nat) (w : Word) (r : Nat → Bool) : Prop :=
  let b := s.bu f c u
  let b' := t.bu f c u
  Taken s t f c u ∧ b' = { b with planes := b'.planes, c := b'.c, z := b'.z, executed := b.executed + 1 } ∧
  (∀ j < 512, planeBit b' (insPd w) j = masked b w r j) ∧
  (∀ k, k ≠ insPd w → b'.plane k = b.plane k) ∧
  (if 2 ≤ insRm w then (∀ j < 512, rowBit t f c u (insRow w) j = masked b w r j) ∧ OnlyRow s t f c u (insRow w)
   else ∀ a, t.mem.get a = s.mem.get a)

/-- Two of three bits. -/
def majority (a b c : Bool) : Bool := (a && b) || (a && c) || (b && c)

/-- C and Z after a compare or subtract step on elements `a` and `b` (R86). -/
def Compared (b b' : Bu) (w : Word) (x y : Nat → Bool) : Prop := ∀ j < 512,
  b'.c.bits.getLsbD j = majority (x j) (!y j) (chainBit b w j) ∧
  b'.z.bits.getLsbD j = ((insCy w != 1 || b.z.bits.getLsbD j) && x j == y j)

/-- A value clamped to the range of a slot. -/
def clamp (pair : Bool) (v : Int) : Int :=
  if pair then max (-32768) (min 32767 v) else max (-2147483648) (min 2147483647 v)

/-- A slot with a value added to it: clamped, SAT where it was, poison joined. -/
def added (pair : Bool) (v : SlotVal) (x : Int) (p : Bool) : SlotVal :=
  { val := clamp pair (v.val + x), sat := v.sat || decide (clamp pair (v.val + x) ≠ v.val + x), poison := v.poison || p }

/-- The slot that a format B word names, in one lane. -/
def slotOf (b : Bu) (w : Word) (l : Nat) : SlotVal :=
  let g := b.group (insGrpB w)
  b.slot g.pair (g.abs (insSlot w)) l

/-- A format B word may run: its group is open and its slot within it, and the accumulator words of lanes 0 to n - 1 have no error. -/
def SlotReady (b : Bu) (w : Word) (n : Nat) : Prop :=
  let g := b.group (insGrpB w)
  g.isOpen = true ∧ insSlot w < g.count ∧
  ∀ l < n, (b.accWord (slotWord g.pair (g.abs (insSlot w)) l)).data = (b.accWord (slotWord g.pair (g.abs (insSlot w)) l)).good

/-- The frame of a word that changes one slot in lanes 0 to n - 1: every other slot, half of a word, and register is unchanged. -/
def SlotFrame (s t : State) (f c u : Nat) (w : Word) (n : Nat) : Prop :=
  let b := s.bu f c u
  let b' := t.bu f c u
  let g := b.group (insGrpB w)
  Taken s t f c u ∧ t.mem = s.mem ∧ b' = { b with acc := b'.acc, executed := b.executed + 1 } ∧
  ∀ a l, l < 16 → (a ≠ g.abs (insSlot w) ∨ n ≤ l) → b'.slot g.pair a l = b.slot g.pair a l

/-- A lane's slot after a word of format B: a settled lane ignores it, an enabled one takes `r`, and a poisoned mask poisons it. -/
def laneOut (b : Bu) (w : Word) (l : Nat) (r : SlotVal) : SlotVal :=
  let old := slotOf b w l
  let on := !insLm w || (b.scalar 0).val.getLsbD l
  if b.settled.getLsbD l then old
  else { (if on then r else old) with poison := (if on then r else old).poison || (insLm w && (b.scalar 0).poison) }

/-- The signed value of the low `n` bits of a number. -/
def signed (n x : Nat) : Int := if x % 2 ^ n < 2 ^ (n - 1) then (x % 2 ^ n : Nat) else (x % 2 ^ n : Nat) - (2 ^ n : Nat)

/-- R59: what a table word, entry by entry, contributes for broadcast bits x. -/
def contribution (g x : Nat) (entry : Nat → Int) : Int :=
  if x.testBit (g - 1) then entry (x % 2 ^ (g - 1)) else -(entry (2 ^ (g - 1) - 1 - x % 2 ^ (g - 1)))

end Sys2Proof.Claims

open Sys2Proof Sys2Proof.Machine Sys2Proof.Claims

/-! ### Bank units (R79 to R105, R345) -/

/-- R85, Table 4-9: the element-wise result of every format A opcode but PCMP, PPOP and PBCAST, in every row and predicate form. -/
def Obligations.PlaneWordsCompute : Prop := ∀ (s : State) (f c u : Nat) (w : Word), HostFront s f c u w →
  (insRm w = 1 ∨ insRm w = 3 → rowClean s f c u (insRow w)) →
  let b := s.bu f c u
  let A := planeBit b (insPaA w)
  let B := operandBit s f c u w
  let K := chainBit b w
  let sh := signed 8 (insImm8 w)
  let keeps (t : State) := (t.bu f c u).c = b.c ∧ (t.bu f c u).z = b.z
  (insOp w = 0x01 → Goes (.plogic ⟨f, c, some u⟩ .host w) s fun t =>
    PlaneOut s t f c u w (fun j => (insImm8 w).testBit (2 * (A j).toNat + (B j).toNat)) ∧ keeps t) ∧
  (insOp w = 0x02 → Goes (.padd ⟨f, c, some u⟩ .host w) s fun t =>
    PlaneOut s t f c u w (fun j => (A j ^^ B j) ^^ K j) ∧
    (∀ j < 512, (t.bu f c u).c.bits.getLsbD j = majority (A j) (B j) (K j)) ∧ (t.bu f c u).z = b.z) ∧
  (insOp w = 0x03 → Goes (.psub ⟨f, c, some u⟩ .host w) s fun t =>
    PlaneOut s t f c u w (fun j => (A j ^^ !B j) ^^ K j) ∧ Compared b (t.bu f c u) w A B) ∧
  (insOp w = 0x05 → Goes (.pflag ⟨f, c, some u⟩ .host w) s fun t =>
    PlaneOut s t f c u w (fun j =>
      let cb := b.c.bits.getLsbD j
      let zb := b.z.bits.getLsbD j
      if insImm8 w % 4 = 0 then cb else if insImm8 w % 4 = 1 then zb else if insImm8 w % 4 = 2 then cb && !zb else !cb) ∧ keeps t) ∧
  (insOp w = 0x06 → Goes (.psel ⟨f, c, some u⟩ .host w) s fun t =>
    PlaneOut s t f c u w (fun j => if planeBit b (insImm8 w % 16) j then A j else B j) ∧ keeps t) ∧
  (insOp w = 0x07 → Goes (.pshe ⟨f, c, some u⟩ .host w) s fun t =>
    PlaneOut s t f c u w (fun j =>
      if 0 ≤ (j : Int) - sh ∧ (j : Int) - sh < 512 then A ((j : Int) - sh).toNat
      else if w.getLsbD 1 then A (((j : Int) - sh) % 512).toNat else w.getLsbD 0) ∧ keeps t)

/-- R86, R87: PCMP leaves every plane register and updates C and Z; PPOP counts into a scalar register. -/
def Sys2Proof.Claims.PlaneWordsTest : Prop := ∀ (s : State) (f c u : Nat) (w : Word), HostFront s f c u w →
  let b := s.bu f c u
  let A := planeBit b (insPaA w)
  let B := operandBit s f c u w
  let inv := (insImm8 w).testBit 0
  let ones := ((List.range 512).filter fun j => A j && (!insPe w || planeBit b (insPp w) j)).length
  (insOp w = 0x04 → (insRm w = 1 ∨ insRm w = 3 → rowClean s f c u (insRow w)) →
    Goes (.pcmp ⟨f, c, some u⟩ .host w) s fun t =>
      Taken s t f c u ∧ t.mem = s.mem ∧
      t.bu f c u = { b with c := (t.bu f c u).c, z := (t.bu f c u).z, executed := b.executed + 1 } ∧
      Compared b (t.bu f c u) w (fun j => A j ^^ inv) (fun j => B j ^^ inv)) ∧
  (insOp w = 0x08 → Goes (.ppop ⟨f, c, some u⟩ .host w) s fun t =>
      Taken s t f c u ∧ t.mem = s.mem ∧
      t.bu f c u = { b with scalars := (t.bu f c u).scalars, executed := b.executed + 1 } ∧
      ((t.bu f c u).scalar (insPd w % 8)).val =
        (if inv then (b.scalar (insPd w % 8)).val else 0) + BitVec.ofNat 32 ones ∧
      ∀ k, k ≠ insPd w % 8 → (t.bu f c u).scalar k = b.scalar k)

/-- R78: poison of an element-wise result: the flags of every source that reaches it, per 64-bit word. -/
def Sys2Proof.Claims.PlanePoisonSpreads : Prop := ∀ (s : State) (f c u : Nat) (w : Word), HostFront s f c u w → insRm w = 0 →
  let b := s.bu f c u
  let K := if insCy w = 1 then b.c.poison else 0
  let into (p : BitVec 8) := if insPe w then (p ||| (b.plane (insPp w)).poison) ||| (b.plane (insPd w)).poison else p
  let p := ((b.plane (insPaA w)).poison ||| (b.plane (insPb w)).poison) ||| K
  (insOp w = 0x02 → Goes (.padd ⟨f, c, some u⟩ .host w) s fun t =>
    ((t.bu f c u).plane (insPd w)).poison = into p ∧ (t.bu f c u).c.poison = p ∧ (t.bu f c u).z.poison = b.z.poison) ∧
  (insOp w = 0x03 → Goes (.psub ⟨f, c, some u⟩ .host w) s fun t =>
    ((t.bu f c u).plane (insPd w)).poison = into p ∧ (t.bu f c u).c.poison = p ∧
    (t.bu f c u).z.poison =
      (if insCy w = 1 then b.z.poison else 0) ||| (b.plane (insPaA w)).poison ||| (b.plane (insPb w)).poison)

/-- R86, R87, R78: the plane words that test, and the poison that PADD and PSUB pass on from plane operands. -/
def Obligations.PlaneWordsTestAndPoison : Prop := Claims.PlaneWordsTest ∧ Claims.PlanePoisonSpreads

/-- ROWCP copies a row (Table 4-8); TBUILD writes the entries of R58 for the lanes that its mask enables (R95). Both leave every other row
of the unit and every register of the BU. -/
def Obligations.RowWordsWrite : Prop := ∀ (s : State) (f c u : Nat) (w : Word), HostFront s f c u w →
  let b := s.bu f c u
  let g := insG w
  let e := insE w
  let src (l i : Nat) : Int :=
    let x := ((b.plane (insPaB w + i)).bits.extractLsb' (16 * l) 16).toNat
    if (insMode w).testBit 0 then (x : Int) else signed 16 x
  let entry (l k : Nat) : Int := ((List.range (g - 1)).map fun i => if k.testBit i then src l i else -(src l i)).sum + src l (g - 1)
  let on (l : Nat) : Bool := !insLm w || (b.scalar 0).val.getLsbD l
  (insOp w = 0x09 → rowClean s f c u (insRow w) → Goes (.rowcp ⟨f, c, some u⟩ .host w) s fun t =>
    Taken s t f c u ∧ t.bu f c u = { b with executed := b.executed + 1 } ∧ OnlyRow s t f c u (insDrow w) ∧
    ∀ k < 8, t.mem.get (rowAddr f c u (insDrow w) + k) = s.mem.get (rowAddr f c u (insRow w) + k)) ∧
  (insOp w = 0x16 → (insLm w = true → rowClean s f c u (insRow w)) → Goes (.tbuild ⟨f, c, some u⟩ .host w) s fun t =>
    Taken s t f c u ∧ t.bu f c u = { b with executed := b.executed + 1 } ∧ OnlyRow s t f c u (insRow w) ∧
    (∀ l, l < lanesOf g e → ∀ k < 2 ^ (g - 1), ((rowNum t f c u (insRow w) ((l * 2 ^ (g - 1) + k) * e) e : Nat) : Int) =
      if on l then entry l k % (2 ^ e : Nat) else rowNum s f c u (insRow w) ((l * 2 ^ (g - 1) + k) * e) e) ∧
    ∀ j, lanesOf g e * 2 ^ (g - 1) * e ≤ j → j < 512 → rowBit t f c u (insRow w) j = false)

/-- R89, R59, R107: LOOKUP adds the table word's contribution to its slot in lanes 0 to L - 1, after the order step that ins.sh asks
for. -/
def Sys2Proof.Claims.LookupAccumulates : Prop := ∀ (s : State) (f c u : Nat) (w : Word), HostFront s f c u w → insOp w = 0x10 →
  let b := s.bu f c u
  let g := b.group (insGrpB w)
  let n := lanesOf (insG w) (insE w)
  let x : Ctx := { f, c, event := b.executed.toNat % 2 ^ 20 }
  let word (l k : Nat) : Int :=
    signed (insE w) (rowNum s f c u (insRow w) ((l * 2 ^ (insG w - 1) + k) * insE w) (insE w))
  rowClean s f c u (insRow w) → SlotReady b w n → insX w < 2 ^ insG w →
  Goes (.lookup ⟨f, c, some u⟩ .host w) s fun t =>
    SlotFrame s t f c u w n ∧ ∀ l < n, slotOf (t.bu f c u) w l = laneOut b w l
      (added g.pair (if insSh w then stepSlot x g u l (g.abs (insSlot w)) (slotOf b w l) else slotOf b w l)
        (contribution (insG w) (insX w) (word l)) false)

/-- R91, R108: MAC16 multiplies and adds in every lane; a pure step takes only the order step and reads no row. -/
def Sys2Proof.Claims.Mac16Accumulates : Prop := ∀ (s : State) (f c u : Nat) (w : Word), HostFront s f c u w → insOp w = 0x12 →
  let b := s.bu f c u
  let g := b.group (insGrpB w)
  let m := insMode w
  let x : Ctx := { f, c, event := b.executed.toNat % 2 ^ 20 }
  let pure := m.testBit 2 = false ∧ insImm16 w = 0
  let sc := b.scalar (insImm16 w % 8)
  let raw := if m.testBit 2 then sc.val.toNat % 65536 else insImm16 w
  let B : Int := if m.testBit 3 then signed 16 raw else raw
  let A (l : Nat) : Int :=
    let r := rowNum s f c u (insRow w) ((if m.testBit 0 then 256 else 0) + 16 * l) 16
    if m.testBit 1 then signed 16 r else r
  let p (l : Nat) : Int := A l * B * (2 ^ (8 * (m / 16 % 4)) : Nat)
  let v (l : Nat) : SlotVal := if insSh w then stepSlot x g u l (g.abs (insSlot w)) (slotOf b w l) else slotOf b w l
  let sum (l : Nat) : SlotVal := added g.pair (v l) (clamp g.pair (p l)) (m.testBit 2 && sc.poison)
  SlotReady b w 16 → (¬pure → rowClean s f c u (insRow w)) →
  Goes (.mac16 ⟨f, c, some u⟩ .host w) s fun t => SlotFrame s t f c u w 16 ∧
    (pure → ∀ l < 16, slotOf (t.bu f c u) w l = laneOut b w l (v l)) ∧
    (¬pure → ∀ l < 16, slotOf (t.bu f c u) w l = laneOut b w l { sum l with sat := (sum l).sat || decide (clamp g.pair (p l) ≠ p l) })

/-- R89, R91: the words that add into slots. -/
def Obligations.SlotWordsAccumulate : Prop := Claims.LookupAccumulates ∧ Claims.Mac16Accumulates

/-- R93: PRELOAD of an INT32 group writes or adds its source; R94: CSEL keeps the better of the pair and the candidate. -/
def Sys2Proof.Claims.PreloadAndSelect : Prop := ∀ (s : State) (f c u : Nat) (w : Word), HostFront s f c u w →
  let b := s.bu f c u
  let g := b.group (insGrpB w)
  let m := insMode w % 4
  let sc := b.scalar (insImm16 w % 8)
  let lane (l : Nat) : Int := signed 32 (rowNum s f c u (insRow w) (32 * l) 32)
  let put (l : Nat) (v : Int) (p : Bool) : SlotVal := { val := v, sat := (slotOf b w l).sat, poison := p }
  let idx : Nat := ((b.scalar 3).val + BitVec.ofNat 32 (insImm16 w)).toNat
  let held (l : Nat) : SlotVal := b.slot false (g.abs (insSlot w) + 1) l
  let on (l : Nat) : Bool := !insLm w || (b.scalar 0).val.getLsbD l
  g.pair = false → SlotReady b w 16 →
  (insOp w = 0x14 → (m = 0 ∨ m = 3 → rowClean s f c u (insRow w)) → Goes (.preload ⟨f, c, some u⟩ .host w) s fun t => SlotFrame s t f c u w 16 ∧
    ∀ l < 16, slotOf (t.bu f c u) w l = laneOut b w l
      (if m = 0 then put l (lane l) false else if m = 1 then put l (signed 16 (insImm16 w)) false
       else if m = 2 then put l (signed 32 sc.val.toNat) sc.poison else added false (slotOf b w l) (lane l) false)) ∧
  (insOp w = 0x15 → rowClean s f c u (insRow w) → insSlot w + 1 < g.count →
    (∀ l < 16, (b.accWord (slotWord false (g.abs (insSlot w) + 1) l)).data = (b.accWord (slotWord false (g.abs (insSlot w) + 1) l)).good) →
    (b.scalar 0).poison = false → (b.scalar 3).poison = false →
    Goes (.csel ⟨f, c, some u⟩ .host w) s fun t => Taken s t f c u ∧ t.mem = s.mem ∧
      t.bu f c u = { b with acc := (t.bu f c u).acc, groups := (t.bu f c u).groups, executed := b.executed + 1 } ∧
      (∀ k, (t.bu f c u).group k = if k = insGrpB w then { g with csel := if (insMode w).testBit 0 then 2 else 1 } else b.group k) ∧
      (∀ l < 16, b.settled.getLsbD l = false → on l = true →
        let wins := (if (insMode w).testBit 0 then lane l < (slotOf b w l).val else (slotOf b w l).val < lane l) ∨
          lane l = (slotOf b w l).val ∧ (idx : Int) < (held l).val % (2 ^ 32 : Nat)
        (wins → ((t.bu f c u).slot false (g.abs (insSlot w)) l).val = lane l ∧
          ((t.bu f c u).slot false (g.abs (insSlot w) + 1) l).val = signed 32 idx) ∧
        (¬wins → ((t.bu f c u).slot false (g.abs (insSlot w)) l).val = (slotOf b w l).val ∧
          ((t.bu f c u).slot false (g.abs (insSlot w) + 1) l).val = (held l).val)) ∧
      ∀ a l, l < 16 → (a ≠ g.abs (insSlot w) ∧ a ≠ g.abs (insSlot w) + 1 ∨ b.settled.getLsbD l = true ∨ on l = false) →
        (t.bu f c u).slot false a l = b.slot false a l)

/-- R93, R94 in INT16-pair groups: PRELOAD writes both halves of the word, CSEL compares the even half and indexes in the odd one. -/
def Sys2Proof.Claims.PairPreloadAndSelect : Prop := ∀ (s : State) (f c u : Nat) (w : Word), HostFront s f c u w →
  let b := s.bu f c u
  let g := b.group (insGrpB w)
  let m := insMode w % 4
  let a := g.abs (insSlot w)
  let row (l h : Nat) : Int := signed 16 (rowNum s f c u (insRow w) (32 * l + 16 * h) 16)
  let sc := b.scalar (insImm16 w % 8)
  let idx : Nat := ((b.scalar 3).val + BitVec.ofNat 32 (insImm16 w)).toNat % 65536
  let on (l : Nat) : Bool := !b.settled.getLsbD l && (!insLm w || (b.scalar 0).val.getLsbD l)
  g.pair = true → insSlot w % 2 = 0 → SlotReady b w 16 →
  (insOp w = 0x14 → (m = 0 ∨ m = 3 → rowClean s f c u (insRow w)) → Goes (.preload ⟨f, c, some u⟩ .host w) s fun t => Taken s t f c u ∧ t.mem = s.mem ∧
    (∀ l < 16, ∀ h < 2, ((t.bu f c u).slot true (a + h) l).val =
      if on l = false then (b.slot true (a + h) l).val else if m = 0 then row l h else if m = 1 then (if h = 0 then signed 16 (insImm16 w) else if insImm16 w < 32768 then 0 else -1)
      else if m = 2 then signed 16 (sc.val.toNat / 65536 ^ h) else clamp true ((b.slot true (a + h) l).val + row l h)) ∧
    ∀ k l, l < 16 → k ≠ a → k ≠ a + 1 → (t.bu f c u).slot true k l = b.slot true k l) ∧
  (insOp w = 0x15 → rowClean s f c u (insRow w) → Goes (.csel ⟨f, c, some u⟩ .host w) s fun t => Taken s t f c u ∧ t.mem = s.mem ∧
    (∀ l < 16,
      let v := (b.slot true a l).val
      let wins := (if (insMode w).testBit 0 then row l 0 < v else v < row l 0) ∨
        row l 0 = v ∧ (idx : Int) < (b.slot true (a + 1) l).val % 65536
      (on l = true → wins → ((t.bu f c u).slot true a l).val = row l 0 ∧ ((t.bu f c u).slot true (a + 1) l).val = signed 16 idx) ∧
      (on l = false ∨ ¬wins → ((t.bu f c u).slot true a l).val = v ∧ ((t.bu f c u).slot true (a + 1) l).val = (b.slot true (a + 1) l).val)) ∧
    ∀ k l, l < 16 → k ≠ a → k ≠ a + 1 → (t.bu f c u).slot true k l = b.slot true k l)

/-- R93, R94: PRELOAD and CSEL, in INT32 and in INT16-pair groups. -/
def Obligations.SlotsPreloadAndSelect : Prop := Claims.PreloadAndSelect ∧ Claims.PairPreloadAndSelect

/-- Table 4-8, R96, R103: NOP, SSET and SADD; GOPEN opens a group of zero slots; GCLOSE closes it, and of the accumulator memory only the
words of its rows change. -/
def Obligations.ControlWordsAct : Prop := ∀ (s : State) (f c u : Nat) (w : Word), HostFront s f c u w →
  let b := s.bu f c u
  let scal (t : State) (v : BitVec 32) (p : Bool) := Taken s t f c u ∧ t.mem = s.mem ∧
    t.bu f c u = { b with scalars := (t.bu f c u).scalars, executed := b.executed + 1 } ∧
    (t.bu f c u).scalar (insSd w) = { val := v, poison := p } ∧ ∀ k, k ≠ insSd w → (t.bu f c u).scalar k = b.scalar k
  let old := b.scalar (insSd w)
  let rows := if goPair w then (goCount w + 1) / 2 else goCount w
  (insOp w = 0x00 → Goes (.nop ⟨f, c, some u⟩ .host w) s fun t =>
    Taken s t f c u ∧ t.mem = s.mem ∧ t.bu f c u = { b with executed := b.executed + 1 }) ∧
  (insOp w = 0x24 → Goes (.sset ⟨f, c, some u⟩ .host w) s fun t => scal t (BitVec.ofNat 32 (insImm32 w)) false) ∧
  (insOp w = 0x25 → Goes (.sadd ⟨f, c, some u⟩ .host w) s fun t => scal t (old.val + BitVec.ofNat 32 (insImm32 w)) old.poison) ∧
  (insOp w = 0x22 → (b.group (insGrpC w)).isOpen = true → Goes (.gclose ⟨f, c, some u⟩ .host w) s fun t =>
    let g := b.group (insGrpC w)
    let n := if g.pair then (g.count + 1) / 2 else g.count
    Taken s t f c u ∧ t.mem = s.mem ∧ t.bu f c u = { b with
      groups := (t.bu f c u).groups, acc := (t.bu f c u).acc, stale := (t.bu f c u).stale, closes := b.closes + 1
      executed := b.executed + 1 } ∧
    ((t.bu f c u).group (insGrpC w)).isOpen = false ∧ (∀ k, k ≠ insGrpC w → (t.bu f c u).group k = b.group k) ∧
    ∀ i, i < g.base * 16 ∨ (g.base + n) * 16 ≤ i → (t.bu f c u).accWord i = b.accWord i) ∧
  (insOp w = 0x21 → (b.group (insGrpC w)).isOpen = false →
    (∀ k < 8, (b.group k).isOpen = true → goBase w + rows ≤ (b.group k).base ∨
      (b.group k).base + (if (b.group k).pair then ((b.group k).count + 1) / 2 else (b.group k).count) ≤ goBase w) →
    Goes (.gopen ⟨f, c, some u⟩ .host w) s fun t =>
      let g := (t.bu f c u).group (insGrpC w)
      t.mem = s.mem ∧ OtherBus s t f c u ∧ (t.core f c).fifo = (s.core f c).fifo.drop 1 ∧
      t.bu f c u = { b with
        groups := (t.bu f c u).groups, acc := (t.bu f c u).acc, stale := (t.bu f c u).stale, opens := (t.bu f c u).opens
        opensOf := (t.bu f c u).opensOf, settled := 0, executed := b.executed + 1 } ∧
      g.isOpen = true ∧ g.base = goBase w ∧ g.count = goCount w ∧ g.pair = goPair w ∧ g.msb = goMsb w ∧ g.sr = goSr w ∧
      g.prov = goProv w ∧ (∀ k, k ≠ insGrpC w → (t.bu f c u).group k = b.group k) ∧
      (∀ i, goBase w * 16 ≤ i → i < (goBase w + rows) * 16 → (t.bu f c u).accWord i = {}) ∧
      ∀ i, i < goBase w * 16 ∨ (goBase w + rows) * 16 ≤ i → (t.bu f c u).accWord i = b.accWord i)

/-- The rows whose word a host may broadcast to a core (R345), YIELD apart. -/
def Sys2Proof.Claims.hostRows : List (BuAt → Issue → Word → Instr) :=
  [.nop, .plogic, .padd, .psub, .pcmp, .pflag, .psel, .pshe, .ppop, .rowcp, .lookup, .mac16, .escmac, .preload, .csel, .tbuild,
   .gopen, .gclose, .sset, .sadd]

/-- R22, R345: a word for all 128 BUs of a core does in each BU what a word for that BU alone does: to its registers and its rows. -/
def Obligations.BroadcastIsEachBu : Prop := ∀ mk ∈ Claims.hostRows, ∀ (s : State) (f c : Nat) (q : CmdWord) (rest : List CmdWord),
  (mk ⟨f, c, none⟩ .host q.w).ok = true → (s.core f c).level = .run → (s.field f).cmdEnding = false →
  (s.core f c).fifo = q :: rest → q.bu = none →
  Goes (mk ⟨f, c, none⟩ .host q.w) s fun t => (t.core f c).fifo = rest ∧
    ∀ u < 128, Goes (mk ⟨f, c, some u⟩ .host q.w) (s.updCore f c fun k => { k with fifo := { q with bu := some u } :: rest }) fun t' =>
      t.bu f c u = t'.bu f c u ∧
      ∀ row < 4096, ∀ k < 8, t.mem.get (rowAddr f c u row + k) = t'.mem.get (rowAddr f c u row + k)

/-- R98, R102: a host word that the BU's groups make invalid is discarded: the BU counts it not as executed, marks it, and the core's
INVALID_INSTR counter and a record name it; its registers and memory stay. -/
def Sys2Proof.Claims.InvalidWordDiscarded : Prop := ∀ mk ∈ Claims.hostRows, ∀ (s : State) (f c u : Nat) (w : Word), HostFront s f c u w →
  (mk ⟨f, c, some u⟩ .host w).ok = true → groupOk (s.bu f c u) w = false →
  Goes (mk ⟨f, c, some u⟩ .host w) s fun t =>
    t.mem = s.mem ∧ OtherBus s t f c u ∧ t.bu f c u = { s.bu f c u with invalidSeen := true } ∧
    (t.core f c).fifo = (s.core f c).fifo.drop 1 ∧ t.log.next = s.log.next + 1 ∧
    ((s.counter (coreBlock f c) 17).val + 1 < 65535 →
      (t.counter (coreBlock f c) 17).val = (s.counter (coreBlock f c) 17).val + 1)

/-- R350: command mode that is ending ends with the last waiting word of the field: its groups close and its cores are no longer held at
run by it. -/
def Sys2Proof.Claims.CommandModeEnds : Prop := ∀ (s : State) (f c u : Nat) (w : Word), f < 96 → c < 8 → u < 128 → insOp w = 0x00 →
  (s.core f c).level = .run → (s.field f).cmdEnding = true → (∃ q, (s.core f c).fifo = [q] ∧ q.bu = some u ∧ q.w = w) →
  (∀ d < 8, d ≠ c → (s.core f d).fifo = []) →
  Goes (.nop ⟨f, c, some u⟩ .host w) s fun t => t.mem = s.mem ∧ (t.field f).cmdMode = none ∧ (t.field f).cmdEnding = false ∧
    (∀ d < 8, 0 ∉ (t.core f d).pinnedBy ∧ (t.core f d).fifo = []) ∧
    ∀ d < 8, ∀ v < 128, ∀ k, ((s.bu f d v).group k).opener = none → ((t.bu f d v).group k).isOpen = false

/-- R102, R345, R346: words that command mode does not execute. -/
def Obligations.CommandModeWordsEnd : Prop := Claims.InvalidWordDiscarded ∧ Claims.CommandModeEnds

/-- R99, R100, R421: every yield point serves at most 8 waiting accesses and the scrub write-backs; with no access waiting, a corrected word
that no one rewrote is written back with fresh check bits. -/
def Obligations.YieldPointServes : Prop := ∀ (s : State) (f c u : Nat) (w : Word), f < 96 → c < 8 → u < 128 → (s.core f c).level = .run →
  (∀ x ∈ (s.bu f c u).queue, x.row < 4096 ∧ x.byte + x.len ≤ 64 ∧ x.byte + x.bytes.length ≤ 64) →
  let out (t : State) := (t.bu f c u).queue = (s.bu f c u).queue.drop 8 ∧ (t.bu f c u).scrub = [] ∧ OtherBus s t f c u ∧
    ((s.bu f c u).queue = [] → ∀ a x, (s.bu f c u).scrub = [(a, x)] → s.mem.get a = x → x.poison = false →
      popcount (x.data ^^^ x.good) = 1 → t.mem.get a = { data := x.good, good := x.good } ∧ ∀ k, k ≠ a → t.mem.get k = s.mem.get k)
  Goes (.yieldIntervalExpiry f c u) s out ∧ Goes (.idleCycleYield f c u) s out ∧
  (HostFront s f c u w → insOp w = 0x20 → Goes (.yield_ ⟨f, c, some u⟩ .host w) s out)

/-! ### The core sequencer (R83 to R209) -/

/-- A pass of a window that runs: it has started and holds no fault. -/
def Sys2Proof.Claims.Running (s : State) (f c p : Nat) (wp : WinPass) : Prop :=
  f < 96 ∧ c < 8 ∧ (s.core f c).window[p]? = some wp ∧ wp.started = true ∧ wp.fault = none

/-- A pass that stands alone in its core's window and may start (R185, R186): nothing before it, no dependency, no lantern beyond the
standing allowance. -/
def Sys2Proof.Claims.Alone (s : State) (f c : Nat) (wp : WinPass) (kind : Nat) : Prop :=
  f < 96 ∧ c < 8 ∧ (s.core f c).window = [wp] ∧ (s.core f c).level = .run ∧ Desc.kind wp.desc = kind ∧ wp.started = false ∧
  wp.skipped = false ∧ wp.fault = none ∧ wp.atSettle = false ∧ Desc.deps wp.desc = [] ∧ Desc.lantern wp.desc ≤ 2 ∧
  (s.planField wp.plan f).isSome = true

/-- R88, R97, R104: what only the sequencer issues. PBCAST puts its payload into a plane of every BU; DRAIN hands the named word-rows of
every BU to the drain path as they stand, and changes no slot. -/
def Obligations.SequencerWordsAct : Prop := ∀ (s : State) (f c p ev : Nat) (wp : WinPass) (w : Word) (r : Row),
  Running s f c p wp → seqOk wp.desc w = true →
  (insOp w = 0x0A → Goes (.pbcast ⟨f, c, none⟩ (.seq p ev (some r)) w) s fun t =>
    t.mem = s.mem ∧ t.cores = s.cores ∧
    (∀ u < 128, (t.bu f c u).plane (insPd w) = { bits := r } ∧ ∀ k, k ≠ insPd w → (t.bu f c u).plane k = (s.bu f c u).plane k) ∧
    ∀ g d v, d < 8 → v < 128 → ¬(g = f ∧ d = c) → t.bu g d v = s.bu g d v) ∧
  (insOp w = 0x23 → p = 0 → (∀ u < 128, groupOk (s.bu f c u) w = true ∧ ((s.bu f c u).group (insGrpC w)).pair = false ∧
      ((s.bu f c u).group (insGrpC w)).csel = 0 ∧ ∀ i, ((s.bu f c u).accWord i).data = ((s.bu f c u).accWord i).good) →
    Desc.idxMode wp.desc = 0 →
    Goes (.drain ⟨f, c, none⟩ (.seq p ev none) w) s fun t => t.bus = s.bus ∧ t.mem = s.mem ∧
      ∃ k, (t.core f c).drains = (s.core f c).drains ++ [k] ∧ k.serial = wp.serial ∧ k.rows = drCount w ∧
        (∀ o ∈ k.outs, o.val = ((s.bu f c o.bu).slot false o.slot o.lane).val ∧
          o.sat = ((s.bu f c o.bu).slot false o.slot o.lane).sat ∧ o.poison = ((s.bu f c o.bu).slot false o.slot o.lane).poison) ∧
        ∀ u < 128, ∀ n < drCount w, ∀ l < 16, ∃ o ∈ k.outs, o.bu = u ∧ o.lane = l ∧
          o.slot = ((s.bu f c u).group (insGrpC w)).base + drFirst w + n)

/-- R90, R137, R142, R144: LOOKUPS takes a lane's bits from the place that its metadata gives, and adds the contribution; a lane without a
place keeps its slot, and CARD_IDLE_LANES counts it; metadata that fails a check faults the pass, and no slot changes. -/
def Sys2Proof.Claims.LookupsAccumulates : Prop := ∀ (s : State) (f c u p ev card win row : Nat) (wp : WinPass) (w : Word),
  Running s f c p wp → u < 128 → insOp w = 0x11 → seqOk wp.desc w = true →
  let b := s.bu f c u
  let g := b.group (insGrpB w)
  let n := lanesOf (insG w) (insE w)
  let word (l k : Nat) : Int := signed (insE w) (rowNum s f c u (insRow w) ((l * 2 ^ (insG w - 1) + k) * insE w) (insE w))
  let bits (q : Nat) : Nat := ((b.plane (insPaB w)).bits.extractLsb' (insG w * q) (insG w)).toNat
  let place := s.cardPlaces f c p u card win row
  (∀ e, s.lookupsFault ⟨f, c, some u⟩ p card = some e →
    Goes (.lookups ⟨f, c, some u⟩ (.seq p ev none) w card win row) s fun t => t.mem = s.mem ∧ t.bus = s.bus ∧
      ∃ x, (t.core f c).pass wp.serial = some x ∧ x.fault = some e) ∧
  (s.lookupsFault ⟨f, c, some u⟩ p card = none → rowClean s f c u (insRow w) → (s.core f c).held = [] → (s.core f c).drains = [] →
    SlotReady b w n → (b.plane (insPaB w)).poison = 0 → Goes (.lookups ⟨f, c, some u⟩ (.seq p ev none) w card win row) s fun t =>
    t = { s with bus := t.bus, counters := t.counters } ∧ OtherBus s t f c u ∧
    (∀ k, s.passCard f c p card = some k → (s.counter (coreBlock f c) 6).val + 16 < 2 ^ 48 - 1 →
      (t.counter (coreBlock f c) 6).val = (s.counter (coreBlock f c) 6).val +
        ((List.range k.2.2.lanes).filter fun l => (place l).isNone).length) ∧
    (∀ a l, l < 16 → (a ≠ g.abs (insSlot w) ∨ n ≤ l) → (t.bu f c u).slot g.pair a l = b.slot g.pair a l) ∧
    ∀ l < n, slotOf (t.bu f c u) w l = laneOut b w l (match place l with
      | none => slotOf b w l
      | some q => added g.pair (slotOf b w l) (contribution (insG w) (bits q) (word l)) false))

/-- R92: ESCMAC decomposes its entry's POSITION, takes the streaming value from the window and adds the scaled product to one slot; an entry
that stops, or whose lane is settled (R206), changes nothing. -/
def Sys2Proof.Claims.EscmacResolves : Prop := ∀ (s : State) (f c u p ev : Nat) (wp : WinPass) (w : Word),
  Running s f c p wp → u < 128 → insOp w = 0x13 → seqOk wp.desc w = true →
  let b := s.bu f c u
  let g := b.group (insGrpB w)
  let reg (i : Nat) : Nat := (b.scalar i).val.toNat
  let i := insX w / 2
  let n := 8 * (insRow w % 2048 - insImm16 w / 32) + i
  let pos := rowNum s f c u (insRow w) (64 * i) 32
  let lanes := lanesOf (insG w) (insE w)
  let q : Int := (pos % reg 4 : Nat) - (reg 5 : Int)
  let o : Int := (pos / reg 4 : Nat) - (reg 6 : Int)
  let lane := o.toNat % lanes
  let slot := insSlot w + o.toNat / lanes
  let stops := reg 7 ≤ n ∨ reg 4 = 0 ∨ q < 0 ∨ 511 < q ∨ o < 0 ∨ g.count ≤ slot ∨ (insLm w = true ∧ (b.scalar 0).val.getLsbD lane = false) ∨
    b.settled.getLsbD lane = true
  let m := insImm16 w % 32
  let raw : Nat := ((List.range m).map fun k => if planeBit b (insPaB w + k) q.toNat then 2 ^ k else 0).sum
  let x : Int := if w.getLsbD 23 then (raw : Int) else signed m raw
  let v : Int := signed 16 (rowNum s f c u (insRow w) (64 * i + 32) 16) * x
  let h := signed 6 (insMode w)
  rowClean s f c u (insRow w) → (s.core f c).held = [] → (s.core f c).drains = [] → (∀ k, (b.scalar k).poison = false) →
  (∀ k, (b.plane k).poison = 0) → (∀ k, (b.accWord k).data = (b.accWord k).good) → g.isOpen = true → insSlot w < g.count →
  Goes (.escmac ⟨f, c, some u⟩ (.seq p ev none) w) s fun t =>
    t = { s with bus := t.bus } ∧ OtherBus s t f c u ∧ (stops → ∀ a l, l < 16 → (t.bu f c u).slot g.pair a l = b.slot g.pair a l) ∧
    (¬stops → (∀ a l, l < 16 → (a ≠ g.abs slot ∨ l ≠ lane) → (t.bu f c u).slot g.pair a l = b.slot g.pair a l) ∧
      ∃ term : Int,
        (0 ≤ h → term = clamp g.pair (v * (2 ^ h.toNat : Nat))) ∧
        (h < 0 → g.sr = false → term = roundShift v h.natAbs 0 0) ∧
        (h < 0 → g.sr = true → term = v / (2 ^ h.natAbs : Nat) ∨ term = v / (2 ^ h.natAbs : Nat) + 1) ∧
        ((t.bu f c u).slot g.pair (g.abs slot) lane).val = clamp g.pair ((b.slot g.pair (g.abs slot) lane).val + term))

/-- R90, R116, R137: the words that read metadata. -/
def Obligations.MetadataWordsAccumulate : Prop := Claims.LookupsAccumulates ∧ Claims.EscmacResolves

/-- R154, R183, R184, R386: a fetch takes the next pass of the core's run into its window, with its 128 bytes, its request for lanterns,
and a fault where the descriptor breaks a check. -/
def Obligations.DescriptorFetchFills : Prop := ∀ (s : State) (f c idx : Nat) (h : Word) (rest : List (Word × Nat)) (j : Job) (pf : PlanField),
  f < 96 → c < 8 → (s.core f c).run = (h, idx) :: rest → (s.core f c).level = .run → (s.core f c).stopped = false →
  (s.core f c).window.length < 4 → (∀ x ∈ (s.core f c).window, x.job = h) → s.job h = some j → s.planField j.plan f = some pf →
  (s.field f).health = .healthy →
  let a := commonsAddr f + (pf.comBase + 128 * idx) / 8
  (∀ k < 16, (s.mem.get (a + k)).data = (s.mem.get (a + k)).good ∧ (s.mem.get (a + k)).poison = false) →
  Goes (.descriptorFetch f c) s fun t => t = { s with cores := t.cores } ∧ (∀ g d, d < 8 → ¬(g = f ∧ d = c) → t.core g d = s.core g d) ∧
    ∃ wp, t.core f c = { s.core f c with
        run := rest, serials := (s.core f c).serials + 1, window := (s.core f c).window ++ [wp] } ∧
      wp.serial = (s.core f c).serials ∧ wp.idx = idx ∧ wp.job = h ∧ wp.plan = j.plan ∧ wp.started = false ∧
      (∀ k < 16, wp.desc.extractLsb' (64 * k) 64 = (s.mem.get (a + k)).data) ∧
      (wp.fault.isSome = !descOk wp.desc) ∧ (Desc.back wp.desc = 0 → wp.skipped = false) ∧
      ((wp.lantern = .asked) ↔ 2 < Desc.lantern wp.desc ∧ wp.skipped = false)

/-- R155, R183: a PLANE pass whose program is one SADD word repeated adds that many times in every BU, and ISSUE_CYCLES counts each
broadcast word. -/
def Sys2Proof.Claims.PlanePassRepeats : Prop := ∀ (s : State) (f c : Nat) (wp : WinPass) (pf : PlanField) (w : Word), Alone s f c wp 4 →
  s.planField wp.plan f = some pf → Desc.plLen wp.desc = 1 → insOp w = 0x25 → wordOk w = true →
  s.mem.get (commonsAddr f + (pf.comBase + Desc.plOff wp.desc) / 8) = { data := w, good := w } →
  (s.counter (coreBlock f c) 1).val + Desc.plRep wp.desc < 2 ^ 48 - 1 →
  Goes (.planePass f c 0) s fun t => t.mem = s.mem ∧
    (∀ u < 128, ((t.bu f c u).scalar (insSd w)).val =
      ((s.bu f c u).scalar (insSd w)).val + BitVec.ofNat 32 (Desc.plRep wp.desc * insImm32 w)) ∧
    (t.counter (coreBlock f c) 1).val = (s.counter (coreBlock f c) 1).val + Desc.plRep wp.desc ∧
    ∃ x, (t.core f c).window = [x] ∧ x.serial = wp.serial ∧ x.started = true ∧ x.issued = true ∧ x.todo = [] ∧ x.fault = none

/-- R96, R155, R159, R162: a TABLE, SPARSE or MAC16 pass that may start starts; where it opens its group, keeps it open (drain.dest 0) and
runs to its end without a fault, that group is open in every BU with the parameters of the descriptor. An ESCAPE pass opens none. A
DRAIN pass hands each of its vectors to the drain path and closes the group. -/
def Sys2Proof.Claims.BankPassesRun : Prop := ∀ (s : State) (f c : Nat) (wp : WinPass),
  let d := wp.desc
  let started (t : State) := ∃ x, (t.core f c).window = [x] ∧ x.serial = wp.serial ∧ x.started = true ∧
    (∀ g e, e < 8 → ¬(g = f ∧ e = c) → t.core g e = s.core g e) ∧ t.jobs = s.jobs ∧ t.mesh = s.mesh ∧ t.fields = s.fields ∧
    (x.fault = none → x.todo = [] → x.issued = true)
  let opened (t : State) := started t ∧ (Desc.opens d = true → Desc.dest d = 0 → ∀ x, (t.core f c).window = [x] → x.fault = none →
    x.todo = [] → ∀ u < 128,
      let g := (t.bu f c u).group (Desc.grp d)
      g.isOpen = true ∧ g.base = Desc.gopenImm d % 32 ∧ g.count = Desc.gopenImm d / 32 % 128 ∧ g.pair = (Desc.gopenImm d).testBit 12 ∧
      g.opener = some wp.serial)
  (Alone s f c wp 1 → Goes (.tablePass f c 0) s opened) ∧ (Alone s f c wp 2 → Goes (.sparsePass f c 0) s opened) ∧
  (Alone s f c wp 5 → Goes (.mac16Pass f c 0) s opened) ∧
  (Alone s f c wp 3 → Goes (.escapePass f c 0) s fun t => started t ∧
    ∀ u < 128, ∀ k, k ≠ Desc.grp d → (t.bu f c u).group k = (s.bu f c u).group k) ∧
  (Alone s f c wp 10 → Desc.dest d ≠ 0 → Goes (.drainPass f c 0) s fun t => started t ∧
    (t.core f c).drains.length = (s.core f c).drains.length + Desc.n d ∧
    ∀ u < 128, ((t.bu f c u).group (Desc.grp d)).isOpen = false)

/-- R155, R159, R183: the passes that run on the bank units. -/
def Obligations.PassesRun : Prop := Claims.PlanePassRepeats ∧ Claims.BankPassesRun

/-- R156, R158, R197, R199, R222: a ROUTE starts beside the BUs and resolves to the word it reads; a word against its prediction discards
the passes after it, which are fetched again. An EDGE pass that is the head joins its field's postings. -/
def Obligations.RouteAndEdgePasses : Prop := ∀ (s : State) (f c : Nat) (wp : WinPass),
  (Alone s f c wp 7 → Goes (.routePass f c 0) s fun t => t = { s with cores := t.cores } ∧
    t.core f c = { s.core f c with window := [{ wp with started := true, issued := true }] }) ∧
  (Alone s f c wp 8 → wp.done = false → (c, wp.serial) ∉ (s.edge f).postings → Goes (.edgePass f c 0) s fun t => t = { s with cores := t.cores, edges := t.edges } ∧
    t.core f c = { s.core f c with window := [{ wp with started := true, issued := true }] } ∧
    (t.edge f).postings = (s.edge f).postings ++ [(c, wp.serial)] ∧ (t.edge f).v = (s.edge f).v ∧ ∀ g, g ≠ f → t.edge g = s.edge g) ∧
  ∀ (pf : PlanField) (late : List WinPass) (v : Word),
    f < 96 → c < 8 → (s.core f c).window = wp :: late → (∀ x ∈ late, x.serial ≠ wp.serial) → Desc.kind wp.desc = 7 → wp.started = true →
    wp.skipped = false → wp.resolved = none → wp.fault = none → Desc.deps wp.desc = [] → Desc.lantern wp.desc ≤ 2 →
    s.planField wp.plan f = some pf →
    s.mem.get (commonsAddr f + (pf.comBase + Desc.rtOff wp.desc) / 8) = { data := v, good := v } →
    v.toNat % 65536 < 2 ^ Desc.rtArms wp.desc →
    Goes (.routeResolve f c) s fun t => t.mem = s.mem ∧ (t.core f c).predictor.head? = some (wp.idx, v.toNat % 65536) ∧
      (t.core f c).predictor.length ≤ 16 ∧
      (∃ x, (t.core f c).window.head? = some x ∧ x.serial = wp.serial ∧ x.resolved = some (v.toNat % 65536)) ∧
      (wp.predicted = none ∨ wp.predicted = some (v.toNat % 65536) →
        (t.core f c).window.map (·.serial) = (s.core f c).window.map (·.serial) ∧ (t.core f c).run = (s.core f c).run) ∧
      (∀ n, wp.predicted = some n → n ≠ v.toNat % 65536 →
        (t.core f c).window.map (·.serial) = [wp.serial] ∧
        (t.core f c).run = late.map (fun x => (x.job, x.idx)) ++ (s.core f c).run)

/-- R160, R189, R190: the head commits: its completion record says its index and status, its job counts it, and the window moves on; a head
that holds a fault ends its job with the fault's code. -/
def Obligations.PassCommits : Prop := ∀ (s : State) (f c : Nat) (wp : WinPass) (pf : PlanField) (j : Job),
  f < 96 → c < 8 → (s.core f c).window = [wp] → s.planField wp.plan f = some pf → s.job wp.job = some j →
  let a := commonsAddr f + (pf.comBase + pf.done + 16 * wp.idx) / 8
  (wp.fault = none → Desc.kind wp.desc ≤ 5 → wp.skipped = false → wp.started = true → wp.issued = true → wp.todo = [] → wp.shortfall = 0 →
    (∀ t ∈ (s.core f c).drains, t.serial ≠ wp.serial) →
    Goes (.passCommit f c) s fun t => (t.core f c).window = [] ∧ (t.core f c).run = (s.core f c).run ∧
      fld (t.mem.get a).data 0 16 = wp.idx % 65536 ∧ fld (t.mem.get a).data 16 16 = 0 ∧
      fld (t.mem.get a).data 32 16 = wp.status.toNat ∧ fld (t.mem.get a).data 48 8 = 0 ∧
      (∀ k, k ≠ a → k ≠ a + 1 → t.mem.get k = s.mem.get k) ∧ t.bus = s.bus ∧
      ∃ x, t.job wp.job = some x ∧ x.committed = j.committed ++ [(f, wp.idx)] ∧ x.left = j.left - 1 ∧ x.drain = j.drain ||| wp.status ∧
        x.st = j.st) ∧
  (∀ e, wp.fault = some e → j.isEnded = false → e.code < 65536 → (∀ g, (s.edge g).postings = []) →
    Goes (.passCommit f c) s fun t => fld (t.mem.get a).data 16 16 = e.code ∧ t.log.next = s.log.next + 1 ∧
      (∀ r, t.log.recs.getLast? = some r → fld r.1 32 16 = e.code ∧ fld r.1 48 8 = 3 ∧ fld r.1 64 8 = f ∧ fld r.1 72 8 = c) ∧
      ∃ x, t.job wp.job = some x ∧ x.st = .ended e.code ∧ x.failField = some f ∧ x.failCore = some c ∧ x.failPass = wp.idx)

/-- R97, R105, R148, R207: the drain path takes one word-row at a time, of the DRAIN of a field that arrived first; outputs of a DRAIN that
is not the last of its tile join the tile; the word-rows of a closed group are released when no DRAIN of it is left; a settled core skips to
the drain and SETTLE_SAVED counts the words it left out. -/
def Sys2Proof.Claims.DrainPathAdvances : Prop := ∀ (s : State) (f c g : Nat) (k : DrainTask) (ks : List DrainTask), f < 96 → c < 8 →
  let first := ∀ d < 8, d ≠ c → ∀ q, (s.core f d).drains.head? = some q → k.arrival < q.arrival
  let ready := ∀ w ∈ (s.core f c).window, w.waits = false
  ((s.core f c).drains = k :: ks → first → ready → 1 < k.rows → Goes (.drainPathTake f c) s fun t => t = { s with cores := t.cores } ∧
    t.core f c = { s.core f c with drains := { k with rows := k.rows - 1, row := k.row + 1 } :: ks }) ∧
  (∀ d q, (s.core f c).drains = k :: ks → d < 8 → d ≠ c → (s.core f d).drains.head? = some q → q.arrival < k.arrival → 1 < q.rows →
    (∀ w ∈ (s.core f d).window, Desc.dest w.desc ≠ 4) → Goes (.drainPathTake f c) s fun t => t = s) ∧
  (∀ wp, (s.core f c).drains = k :: ks → first → ready → k.rows ≤ 1 → k.last = false → (s.core f c).window = [wp] → wp.serial = k.serial →
    Desc.dest wp.desc ≠ 4 → Goes (.drainPathTake f c) s fun t => t = { s with cores := t.cores } ∧
      t.core f c = { s.core f c with
        drains := ks, window := [{ wp with tile := Sparse.set [] wp.tile k.vec (Sparse.get [] wp.tile k.vec ++ k.outs) }] }) ∧
  (g < 8 → Goes (.groupRelease f c g) s fun t => t = { s with cores := t.cores } ∧
    ∀ q, q ∈ (t.core f c).closing ↔ q ∈ (s.core f c).closing ∧ (q.1 ≠ g ∨ ∃ x ∈ (s.core f c).drains, x.serial = q.2 ∧ x.grp = g)) ∧
  (∀ wp pre, (s.core f c).window = [wp] → wp.atSettle = true → wp.started = true → wp.fault = none → Desc.kind wp.desc = 1 →
    (s.planField wp.plan f).isSome = true → wp.todo = pre ++ [.planesEnd] → .planesEnd ∉ pre →
    (s.counter (coreBlock f c) 10).val + todoCost pre < 2 ^ 48 - 1 →
    Goes (.coreSettledSkip f c) s fun t => t.bus = s.bus ∧ t.mem = s.mem ∧
      (t.core f c).window = [{ wp with todo := [], atSettle := false, issued := true, waits := false, stalled := false }] ∧
      (t.counter (coreBlock f c) 10).val = (s.counter (coreBlock f c) 10).val + todoCost pre)

/-- R124, R148, R468: the last DRAIN of a tile forms the vector: with SINT-8 outputs in element-major form to the field's own commons, byte j of
the region is output j shifted, rounded to nearest even and clamped to -128 to 127. -/
def Sys2Proof.Claims.DrainFormsVector : Prop := ∀ (s : State) (f c : Nat) (k : DrainTask) (ks : List DrainTask) (wp : WinPass) (pf : PlanField),
  let d := wp.desc
  let outs := Sparse.get [] wp.tile k.vec ++ k.outs
  let a := commonsAddr f + (pf.comBase + Desc.addr d) / 8 + k.vec * Desc.vstride d * 8
  let sh : Int := max (-31) (min 63 (Desc.shift d + k.align))
  let shifted (v : Int) : Int := if 0 < sh then roundShift v sh.toNat 0 0 else v * (2 ^ (-sh).toNat : Nat)
  let code (v : Int) : Int := max (-128) (min 127 (shifted v))
  let clamped := outs.any fun o => decide (code o.val ≠ shifted o.val)
  f < 96 → c < 8 → (s.core f c).drains = k :: ks → (∀ e < 8, e ≠ c → ∀ q, (s.core f e).drains.head? = some q → k.arrival < q.arrival) →
  k.rows ≤ 1 → k.last = true → (s.core f c).window = [wp] → wp.serial = k.serial → wp.waits = false →
  (Desc.kind d = 2 → Sparse.get [] wp.tile k.vec = []) → s.planField wp.plan f = some pf → Desc.dest d = 2 → Fmt.ofWord (Desc.fmtO d) = ⟨4, 8, false, 0, 0⟩ → Desc.form d = 0 →
  Desc.layout d = false → Desc.ftab d = false → Desc.idxMode d = 0 → Desc.settle d ≠ 2 → Desc.escFatal d = false →
  outs.length ≤ 64 * Desc.limit d → (∀ o ∈ outs, o.masked = false ∧ o.poison = false ∧ o.sat = false) →
  Goes (.drainPathTake f c) s fun t => t.bus = s.bus ∧ t.jobs = s.jobs ∧ (t.core f c).drains = ks ∧
    (∀ n o, outs[n]? = some o → (fld (t.mem.get (a + n / 8)).data (8 * (n % 8)) 8 : Int) = code o.val % 256) ∧
    (∀ x, x < a ∨ a + 8 * ((outs.length + 63) / 64) ≤ x → t.mem.get x = s.mem.get x) ∧
    ∃ x, (t.core f c).window = [x] ∧ Sparse.get [] x.tile k.vec = [] ∧ x.fault = wp.fault ∧ x.status = wp.status ||| (if clamped then 2 else 0)

/-- R97, R104 to R116, R162: the drain path. -/
def Obligations.DrainsReachTheirPlace : Prop := Claims.DrainPathAdvances ∧ Claims.DrainFormsVector

/-! ### Edge units (R210 to R225) and lanterns (R384 to R392) -/

namespace Sys2Proof.Claims

/-- A program word of the running pass of an edge unit at run: it keeps every rule of R218, and vectors have K elements. -/
def EdgeRuns (s : State) (f : Nat) (w : Word) (k : Nat) : Prop :=
  f < 96 ∧ k ≤ 4096 ∧ (s.edge f).level = .run ∧ ∃ c wp pf, s.posted f = some (c, wp, pf) ∧ Desc.k wp.desc = k ∧
    edgeWordOk k (Desc.edNscr wp.desc) w = true

/-- The FP32 code of an element of an edge register. -/
def code (s : State) (f r i : Nat) : Nat := ((s.edge f).elt r i).bits.toNat

/-- Operand b of element `i`: an element of register b, one element of it broadcast, or the constant (Table 9-2). -/
def codeB (s : State) (f : Nat) (w : Word) (i : Nat) : Nat :=
  if ediBsrc w = 0 then code s f (ediB w) i else if ediBsrc w = 1 then code s f (ediB w) (ediImm w) else ediImm w

/-- The frame of an element-wise word: elements 0 to K - 1 of register d take the results; no other element, no memory, BU or core
changes. -/
def EdgeMapped (s t : State) (f : Nat) (w : Word) (k : Nat) (r : Nat → Nat → Prop) : Prop :=
  t.mem = s.mem ∧ t.bus = s.bus ∧ t.cores = s.cores ∧ (∀ g, g ≠ f → t.edge g = s.edge g) ∧
  (∀ q i, i < 4096 → (q ≠ ediD w ∨ k ≤ i) → (t.edge f).elt q i = (s.edge f).elt q i) ∧ ∀ i < k, r i (code t f (ediD w) i)

/-- NaN, and finite, FP32 codes. -/
def isNan (c : Nat) : Prop := 0x7F800000 < c % 2 ^ 31
def finite (c : Nat) : Prop := c % 2 ^ 31 < 0x7F800000

/-- A finite FP32 code's value in units of 2^-149. -/
def units (c : Nat) : Int :=
  (if c.testBit 31 then -1 else 1) *
    (if c % 2 ^ 31 < 2 ^ 23 then (c % 2 ^ 23 : Nat) else ((c % 2 ^ 23 + 2 ^ 23) * 2 ^ (c % 2 ^ 31 / 2 ^ 23 - 1) : Nat) : Int)

/-- `r` is an exact value rounded once to FP32, to nearest, ties to even, overflow to an infinity. `le m` says that m/2 units are at
most the exact value, `ge m` that they are at least it. -/
def Rounded (r : Nat) (le ge : Int → Prop) : Prop :=
  let big : Int := (2 ^ 25 - 1) * 2 ^ 253
  (le big → r = 0x7F800000) ∧ (ge (-big) → r = 0xFF800000) ∧
  (¬le big → ¬ge (-big) → finite r ∧ ∀ c < 2 ^ 32, finite c →
    (units c < units r → le (units c + units r)) ∧ (units r < units c → ge (units c + units r)) ∧
    (units c ≠ units r → le (units c + units r) → ge (units c + units r) → r % 2 = 0))

/-- The order of R216: of codes that are no NaN, -0 below +0. -/
def fpLe (a b : Nat) : Prop :=
  if a.testBit 31 then (if b.testBit 31 then b % 2 ^ 31 ≤ a % 2 ^ 31 else True) else (if b.testBit 31 then False else a % 2 ^ 31 ≤ b % 2 ^ 31)

/-- The word at a rank of R219: pairs of the rank below, an unpaired last one passed upward; `n` how many stand at rank 0. -/
def rank (node : Nat → Nat → Nat) (x : Nat → Nat) (n : Nat) : Nat → Nat → Nat
  | 0, j => x j
  | l + 1, j => if (2 * j + 1) * 2 ^ l < n then node (rank node x n l (2 * j)) (rank node x n l (2 * j + 1)) else rank node x n l (2 * j)

end Sys2Proof.Claims

/-- R215, R216, Table 9-3: COPY, NEG, ABS, MAX and MIN on operands rounded to the word's type. -/
def Obligations.EdgeSelects : Prop := ∀ (s : State) (f k : Nat) (w : Word), EdgeRuns s f w k →
  let A (i : Nat) := typeRound (ediType w) (code s f (ediA w) i)
  let B (i : Nat) := typeRound (ediType w) (codeB s f w i)
  let one (g : Nat → Nat) (t : State) := EdgeMapped s t f w k fun i r => (isNan (A i) → r = 0x7FC00000) ∧ (¬isNan (A i) → r = g (A i))
  let two (pick : Nat → Nat → Prop) (t : State) := EdgeMapped s t f w k fun i r =>
    (isNan (A i) ∨ isNan (B i) → r = 0x7FC00000) ∧
    (¬isNan (A i) → ¬isNan (B i) → (pick (A i) (B i) → r = A i) ∧ (pick (B i) (A i) → r = B i))
  (ediOp w = 0x09 → Goes (.edgeCopy f w) s (one fun a => a)) ∧
  (ediOp w = 0x08 → Goes (.edgeNeg f w) s (one fun a => a ^^^ 2 ^ 31)) ∧
  (ediOp w = 0x07 → Goes (.edgeAbs f w) s (one fun a => a % 2 ^ 31)) ∧
  (ediOp w = 0x05 → Goes (.edgeMax f w) s (two fun a b => fpLe b a)) ∧
  (ediOp w = 0x06 → Goes (.edgeMin f w) s (two fun a b => fpLe a b))

/-- R215: ADD, SUB, MUL and FMA of finite operands return the exact result rounded once to the nearest FP32 value, ties to even; FMA does
not round its addend to the type. -/
def Sys2Proof.Claims.EdgeSumsRoundOnce : Prop := ∀ (s : State) (f k : Nat) (w : Word), EdgeRuns s f w k →
  let A (i : Nat) := typeRound (ediType w) (code s f (ediA w) i)
  let B (i : Nat) := typeRound (ediType w) (codeB s f w i)
  let D (i : Nat) := code s f (ediD w) i
  let rounds (num : Nat → Int) (den : Nat) (t : State) := EdgeMapped s t f w k fun i r => finite (A i) → finite (B i) →
    Rounded r (fun m => m * den ≤ 2 * num i) (fun m => 2 * num i ≤ m * den)
  (ediOp w = 0x01 → Goes (.edgeAdd f w) s (rounds (fun i => units (A i) + units (B i)) 1)) ∧
  (ediOp w = 0x02 → Goes (.edgeSub f w) s (rounds (fun i => units (A i) - units (B i)) 1)) ∧
  (ediOp w = 0x03 → Goes (.edgeMul f w) s (rounds (fun i => units (A i) * units (B i)) (2 ^ 149))) ∧
  (ediOp w = 0x04 → (∀ i < k, finite (D i)) →
    Goes (.edgeFma f w) s (rounds (fun i => units (A i) * units (B i) + units (D i) * 2 ^ 149) (2 ^ 149)))

/-- R215: DIV, RECIP, SQRT and RSQRT of finite operands for which a result exists return it rounded once, to nearest even. -/
def Sys2Proof.Claims.EdgeQuotientsRoundOnce : Prop := ∀ (s : State) (f k : Nat) (w : Word), EdgeRuns s f w k →
  let A (i : Nat) := typeRound (ediType w) (code s f (ediA w) i)
  let B (i : Nat) := typeRound (ediType w) (codeB s f w i)
  let a (i : Nat) : Int := units (A i)
  let nearest (x y : Int) (r : Nat) := Rounded r (fun m => m * y.natAbs ≤ 2 * 2 ^ 149 * x * y.sign) (fun m => 2 * 2 ^ 149 * x * y.sign ≤ m * y.natAbs)
  (ediOp w = 0x10 → Goes (.edgeDiv f w) s fun t => EdgeMapped s t f w k fun i r =>
    finite (A i) → finite (B i) → units (B i) ≠ 0 → nearest (a i) (units (B i)) r) ∧
  (ediOp w = 0x11 → Goes (.edgeRecip f w) s fun t => EdgeMapped s t f w k fun i r =>
    finite (A i) → a i ≠ 0 → nearest (2 ^ 149) (a i) r) ∧
  (ediOp w = 0x12 → Goes (.edgeSqrt f w) s fun t => EdgeMapped s t f w k fun i r => finite (A i) → 0 < a i →
    Rounded r (fun m => m < 0 ∨ m * m ≤ 4 * 2 ^ 149 * a i) (fun m => 0 ≤ m ∧ 4 * 2 ^ 149 * a i ≤ m * m)) ∧
  (ediOp w = 0x13 → Goes (.edgeRsqrt f w) s fun t => EdgeMapped s t f w k fun i r => finite (A i) → 0 < a i →
    Rounded r (fun m => m < 0 ∨ m * m * a i ≤ 4 * 2 ^ 447) (fun m => 0 ≤ m ∧ 4 * 2 ^ 447 ≤ m * m * a i))

/-- R215: edge arithmetic of finite operands. -/
def Obligations.EdgeArithmeticRoundsOnce : Prop := Claims.EdgeSumsRoundOnce ∧ Claims.EdgeQuotientsRoundOnce

/-- R216: NaN operands and invalid operations give the canonical quiet NaN; the transcendental operations at the points whose result the
spec or exact arithmetic fixes. -/
def Obligations.EdgeSpecialValues : Prop := ∀ (s : State) (f k : Nat) (w : Word), EdgeRuns s f w k →
  let A (i : Nat) := typeRound (ediType w) (code s f (ediA w) i)
  let B (i : Nat) := typeRound (ediType w) (codeB s f w i)
  let table (l : List (Nat × Nat)) (t : State) := EdgeMapped s t f w k fun i r =>
    (isNan (A i) → r = 0x7FC00000) ∧ ∀ p ∈ l, A i = p.1 → r = p.2
  (ediOp w = 0x14 → Goes (.edgeExp f w) s
    (table [(0, 0x3F800000), (0x80000000, 0x3F800000), (0x7F800000, 0x7F800000), (0xFF800000, 0)])) ∧
  (ediOp w = 0x15 → Goes (.edgeLog f w) s fun t => table [(0x3F800000, 0), (0x7F800000, 0x7F800000)] t ∧
    ∀ i < k, (A i).testBit 31 = true → A i ≠ 0x80000000 → code t f (ediD w) i = 0x7FC00000) ∧
  (ediOp w = 0x16 → Goes (.edgeTanh f w) s (table [(0, 0), (0x7F800000, 0x3F800000), (0xFF800000, 0xBF800000)])) ∧
  (ediOp w = 0x17 → Goes (.edgeSigm f w) s
    (table [(0, 0x3F000000), (0x80000000, 0x3F000000), (0x7F800000, 0x3F800000), (0xFF800000, 0)])) ∧
  (ediOp w = 0x12 → Goes (.edgeSqrt f w) s fun t => table [(0, 0), (0x7F800000, 0x7F800000)] t ∧
    ∀ i < k, (A i).testBit 31 = true → A i ≠ 0x80000000 → code t f (ediD w) i = 0x7FC00000) ∧
  (ediOp w = 0x03 → Goes (.edgeMul f w) s fun t => EdgeMapped s t f w k fun i r =>
    (isNan (A i) ∨ isNan (B i) ∨ A i % 2 ^ 31 = 0 ∧ B i % 2 ^ 31 = 0x7F800000 ∨ A i % 2 ^ 31 = 0x7F800000 ∧ B i % 2 ^ 31 = 0 →
      r = 0x7FC00000)) ∧
  (ediOp w = 0x01 → Goes (.edgeAdd f w) s fun t => EdgeMapped s t f w k fun i r =>
    (isNan (A i) ∨ isNan (B i) ∨ A i % 2 ^ 31 = 0x7F800000 ∧ B i = A i ^^^ 2 ^ 31 → r = 0x7FC00000))

/-- R219: RMAX and RMIN find the greatest and least element; RSUM adds in ranks of pairs, each node rounded. Only element 0 of register d
changes. -/
def Obligations.EdgeReductions : Prop := ∀ (s : State) (f k : Nat) (w : Word), EdgeRuns s f w k → 0 < k →
  let A (i : Nat) := typeRound (ediType w) (code s f (ediA w) i)
  let best (le : Nat → Nat → Prop) (t : State) := EdgeMapped s t f w 1 fun _ r =>
    ((∃ i < k, isNan (A i)) → 1 < k → r = 0x7FC00000) ∧ ((∀ i < k, ¬isNan (A i)) → (∃ i < k, r = A i) ∧ ∀ i < k, le (A i) r)
  (ediOp w = 0x21 → Goes (.edgeRmax f w) s (best fpLe)) ∧
  (ediOp w = 0x22 → Goes (.edgeRmin f w) s (best fun a r => fpLe r a)) ∧
  (ediOp w = 0x20 → ∃ node : Nat → Nat → Nat,
    (∀ a b, a < 2 ^ 32 → b < 2 ^ 32 → finite a → finite b →
      Rounded (node a b) (fun m => m ≤ 2 * (units a + units b)) (fun m => 2 * (units a + units b) ≤ m)) ∧
    Goes (.edgeRsum f w) s fun t => EdgeMapped s t f w 1 fun _ r => r = rank node A k 12 0)

/-- R211, R217: LD widens the containers of a scratch slot exactly, and an element takes the poison of the word that held it. -/
def Sys2Proof.Claims.EdgeLoads : Prop := ∀ (s : State) (f k c : Nat) (w : Word) (wp : WinPass) (pf : PlanField), f < 96 → k ≤ 4096 →
  (s.edge f).level = .run → s.posted f = some (c, wp, pf) → Desc.k wp.desc = k → edgeWordOk k (Desc.edNscr wp.desc) w = true →
  let a := commonsAddr f + (pf.comBase + Desc.edScr wp.desc + ediImm w * 0x4000) / 8
  let cb := if ediType w = 0 then 32 else 16
  let held (i : Nat) := fld (s.mem.get (a + i / (64 / cb))).data (cb * (i % (64 / cb))) cb
  ediOp w = 0x30 → (∀ i < (k * cb + 63) / 64, (s.mem.get (a + i)).data = (s.mem.get (a + i)).good) →
  Goes (.edgeLd f w) s fun t =>
    EdgeMapped s t f w k (fun i r => r = if ediType w = 0 then held i else if ediType w = 1 then held i * 65536 else fp16.widen (held i)) ∧
    ∀ i < k, ((t.edge f).elt (ediD w) i).poison = (s.mem.get (a + i / (64 / cb))).poison

/-- R211, R217: ST writes a register to a scratch slot, rounded to the container; a word takes the poison of every element that stands in
it, and every byte outside the elements keeps its contents. -/
def Sys2Proof.Claims.EdgeStores : Prop := ∀ (s : State) (f k c : Nat) (w : Word) (wp : WinPass) (pf : PlanField), f < 96 → k ≤ 4096 →
  (s.edge f).level = .run → s.posted f = some (c, wp, pf) → Desc.k wp.desc = k → edgeWordOk k (Desc.edNscr wp.desc) w = true →
  let a := commonsAddr f + (pf.comBase + Desc.edScr wp.desc + ediImm w * 0x4000) / 8
  let cb := if ediType w = 0 then 32 else 16
  let n := (k * cb + 63) / 64
  let last := s.mem.get (a + k * cb / 64)
  ediOp w = 0x31 → (k * cb % 64 ≠ 0 → last.data = last.good ∧ last.poison = false) →
  Goes (.edgeSt f w) s fun t => t.edges = s.edges ∧ t.bus = s.bus ∧ t.cores = s.cores ∧
    (∀ i < k, fld (t.mem.get (a + i / (64 / cb))).data (cb * (i % (64 / cb))) cb =
      if ediType w = 0 then code s f (ediA w) i else if ediType w = 1 then bf16.narrow (code s f (ediA w) i)
      else fp16.narrow (code s f (ediA w) i)) ∧
    (∀ j < n, (t.mem.get (a + j)).good = (t.mem.get (a + j)).data ∧ ((t.mem.get (a + j)).poison = true ↔
      ∃ i < k, i / (64 / cb) = j ∧ ((s.edge f).elt (ediA w) i).poison = true)) ∧
    (∀ i, k ≤ i → i < n * (64 / cb) → fld (t.mem.get (a + i / (64 / cb))).data (cb * (i % (64 / cb))) cb =
      fld (s.mem.get (a + i / (64 / cb))).data (cb * (i % (64 / cb))) cb) ∧
    ∀ x, x < a ∨ a + n ≤ x → t.mem.get x = s.mem.get x

/-- R213, R222: the run of a posting takes the first from the edge unit's queue and ends its pass's work, whatever its program; beside the
pass's output and its scratch slots no word that holds no error changes, no other field's edge unit and no job, and no BU unless it reads
its vectors from bank rows. A posting to an edge unit that is not at run waits. -/
def Sys2Proof.Claims.EdgePostingRuns : Prop := ∀ (s : State) (f c : Nat) (wp : WinPass) (pf : PlanField), f < 96 →
  s.posted f = some (c, wp, pf) → Desc.k wp.desc ≤ 4096 →
  let d := wp.desc
  let cb := containerBits (Fmt.ofWord (Desc.fmtO d)).bits
  let o (vec : Nat) := commonsAddr f + (pf.comBase + Desc.edOut d + vec * Desc.edOstride d) / 8
  let x (slot : Nat) := commonsAddr f + (pf.comBase + Desc.edScr d + slot * 0x4000) / 8
  ((s.edge f).level = .run → Goes (.edgePostingRun f) s fun t => (t.edge f).postings = (s.edge f).postings.drop 1 ∧
    (∃ y, (t.core f c).pass wp.serial = some y ∧ y.done = true ∧ y.desc = d ∧ y.job = wp.job) ∧
    (∀ g, g ≠ f → t.edge g = s.edge g) ∧ (Desc.xsrc d = false → t.bus = s.bus) ∧ t.jobs = s.jobs ∧
    ∀ a, (s.mem.get a).data = (s.mem.get a).good →
      (∀ vec < Desc.n d, a < o vec ∨ o vec + (Desc.k d * cb + 63) / 64 ≤ a) → (∀ slot < Desc.edNscr d, a < x slot ∨ x slot + 0x800 ≤ a) →
      t.mem.get a = s.mem.get a) ∧
  ((s.edge f).level ≠ .run → Goes (.edgePostingRun f) s fun t => t.edges = s.edges ∧ t.cores = s.cores ∧ t.mem = s.mem)

/-- R213, R214, R220, R221: what runs: with a program of one COPY of V0 to V1, FP32 in and out, the output vector is the input vector and
the pass has no fault; a first word that breaks a rule of R218 ends the program before any output, and faults the pass. -/
def Sys2Proof.Claims.EdgePostingWords : Prop := ∀ (s : State) (f c : Nat) (wp : WinPass) (pf : PlanField) (v : Word), f < 96 → c < 8 →
  let d := wp.desc
  let w : Word := 0x0901000000000000
  let i0 := commonsAddr f + (pf.comBase + Desc.xbase d) / 8
  let o0 := commonsAddr f + (pf.comBase + Desc.edOut d) / 8
  let p0 := s.mem.get (commonsAddr f + (pf.comBase + Desc.edProg d) / 8)
  (s.edge f).level = .run → (s.edge f).postings = [(c, wp.serial)] → (s.core f c).window = [wp] → s.planField wp.plan f = some pf →
  Desc.n d = 1 → 0 < Desc.k d → Desc.k d ≤ 4096 → Desc.k d % 2 = 0 → Desc.edLen d = 1 → Desc.edPro d = 0 →
  Fmt.ofWord (Desc.fmtX d) = ⟨10, 0, false, 0, 0⟩ → Fmt.ofWord (Desc.fmtO d) = ⟨10, 0, false, 0, 0⟩ → Desc.xsrc d = false →
  Desc.xlay d = false →
  (∀ i < Desc.k d / 2, (s.mem.get (i0 + i)).data = (s.mem.get (i0 + i)).good ∧ (s.mem.get (i0 + i)).poison = false ∧
    ∀ h < 2, ¬isNan (fld (s.mem.get (i0 + i)).data (32 * h) 32)) →
  (p0 = { data := w, good := w } → Goes (.edgePostingRun f) s fun t => (t.edge f).postings = [] ∧
    (∃ x, (t.core f c).window = [x] ∧ x.serial = wp.serial ∧ x.done = true ∧ x.fault = wp.fault ∧ x.status = wp.status) ∧
    (∀ i < Desc.k d / 2, t.mem.get (o0 + i) = s.mem.get (i0 + i)) ∧
    (∀ a, a < o0 ∨ o0 + Desc.k d / 2 ≤ a → t.mem.get a = s.mem.get a) ∧ t.bus = s.bus ∧ t.jobs = s.jobs) ∧
  (p0 = { data := v, good := v } → edgeWordOk (Desc.k d) (Desc.edNscr d) v = false → wp.fault = none →
    Goes (.edgePostingRun f) s fun t => (t.edge f).postings = [] ∧ t.mem = s.mem ∧
      ∃ x e, (t.core f c).window = [x] ∧ x.serial = wp.serial ∧ x.fault = some e ∧ e.code = 0x0201)

/-- R211, R213, R214, R217, R220, R221, R222: edge registers and memory, and the run of a posting. -/
def Obligations.EdgeMemoryActs : Prop := Claims.EdgeLoads ∧ Claims.EdgeStores ∧ Claims.EdgePostingRuns ∧ Claims.EdgePostingWords

/-- R386, R387, R388: a head's request is granted from its field allowance, from its row pool rounded up to 8, or from the wafer pool
rounded up to 64, or to 8 where the row has no pool (log entry 51); else it joins the wafer queue and every free local lantern returns. -/
def Sys2Proof.Claims.LanternRequestAnswered : Prop := ∀ (s : State) (f c : Nat) (wp : WinPass) (n : Nat),
  let fl := s.field f
  let row := (s.physOf f).1
  let short := (n - (fl.lent - fl.heldL) + 7) / 8 * 8
  let pooled := ∃ g < 96, (s.field g).health = .healthy ∧ (s.physOf g).1 = row
  let more := (short - s.rowPool row + 63) / 64 * 64
  let granted (t : State) := ∃ x, (t.core f c).window = [x] ∧ x.serial = wp.serial ∧ x.lantern = .granted ∧ x.lent = n
  f < 96 → c < 8 → (s.core f c).window = [wp] → wp.lantern = .asked → wp.skipped = false → s.lanterns.queue = [] →
  s.isTick wp.job = false → Desc.lantern wp.desc = n + 2 → 0 < n → s.poolUsed ≤ s.effPool →
  Goes (.lanternGrant f c 0) s fun t => t.bus = s.bus ∧ t.mem = s.mem ∧
    (n ≤ fl.lent - fl.heldL → granted t ∧ t.field f = { fl with heldL := fl.heldL + n } ∧ t.lanterns = s.lanterns) ∧
    (fl.lent - fl.heldL < n → pooled → short ≤ s.rowPool row → granted t ∧
      t.field f = { fl with heldL := fl.heldL + n, lent := fl.lent + short } ∧ t.rowPool row = s.rowPool row - short) ∧
    (fl.lent - fl.heldL < n → pooled → s.rowPool row < short → more ≤ s.freePool → granted t ∧
      t.field f = { fl with heldL := fl.heldL + n, lent := fl.lent + short } ∧ t.rowPool row = s.rowPool row + more - short) ∧
    (fl.lent - fl.heldL < n → ¬pooled → short ≤ s.freePool → granted t ∧
      t.field f = { fl with heldL := fl.heldL + n, lent := fl.lent + short } ∧ t.rowPool row = s.rowPool row) ∧
    (fl.lent - fl.heldL < n → (pooled → s.rowPool row < short ∧ s.freePool < more) → (¬pooled → s.freePool < short) →
      (∃ x, (t.core f c).window = [x] ∧ x.lantern = .wafer) ∧ (t.field f).lent = (t.field f).heldL ∧ (∀ r, t.rowPool r = 0) ∧
      t.lanterns.queue = [{ time := wp.asked, field := f, core := c, serial := some wp.serial, amount := n }])

/-- R390, R391: a head whose wait ends without its grant ends its job with LANTERN_DENIED; what has been unheld returns a level up, while no
request waits in the wafer queue. -/
def Sys2Proof.Claims.LanternTimersAct : Prop := ∀ (s : State) (f c r : Nat) (wp : WinPass) (j : Job),
  (f < 96 → c < 8 → (s.core f c).window = [wp] → wp.lantern = .asked → wp.skipped = false → wp.fault = none → s.job wp.job = some j →
    j.paused = false → j.isEnded = false → Goes (.lanternGrantTimeout f c 0) s fun t =>
      (∃ x, t.job wp.job = some x ∧ x.st = .ended 0x0301 ∧ x.failField = some f ∧ x.failPass = wp.idx) ∧
      ∀ q, t.log.recs.getLast? = some q → fld q.1 32 16 = 0x0301) ∧
  (f < 96 → Goes (.lanternLoanReturn (.field f)) s fun t =>
    (s.lanterns.queue ≠ [] → t = s) ∧ (s.lanterns.queue = [] →
      t.field f = { s.field f with lent := (s.field f).heldL } ∧ (∀ g, g ≠ f → t.field g = s.field g) ∧
      t.rowPool (s.physOf f).1 = (if ∃ g < 96, (s.field g).health = .healthy ∧ (s.physOf g).1 = (s.physOf f).1 then
        s.rowPool (s.physOf f).1 + ((s.field f).lent - (s.field f).heldL) else s.rowPool (s.physOf f).1) ∧
      ∀ q, q ≠ (s.physOf f).1 → t.rowPool q = s.rowPool q)) ∧
  (r < 12 → Goes (.lanternLoanReturn (.row r)) s fun t => (s.lanterns.queue ≠ [] → t = s) ∧ (s.lanterns.queue = [] →
    t.rowPool r = 0 ∧ t.fields = s.fields ∧ ∀ q, q ≠ r → t.rowPool q = s.rowPool q))

/-- R384 to R392: lantern requests. -/
def Obligations.LanternsAreLent : Prop := Claims.LanternRequestAnswered ∧ Claims.LanternTimersAct

/-! ### Messages (R282 to R326) -/

namespace Sys2Proof.Claims

/-- A message whose completion its source can take: a created queue pair on a port in D0, or management. Beside it no message of its
identity and no QUEUE_DELETE is fetched. -/
def Answerable (s : State) (m : Msg) (op : Nat) : Prop :=
  m ∈ s.msgs ∧ sqOp m.entry = op ∧ m.id.src ≤ 1024 ∧ m.slots = (if op = 0x0603 then 2 else if op = 0x0805 then 4 else 1) ∧
  (∀ o ∈ s.msgs, o = m ∨ o.id ≠ m.id ∧ sqOp o.entry ≠ 0x0102) ∧
  (m.id.src < 1024 →
    (s.queue m.id.src).st ≠ .uncreated ∧ (s.queue m.id.src).w < 65536 ∧ (s.port (s.ownerOf m.id.src)).d3 = false)

/-- A message that the Milliner applies next: the unit is up, nothing waits to be fetched, and every other fetched message has been
applied (R291, R292). -/
def Next (s : State) (m : Msg) (op : Nat) : Prop :=
  Answerable s m op ∧ m.applied = false ∧ s.vigil.phase = .up ∧ s.vigil.bootRom = false ∧ s.smb.waiting = [] ∧
  (∀ q, (s.queue q).h = (s.queue q).t) ∧
  ∀ o ∈ s.msgs, o = m ∨ o.applied = true ∧ (sqFence m.entry = false ∨ o.id.src ≠ m.id.src)

/-- It comes through a control channel; through a host queue. -/
def Control (m : Msg) : Prop := m.id.src = 1024 ∨ m.id.src < 4
def Host_ (m : Msg) : Prop := m.id.src < 1024

/-- A completion entry (Table 12-6), as a number: tag, status, MORE, queue and 16 result bytes. -/
def CqIs (e : Nat) (m : Msg) (status : Nat) (more : Bool) (res : List Byte) : Prop :=
  e % 2 ^ 32 = sqTag m.entry ∧ e / 2 ^ 32 % 2 ^ 16 = status ∧ e / 2 ^ 49 % 2 = more.toNat ∧ e / 2 ^ 80 % 2 ^ 16 = m.id.src ∧
  ∀ i < 16, e / 2 ^ (128 + 8 * i) % 256 = (res.getD i 0).toNat

/-- A message completes on `u`, which is `s` with the message's own effect: its entries are written, into the next slots of its CQ or for
management, and beside them, what its queue counts and events nothing changes. -/
def Done (s u t : State) (m : Msg) (status : Nat) (res : List Byte) : Prop :=
  let q := m.id.src
  let p := u.ownerOf q
  t = { u with
    out := t.out, ports := t.ports, vigil := { u.vigil with wasReady := t.vigil.wasReady }, queues := t.queues,
    msgs := s.msgs.filter (·.id ≠ m.id), counters := t.counters,
    smb := { u.smb with completions := t.smb.completions, reserved := t.smb.reserved } } ∧
  (∀ k, k ≠ q → t.queue k = u.queue k) ∧ (∀ b i, i < 64 → b ≠ queueBlock q → t.counter b i = u.counter b i) ∧ (∀ o ∈ u.out, o ∈ t.out) ∧
  (∀ k, t.port k = { u.port k with
    eventCause := (t.port k).eventCause, msixPending := (t.port k).msixPending, held := (t.port k).held }) ∧
  (q = 1024 → ∃ es, t.smb.completions = u.smb.completions ++ [es] ∧ es.length = m.slots ∧
    ∀ k < m.slots, CqIs (es.getD k 0).toNat m status (decide (k + 1 < m.slots)) (res.drop (16 * k))) ∧
  (q < 1024 → t.smb = u.smb ∧ (t.queue q).w = ((u.queue q).w + m.slots) % 65536 ∧ ∀ k < m.slots, ∃ bs, bs.length = 32 ∧
    CqIs (leNat bs) m status (decide (k + 1 < m.slots)) (res.drop (16 * k)) ∧
    Out.dma p ((u.queue q).cqBase + 32 * (((u.queue q).w + k) % 65536 % 2 ^ (u.queue q).cqLog2)) bs false false ∈ t.out)

/-- `u`, but for what events change: vectors and causes at the ports, and the note that the unit was READY. -/
def Evented (u t : State) : Prop :=
  t = { u with out := t.out, ports := t.ports, vigil := { u.vigil with wasReady := t.vigil.wasReady } } ∧ (∀ o ∈ u.out, o ∈ t.out) ∧
  ∀ k, t.port k = { u.port k with
    eventCause := (t.port k).eventCause, msixPending := (t.port k).msixPending, held := (t.port k).held }

/-- The unit record with the write in progress ended (R405). -/
def Written (s t : State) : Prop := t.record = match s.record.writing with | some w => { persisted := w.2 } | none => s.record

/-- The payload of a host's message arrives whole, with its CRC where that is checked (R284). -/
def Paid (m : Msg) (rd : DmaRead) (bs : List Byte) : Prop :=
  Host_ m ∧ rd = .ok bs ∧ bs ≠ [] ∧ bs.length = (descAt m.entry 16).len ∧
  (sqNocrc m.entry = true ∨ (crc32c bs).toNat = (descAt m.entry 16).crc)

/-- A result buffer of a host's message has room; `s` with the buffer written (R304, R331). -/
def Roomy (m : Msg) (n : Nat) : Prop := Host_ m ∧ n ≤ (descAt m.entry 16).len
def filled (s : State) (m : Msg) (bs : List Byte) : State :=
  { s with out := s.out ++ [.dma (s.ownerOf m.id.src) (descAt m.entry 16).addr bs false true] }

/-- `n` bytes from byte `i` as a number. -/
def num (bs : List Byte) (i n : Nat) : Nat := leNat ((bs.drop i).take n)

/-- A handle (Table 12-5), as result bytes. -/
def handleBytes (kind owner index gen : Nat) : List Byte := leBytes 8 (mkHandle kind owner index gen).toNat

end Sys2Proof.Claims

/-- R301, R305, Table 13-3, 13-11, 13-13: the messages that only answer: DEVICE_NOP echoes bytes 16 to 31; the others name the unit's
state. -/
def Obligations.QueryMessagesAnswer : Prop := ∀ (s : State) (m : Msg), sqHandle m.entry = 0 →
  let mask (p : Slot → Bool) (n : Nat) : Prop := ∀ i < 16, n.testBit i = p (s.slot i)
  (Next s m 0x0001 → Goes (.deviceNop m.id) s fun t => Done s s t m 0 ((List.range 16).map fun i => BitVec.ofNat 8 (eByte m.entry (16 + i)))) ∧
  (Next s m 0x0002 → Goes (.deviceInfo m.id) s fun t => ∃ res, Done s s t m 0 res ∧ num res 0 1 = s.stateCode ∧ num res 1 1 = s.flags ∧
    num res 2 1 = ((List.range 96).filter fun f => (s.field f).health = .healthy).length ∧
    num res 3 1 = s.vigil.spares.length % 256 ∧ mask (·.present) (num res 4 2) ∧ mask (·.fenced) (num res 6 2) ∧
    num res 8 1 = s.vigil.mset.toNat ∧ num res 9 1 = s.vigil.fckStep % 256 ∧ num res 10 2 = s.plans.length % 65536) ∧
  (Next s m 0x0703 → Goes (.powerQuery m.id) s fun t => ∃ res, Done s s t m 0 res ∧ num res 0 2 = s.effPool % 65536 ∧
    num res 4 1 = s.vigil.fckStep % 256) ∧
  (Next s m 0x0901 → Goes (.bulkQuery m.id) s fun t => ∃ res, Done s s t m 0 res ∧ mask (·.present) (num res 0 2) ∧
    mask (·.fenced) (num res 2 2) ∧ mask (fun x => decide (x.st = .active)) (num res 4 2)) ∧
  (Next s m 0x0B02 → Goes (.faultInfo m.id) s fun t => Done s s t m 0 (leBytes 4 s.log.oldest ++ leBytes 4 (s.log.next % 2 ^ 32) ++
    leBytes 2 (s.counter unitBlock 6).val))

/-- R279, R280, R299, R302, Table 13-4: queue administration through an admin queue. -/
def Obligations.QueueMessagesAct : Prop := ∀ (s : State) (m : Msg), m.id.src < 4 →
  let e := m.entry
  let q := eNum e 16 2
  let size (n : Nat) : Prop := 4 ≤ n ∧ n ≤ 16
  (Next s m 0x0101 → sqHandle e = 0 → 4 ≤ q → q < 1024 → s.ownerOf q = m.id.src → (s.queue q).st = .uncreated → size (eByte e 18) →
    size (eByte e 19) → 1 ≤ eNum e 20 2 → eNum e 20 2 ≤ 256 → eNum e 24 8 % 4096 = 0 → eNum e 32 8 % 4096 = 0 →
    Goes (.queueCreate m.id) s fun t => ∃ x : Queue, Done s (s.setQueue q x) t m 0 (handleBytes 1 m.id.src q (s.queue q).gen) ∧
      t.queue q = x ∧ x = {
        st := .active, gen := (s.queue q).gen, sqBase := eNum e 24 8, cqBase := eNum e 32 8, sqLog2 := eByte e 18,
        cqLog2 := eByte e 19, m := eNum e 20 2, tau := eNum e 22 2 }) ∧
  (∀ k, Next s m 0x0102 → s.queueOf (sqHandle e) = some k → 4 ≤ k → s.ownerOf k = m.id.src → (∀ o ∈ s.msgs, o.id.src ≠ k) →
    Goes (.queueDelete m.id) s fun t => Done s (s.uncreate k) t m 0 [] ∧ t.queue k = { gen := ((s.queue k).gen + 1) % 65536 } ∧
      ∀ i p, s.plan i = some p → t.plan i = some { p with owner := if p.owner = k then m.id.src else p.owner }) ∧
  (Next s m 0x0103 → sqHandle e = 0 → 4 ≤ q → q < 1024 → eByte e 18 ≤ 3 → s.ownerOf q = m.id.src → (s.queue q).st = .uncreated →
    Goes (.queueAssign m.id) s fun t => Done s { s with owner := t.owner } t m 0 [] ∧ t.ownerOf q = eByte e 18 ∧
      ∀ k, k ≠ q → t.ownerOf k = s.ownerOf k) ∧
  (∀ k, Next s m 0x0104 → s.queueOf (sqHandle e) = some k → 4 ≤ k → s.ownerOf k = m.id.src → 1 ≤ q → q ≤ 256 →
    Goes (.queueModerate m.id) s fun t => Done s (s.setQueue k { s.queue k with m := q, tau := eNum e 18 2 }) t m 0 []) ∧
  (Next s m 0x0105 → sqHandle e = 0 → q < 1024 → Goes (.queueQuery m.id) s fun t => ∃ res, Done s s t m 0 res ∧
    num res 0 1 = (match (s.queue q).st with | .uncreated => 0 | .active => 1 | .halted => 2) ∧ num res 1 1 = s.ownerOf q % 256 ∧
    num res 2 2 = (s.queue q).h % 65536 ∧ num res 4 2 = (s.queue q).t % 65536 ∧ num res 6 2 = (s.queue q).w % 65536 ∧
    num res 8 2 = (s.queue q).r % 65536)

/-- R293: a request for a shared limit is recorded for its source and the effective value is the most restrictive; OK where it equals the
request, else SUPERSEDED with the effective value. With no stream armed, a lowered pool takes back every loan that no grant holds (R392). -/
def Obligations.SharedLimitsSet : Prop := ∀ (s : State) (m : Msg), sqHandle m.entry = 0 → Control m →
  let i := if m.id.src = 1024 then 0 else s.ownerOf m.id.src + 1
  let n := eNum m.entry 16 2
  let k := eByte m.entry 16
  (Next s m 0x0701 → s.streams = [] → 2000 ≤ n → n ≤ 20000 → Sparse.sorted s.fields = true → Goes (.poolSet m.id) s fun t =>
    Done s { s with requests := t.requests, cores := t.cores, fields := t.fields, lanterns := t.lanterns } t m
      (if t.effPool = n then 0 else 0x0102) (leBytes 2 t.effPool) ∧
    (∀ j, t.request j = if j = i then { s.request i with pool := some n } else s.request j) ∧
    (∀ p ∈ t.requests, ∀ v, p.2.pool = some v → t.effPool ≤ v) ∧
    (t.effPool < s.effPool → ∀ f, t.field f = { s.field f with lent := (s.field f).heldL })) ∧
  (Next s m 0x0702 → k ≤ 4 → Goes (.fckCeilingSet m.id) s fun t =>
    Done s { s with requests := t.requests } t m (if t.effFck = k then 0 else 0x0102) (leBytes 1 t.effFck) ∧
    (∀ j, t.request j = if j = i then { s.request i with fck := some k } else s.request j) ∧
    ∀ p ∈ t.requests, ∀ v, p.2.fck = some v → t.effFck ≤ v)

/-- R272, R304, R321 to R325, R425: engine reset, counters, telemetry, fault log and field map, each result into its buffer. -/
def Obligations.ReadOutMessagesAct : Prop := ∀ (s : State) (m : Msg), sqHandle m.entry = 0 → Control m →
  let e := m.entry
  let b := eNum e 32 4
  let n := eventCounters (b / 2 ^ 24) + errorCounters (b / 2 ^ 24)
  (Next s m 0x0902 → eByte e 16 < 16 → s.slotUp (eByte e 16) = true → (s.slot (eByte e 16)).holder = none →
    Goes (.bulkEngineReset m.id) s fun t =>
      Done s (s.setSlot (eByte e 16) { s.slot (eByte e 16) with engines := [], holder := none }) t m 0 []) ∧
  (Next s m 0x0A01 → blockExists b = true → Roomy m (16 + 8 * n) → Goes (.counterRead m.id) s fun t => ∃ bs, bs.length = 16 + 8 * n ∧
    Done s (Claims.filled s m bs) t m 0 (leBytes 4 bs.length) ∧ num bs 0 4 = b ∧ num bs 4 2 = n ∧ num bs 8 8 = s.vigil.vigilTime.toNat ∧
    ∀ i < n, let x := s.counter b i
      let err := decide (eventCounters (b / 2 ^ 24) ≤ i)
      num bs (16 + 8 * i) 8 = x.val % 2 ^ (if err then 16 else 48) + x.ovf.toNat * 2 ^ 62 + err.toNat * 2 ^ 63) ∧
  (Next s m 0x0A02 → (eNum e 16 4 = 0xFFFFFFFF ∨ blockExists (eNum e 16 4) = true) → Sparse.sorted s.counters = true →
    Goes (.counterClear m.id) s fun t => ∃ u, u = { s with counters := u.counters } ∧ Done s u t m 0 [] ∧ ∀ k i, i < 64 →
      u.counter k i = if eNum e 16 4 = 0xFFFFFFFF ∨ k = eNum e 16 4 then { last := (s.counter k i).last } else s.counter k i) ∧
  (Next s m 0x0A03 → Roomy m 800 → Goes (.telemetryRead m.id) s fun t => ∃ bs, bs.length = 800 ∧
    Done s (Claims.filled { s with freeCtr := t.freeCtr } m bs) t m 0 [] ∧ num bs 768 4 = s.sensors.busMv % 2 ^ 32 ∧
    num bs 772 4 = s.sensors.watts % 2 ^ 32 ∧ ∀ f < 96,
      ((s.field f).health = .lost → num bs (8 * f) 8 = 2 ^ 64 - 1) ∧
      ((s.field f).health ≠ .lost → (num bs (8 * f) 2 : Int) = (s.field f).temp % (2 ^ 16 : Nat) ∧
        ∀ c < 8, (num bs (8 * f + 4) 1).testBit c = decide ((s.core f c).level = .run))) ∧
  (∀ k, Next s m 0x0B01 → s.log.recs.length ≤ 4096 → k ≤ s.log.recs.length → b = (s.log.oldest + k) % 2 ^ 32 →
    0 < (descAt e 16).len → (descAt e 16).len % 64 = 0 → Host_ m → k < s.log.recs.length →
    Goes (.faultRead m.id) s fun t =>
      let rs := (s.log.recs.drop k).take ((descAt e 16).len / 64)
      let done := { s.log with
        recs := s.log.recs.take k ++ rs.map (fun r => (r.1, true)) ++ s.log.recs.drop (k + rs.length) }
      Done s (Claims.filled { s with log := done } m (rs.map fun r => leBytes 64 r.1.toNat).flatten) t m 0
        (leBytes 4 rs.length ++ leBytes 4 ((s.log.oldest + k + rs.length) % 2 ^ 32) ++ leBytes 4 s.log.oldest ++
          leBytes 2 (s.counter unitBlock 6).val)) ∧
  (Next s m 0x0D01 → Roomy m 224 → Goes (.fieldMap m.id) s fun t => ∃ bs, bs.length = 224 ∧
    Done s (Claims.filled s m bs) t m 0 [] ∧ ∀ f < 96, let q := if (s.field f).health = .lost then (0xFF, 0xFF) else s.physOf f
      num bs (2 * f) 1 = q.1 % 256 ∧ num bs (2 * f + 1) 1 = q.2 % 256)

/-- R308, R407, R408: staging validates the image and answers its handle; sealing begins the write of the unit record, and once that has
ended it replaces the sealed configuration and the persisted copy;
a refused image, or CONFIG_DISCARD, leaves none staged. -/
def Obligations.ConfigMessagesAct : Prop := ∀ (s : State) (m : Msg), Control m →
  (∀ rd bs, Next s m 0x0201 → sqHandle m.entry = 0 → Paid m rd bs → bs.length = 1024 → (∀ c, s.staged = some c → c.owner = m.id.src) →
    Goes (.configStage m.id rd) s fun t =>
      (cfgStatus s.active bs = 0 → ∃ c, c.owner = m.id.src ∧ c.image = bs ∧ (∀ a, s.active = some a → c.index ≠ a.index) ∧
        Done s { s with staged := some c, cfgGens := t.cfgGens, vigil := { s.vigil with cfgRefused := none } } t m 0
          (handleBytes 5 m.id.src c.index c.gen)) ∧
      (cfgStatus s.active bs ≠ 0 → Done s { s with
        staged := none
        vigil := { s.vigil with cfgRefused := if s.active.isNone then some (cfgStatus s.active bs) else s.vigil.cfgRefused } } t m
          (cfgStatus s.active bs) []) ∧
      ((crc32c (bs.take 1020)).toNat ≠ num bs 1020 4 → cfgStatus s.active bs = 0x0201)) ∧
  (∀ c, Next s m 0x0202 → s.staged = some c → cfgNamed (sqHandle m.entry) (some c) = true → c.owner = m.id.src →
    Goes (.configSeal m.id) s fun t =>
      (s.record.writing = none → s.jobRuns = false → s.streamArmed = false → Claims.Evented { s with
        record := { s.record with writing := some (m.id, if (cfgPolicy c.image).testBit 2 then some c.image else none) } } t) ∧
      (∀ b, s.record.writing = some (m.id, b) → Done s { s with
        staged := none, active := some c, record := { persisted := b, torn := none, writing := none }
        vigil := { s.vigil with cfgRefused := none, cfgTorn := none } } t m 0 []) ∧
      (s.record.writing = none → s.jobRuns = true ∨ s.streamArmed = true → Done s s t m 0x0207 [])) ∧
  (∀ c, Next s m 0x0203 → s.staged = some c → cfgNamed (sqHandle m.entry) (some c) = true → c.owner = m.id.src →
    Goes (.configDiscard m.id) s fun t => Done s { s with staged := none } t m 0 []) ∧
  (Next s m 0x0204 → sqHandle m.entry = 0 → Goes (.configQuery m.id) s fun t =>
    let h (c : Option Config) := match c with | some c => handleBytes 5 c.owner c.index c.gen | none => leBytes 8 0
    Done s s t m 0 (h s.active ++ h s.staged))

/-- R177, R178, R305, R309: PLAN_LOAD makes an unsealed plan of an image that passes every check, at the lowest free index, with its handle,
flags and segment count as the result. Before that it completes HELD without a sealed configuration, MALFORMED where step 1 of the checks
fails, IN_USE where a field of the plan is under test, and with the status of the first later check that fails: a refusal changes no
memory and no plan, and one that names a pass writes the record that names it (the record is the model's choice: log entry 96). -/
def Sys2Proof.Claims.PlansLoad : Prop := ∀ (s : State) (m : Msg) (rd : DmaRead) (bs : List Byte), Host_ m → Next s m 0x0301 →
  sqHandle m.entry = 0 → Paid m rd bs →
  let x := imageOf bs
  let ends (code : Nat) : Prop := Goes (.planLoad m.id rd) s fun t => Done s s t m code []
  (s.active = none → ends 0x0206) ∧
  ∀ cfg, s.active = some cfg →
    (planStep1 bs = false → ends 0x0201) ∧
    (planStep1 bs = true → (∃ f ∈ x.fields, (s.field f).diag = true) → ends 0x0207) ∧
    (planStep1 bs = true → (∀ f ∈ x.fields, (s.field f).diag = false) →
      (∀ u st d, s.validatePlan m.id.src cfg x = .error (u, st, d) → Goes (.planLoad m.id rd) s fun t => Done s u t m st d ∧
        u.plans = s.plans ∧ u.mem = s.mem) ∧
      (∀ p b, planStep2 x = true → planStep3 x cfg = true → x.draft = some p → p.step4 s.ordinal = .at_ b →
        Goes (.planLoad m.id rd) s fun t => t.plans = s.plans ∧ t.mem = s.mem ∧ t.log.next = s.log.next + 1 ∧
          ∃ r, t.log.recs.getLast? = some (r, false) ∧ fld r 32 16 = 0x0201 ∧ fld r 48 8 = 2 ∧ fld r 64 8 = b.field % 256 ∧
            fld r 72 8 = b.core % 256) ∧
      ∀ p, s.validatePlan m.id.src cfg x = .ok p → Goes (.planLoad m.id rd) s fun t => ∃ i q,
        Done s { s with plans := t.plans, mem := t.mem, cores := t.cores } t m 0
          (handleBytes 2 m.id.src i q.gen ++ leBytes 2 p.x.flags ++ leBytes 2 p.x.nseg) ∧
        s.plan i = none ∧ (∀ j < i, (s.plan j).isSome) ∧ t.plan i = some q ∧ (∀ j, j ≠ i → t.plan j = s.plan j) ∧
        q.owner = m.id.src ∧ q.sealed = false ∧ q.broken = false ∧ q.fields.map (·.field) = p.parts.map (·.field) ∧
        ∀ f c, c < 8 → t.core f c = { s.core f c with waking := (t.core f c).waking })

/-- R305, R309, R310, R197, Table 13-6: the owner of a plan seals it, and unloads it where no job and no armed stream uses it: its handle
and those of streams halted on it are dead, predictors are cleared, and of the banks and commons only its windows may change. PLAN_QUERY
names its state, and PLAN_WINDOWS its windows. -/
def Sys2Proof.Claims.PlansServe : Prop := ∀ (s : State) (m : Msg), Host_ m →
  ∀ i p, s.planOf (sqHandle m.entry) = some i → s.plan i = some p →
    (Next s m 0x0302 → p.owner = m.id.src → Goes (.planSeal m.id) s fun t => Done s { s with plans := t.plans } t m 0 [] ∧
      t.plan i = some { p with sealed := true } ∧ ∀ j, j ≠ i → t.plan j = s.plan j) ∧
    (Next s m 0x0303 → p.owner = m.id.src → s.planBusy i = true → Goes (.planUnload m.id) s fun t => Done s s t m 0x0207 []) ∧
    (Next s m 0x0303 → p.owner = m.id.src → s.planBusy i = false → Sparse.sorted s.cores = true → Sparse.sorted s.streams = true →
      (∀ pf ∈ p.fields, pf.field < 96 ∧ pf.comBase + pf.comLen ≤ 0x1800000) →
      Goes (.planUnload m.id) s fun t =>
      Done s { s with
        plans := t.plans, planGens := t.planGens, streams := t.streams, streamGens := t.streamGens, mem := t.mem, cores := t.cores
        freeCtr := t.freeCtr } t m 0 [] ∧
      t.plan i = none ∧ (∀ j, j ≠ i → t.plan j = s.plan j) ∧ Sparse.get 0 t.planGens i = (p.gen + 1) % 65536 ∧
      (∀ st x, t.stream st = some x ↔ s.stream st = some x ∧ x.plan ≠ i) ∧
      (∀ f c, c < 8 → t.core f c = { s.core f c with predictor := [] }) ∧
      (∀ f c u row k, f < 96 → c < 8 → u < 128 → row < 4096 → k < 8 →
        (∀ pf ∈ p.fields, pf.field = f → row < pf.rowBase ∨ pf.rowBase + pf.rows ≤ row) →
        t.mem.get (rowAddr f c u row + k) = s.mem.get (rowAddr f c u row + k)) ∧
      ∀ f w, f < 96 → w < 0x300000 →
        (∀ pf ∈ p.fields, pf.field = f → 8 * w + 8 ≤ pf.comBase ∨ pf.comBase + pf.comLen ≤ 8 * w) →
        t.mem.get (commonsAddr f + w) = s.mem.get (commonsAddr f + w)) ∧
    (Next s m 0x0304 → Goes (.planQuery m.id) s fun t => ∃ res, Done s s t m 0 res ∧
      (num res 0 1).testBit 0 = p.sealed ∧ num res 2 2 = p.segs.length % 65536) ∧
    (Next s m 0x0305 → Roomy m 768 → Goes (.planWindows m.id) s fun t => ∃ bs, bs.length = 768 ∧
      Done s (Claims.filled s m bs) t m 0 [] ∧ ∀ f < 96, match p.inField f with
        | some pf => num bs (8 * f) 2 = pf.rowBase % 65536 ∧ num bs (8 * f + 2) 2 = pf.rows % 65536 ∧
            num bs (8 * f + 4) 4 = pf.comBase % 2 ^ 32
        | none => num bs (8 * f) 8 = 0)

/-- R177, R178, R305, R309, R310, R197: the plan messages. -/
def Obligations.PlanMessagesAct : Prop := Claims.PlansLoad ∧ Claims.PlansServe

namespace Sys2Proof.Claims

/-- `s` with one message marked as applied, its completion to come. -/
def marked (s : State) (m : Msg) : List Msg := s.msgs.map fun o => if o.id = m.id then { o with applied := true } else o

/-- The last record of the fault log, and one more than before: code and class. -/
def Recorded (s t : State) (code cls : Nat) : Prop :=
  t.log.next = s.log.next + 1 ∧ ∃ r, t.log.recs.getLast? = some (r, false) ∧ fld r 32 16 = code ∧ fld r 48 8 = cls

/-- The fields of a plan are served, and so are its bulk slots. -/
def Sound (s : State) (p : Plan) : Prop :=
  p.broken = false ∧ (∀ pf ∈ p.fields, (s.field pf.field).health = .healthy ∧ (s.field pf.field).cmdMode = none) ∧
  ∀ i ∈ p.slots, s.slotUp i = true

end Sys2Proof.Claims

/-- R312, R313, R316, R317, Table 13-7: JOB_SUBMIT refuses another shape than its segment's, and makes a waiting job with the handle of its
entry; JOB_CANCEL ends a job with SUPERSEDED, or leaves the status of one that ended at a pass, its own completion to come; JOB_QUERY says
where a job stands. -/
def Obligations.JobMessagesAct : Prop := ∀ (s : State) (m : Msg), Host_ m →
  let e := m.entry
  (∀ rd i p g, Next s m 0x0401 → s.planOf (sqHandle e) = some i → s.plan i = some p → p.owner < 1024 →
    s.ownerOf p.owner = s.ownerOf m.id.src → s.isReady = true → p.sealed = true → p.segs[eNum e 48 2]? = some g → g.cadence = false →
    ((descAt e 16).len ≠ g.inLen ∨ (descAt e 32).len ≠ g.outLen → Goes (.jobSubmit m.id rd) s fun t => Done s s t m 0x0203 []) ∧
    ∀ bs, (descAt e 16).len = g.inLen → (descAt e 32).len = g.outLen → Sound s p → Paid m rd bs → Goes (.jobSubmit m.id rd) s fun t => ∃ j,
        Evented { s with msgs := Claims.marked s m, jobs := s.jobs ++ [j] } t ∧ hKind j.handle = 3 ∧ hOwner j.handle = m.id.src ∧
        hIndex j.handle = m.id.ctr % 65536 ∧ j.msg = some m.id ∧ j.plan = i ∧ j.seg = eNum e 48 2 ∧ j.st = .waiting ∧
        j.input = bs ∧ j.outAddr = eNum e 32 8 ∧ j.outLen = g.outLen ∧ j.limit = eNum e 52 4) ∧
  (∀ j, s.job (sqHandle e) = some j → hShape (sqHandle e) 3 = true →
    (Next s m 0x0402 → hOwner (sqHandle e) = m.id.src → j.isEnded = false → Goes (.jobCancel m.id) s fun t =>
      t.msgs = Claims.marked s m ∧ t.queues = s.queues ∧ t.smb = s.smb ∧ ((∀ g, (s.edge g).postings = []) → t.mem = s.mem) ∧
      ∃ x, t.job (sqHandle e) = some x ∧ x.st = .ended 0x0102 ∧ x.cancelled = true ∧ x.failPass = 0xFFFF) ∧
    (∀ st, Next s m 0x0402 → hOwner (sqHandle e) = m.id.src → j.st = .ended st → Goes (.jobCancel m.id) s fun t =>
      t.msgs = Claims.marked s m ∧ t.mem = s.mem ∧ ∃ x, t.job (sqHandle e) = some x ∧ x.cancelled = true ∧
      x.st = .ended (if j.began = true ∧ j.limitExpired = false then st else 0x0102)) ∧
    (Next s m 0x0403 → Goes (.jobQuery m.id) s fun t => ∃ res, Done s s t m 0 res ∧
      num res 0 1 = match j.st with | .waiting => 0 | .running => if j.left = 0 then 2 else 1 | .ended _ => 2))

/-- R314, R180, R172, R382: a job that nothing holds up starts: its input is in its place, and the passes of its segment are handed to
their cores, which wake. One that is held up, or a field of which waits for its remap, waits; one whose plan lost a field, a slot or a
field to command mode ends. -/
def Sys2Proof.Claims.JobStarts : Prop := ∀ (s : State) (h : Word) (j : Job) (p : Plan) (g : Segment) (pf : PlanField),
  s.job h = some j → j.st = .waiting → s.vigil.phase = .up → s.plan j.plan = some p → p.segs[j.seg]? = some g →
  let lo := commonsAddr g.inField + (pf.comBase + g.inOff) / 8
  let mine (f c : Nat) : List Nat := match p.inField f with | some q => q.segRun j.seg c | none => []
  let health (x : Health) : Prop := ∃ q ∈ p.fields, (s.field q.field).health = x
  let whole := p.broken = false ∧ ∀ q ∈ p.fields, (s.field q.field).health = .healthy
  let ends (code : Nat) (t : State) : Prop := ∃ x, t.job h = some x ∧ x.st = .ended code ∧ x.failPass = 0xFFFF
  (s.jobHeldUp j = true → Goes (.jobStart h) s (Evented s)) ∧
  (s.jobHeldUp j = false → health .lost ∨ p.broken = true → Goes (.jobStart h) s (ends 0x0602)) ∧
  (∀ cause readable, s.jobHeldUp j = false → p.broken = false → ¬health .lost → health (.failed cause readable) →
    Goes (.jobStart h) s (Evented s)) ∧
  (s.jobHeldUp j = false → whole → (∃ i ∈ p.slots, s.slotUp i = false) → Goes (.jobStart h) s (ends 0x0204)) ∧
  (s.jobHeldUp j = false → whole → (∀ i ∈ p.slots, s.slotUp i = true) → (∃ q ∈ p.fields, (s.field q.field).cmdMode ≠ none) →
    Goes (.jobStart h) s (ends 0x0207)) ∧
  (s.jobHeldUp j = false → Sound s p → (p.fields.map (·.field)).Nodup → p.inField g.inField = some pf → Goes (.jobStart h) s fun t =>
    t.job h = some { j with
      st := .running, began := true, startTime := s.now
      left := (p.fields.map fun q => ((List.range 8).map fun c => (q.segRun j.seg c).length).sum).sum } ∧
    (∀ f c, c < 8 → (t.core f c).run = (s.core f c).run ++ (mine f c).map (fun i => (h, i)) ∧ (t.core f c).window = (s.core f c).window ∧
      (mine f c ≠ [] → (s.core f c).level = .run ∨ (t.core f c).waking = true)) ∧
    (∀ k < j.input.length / 8, ∃ w : Word, t.mem.get (lo + k) = { data := w, good := w } ∧ w.toNat = num j.input (8 * k) 8) ∧
    (∀ a, a < lo ∨ lo + (j.input.length + 7) / 8 ≤ a → t.mem.get a = s.mem.get a) ∧ t.bus = s.bus ∧ t.msgs = s.msgs)

/-- R315, R316, R317, Tables 7-11, 13-8: a job whose passes are done, with nothing of it on its way, completes with its status and drain
flags, its committed outputs in host memory; one that ended completes with its status, and after it the JOB_CANCEL that named it; one
refused at its start for want of a slot with the amounts. A deadline that passes ends a running job with TIMEOUT. -/
def Sys2Proof.Claims.JobEnds : Prop := ∀ (s : State) (h : Word) (j : Job), s.job h = some j → j.tick = none →
  let landed := ∀ q ∈ s.mesh.packets, q.job ≠ h
  let out (t : State) : Prop := ∀ o ∈ s.out, o ∈ t.out
  (∀ m code, Answerable s m 0x0401 → j.msg = some m.id → landed → (∀ o ∈ s.msgs, sqOp o.entry ≠ 0x0402) →
    (j.st = .running ∧ j.left = 0 ∧ (∀ q ∈ s.mesh.awaited, q.job ≠ h) ∧ (∀ x ∈ s.slots, ∀ i ∈ x.2.unacked, i.job ≠ h) ∧
        code = (if j.drain.getLsbD 2 then 0x0401 else 0) ∨
      j.st = .ended code ∧ code < 65536 ∧ (code = 0x0204 → j.failPass ≠ 0xFFFF)) →
    Goes (.jobComplete h) s fun t => Done s { s with out := t.out, jobs := s.jobs.filter (·.handle ≠ h), lanterns := t.lanterns } t m code
        (leBytes 8 h.toNat ++ leBytes 2 j.drain.toNat ++ leBytes 2 j.failPass ++ leBytes 1 (j.failField.getD 0xFF) ++
          leBytes 1 (j.failCore.getD 0xFF)) ∧
      out t ∧ ∀ o ∈ j.outs, s.outCommitted j o.1 = true → m.id.src < 1024 →
        Out.dma (s.ownerOf m.id.src) (j.outAddr + o.1) o.2.1 o.2.2 true ∈ t.out) ∧
  (∀ m, Answerable s m 0x0401 → j.msg = some m.id → landed → (∀ o ∈ s.msgs, sqOp o.entry ≠ 0x0402) → j.st = .ended 0x0204 →
    j.failPass = 0xFFFF → Goes (.jobComplete h) s fun t => ∃ res, Done s { s with
        out := t.out, jobs := s.jobs.filter (·.handle ≠ h), lanterns := t.lanterns, freeCtr := t.freeCtr } t m 0x0204 res ∧
      num res 0 1 = 5 ∧ out t) ∧
  (∀ m k st, Answerable s m 0x0401 → Answerable s k 0x0402 → j.msg = some m.id → landed → s.msgs = [m, k] → k.applied = true →
    sqHandle k.entry = h → j.st = .ended st → st < 65536 → st ≠ 0x0204 → m.id.src < 1024 → k.id.src = m.id.src →
    (s.port (s.ownerOf m.id.src)).d3 = false → Goes (.jobComplete h) s fun t => t.msgs = [] ∧ t.job h = none ∧
      (t.queue m.id.src).w = ((s.queue m.id.src).w + 2) % 65536 ∧
      ∀ x ∈ [(m, st, 0), (k, 0, 1)], ∃ bs, CqIs (leNat bs) x.1 x.2.1 false (if x.2.2 = 0 then j.result else []) ∧
        Out.dma (s.ownerOf m.id.src) ((s.queue m.id.src).cqBase +
          32 * (((s.queue m.id.src).w + x.2.2) % 65536 % 2 ^ (s.queue m.id.src).cqLog2)) bs false false ∈ t.out) ∧
  (j.st = .running → j.limit ≠ 0 → j.paused = false → Goes (.jobLimitExpiry h) s fun t => t.msgs = s.msgs ∧
    ((∀ g, (s.edge g).postings = []) → t.mem = s.mem) ∧
    ∃ x, t.job h = some x ∧ x.st = .ended 0x0501 ∧ x.failPass = 0xFFFF ∧ x.limitExpired = true)

/-- R313 to R316: the life of a job. -/
def Obligations.JobsStartAndEnd : Prop := Claims.JobStarts ∧ Claims.JobEnds

/-- R352 to R364, R372, R318, Table 13-10: arming and re-arming reserve the lanterns and pin the cores of the stream, from a whole
microsecond at least 4 µs on; its message waits while a part of it sleeps, and ends with the cause where what it holds has been taken back
(log entry 121); without its lanterns a message waits, and after 1 ms is denied; a re-arm is refused while a field of the stream is in
command mode. Disarming a stream with no tick out ends it. -/
def Obligations.CadenceMessagesAct : Prop := ∀ (s : State) (m : Msg), Host_ m →
  let e := m.entry
  let held (x : Stream) (st : Nat) (t : State) (y : Stream) : Prop :=
    t.stream st = some y ∧ y.holds = true ∧ y.misses = 0 ∧ y.reserve = s.reservation x ∧ y.owner = x.owner ∧
    y.plan = x.plan ∧ y.tick = x.tick ∧ y.cons = x.cons ∧ y.acc = x.acc ∧ y.outw = x.outw ∧ y.nextTick = x.nextTick ∧
    y.tickBase = x.nextTick ∧ (∀ q ∈ s.streamCores x, 16 + st ∈ (t.core q.1 q.2).pinnedBy ∧
      ((s.core q.1 q.2).level = .run ∨ (t.core q.1 q.2).waking = true)) ∧
    ∀ f ∈ s.streamFields x, st ∈ (t.edge f).pinnedBy ∧ ((s.edge f).level = .run ∨ (t.edge f).waking = true)
  let runs (y : Stream) : Prop := y.arming = none ∧ y.halted = false ∧ y.t0 % 10 = 0 ∧ s.now + 40 ≤ y.t0 ∧ y.t0 < s.now + 50
  let waits (y : Stream) : Prop := y.arming = some m.id ∧ y.halted = true
  let awake (x : Stream) : Prop := (∀ q ∈ s.streamCores x, (s.core q.1 q.2).level = .run) ∧
    ∀ f ∈ s.streamFields x, (s.edge f).level = .run ∧ (s.field f).service = .run
  let touched (t : State) : State := { s with
    streams := t.streams, mem := t.mem, cores := t.cores, edges := t.edges, fields := t.fields, streamGens := t.streamGens }
  let need (x : Stream) : Nat := ((s.reservation x).map (·.2)).sum
  let whole (x : Stream) : Prop := ∀ f ∈ s.streamFields x, (s.field f).health = .healthy
  (∀ i p, Next s m 0x0501 → s.planOf (sqHandle e) = some i → s.plan i = some p → p.owner < 1024 →
    s.ownerOf p.owner = s.ownerOf m.id.src → s.isReady = true → p.sealed = true → p.broken = false →
    let st := eNum e 16 2
    let x := armedStream m i p (Sparse.get 0 s.streamGens st)
    s.stream st = none → x.rangeOk p st = true → s.armFree x = true → s.armWaits x = false → whole x →
    (need x ≤ s.freePool → awake x → Goes (.cadenceArm m.id) s fun t =>
      Done s (touched t) t m 0 (handleBytes 4 m.id.src st x.gen) ∧ ∃ y, held x st t y ∧ runs y) ∧
    (need x ≤ s.freePool → ¬awake x → Goes (.cadenceArm m.id) s fun t => t.msgs = s.msgs ∧ ∃ y, held x st t y ∧ waits y) ∧
    (s.freePool < need x → (Goes (.cadenceArm m.id) s fun t => t.msgs = s.msgs ∧ t.streams = s.streams) ∧
      Goes (.armReservationTimeout m.id) s fun t => Done s s t m 0x0301 [])) ∧
  (∀ i x, Next s m 0x0501 → s.planOf (sqHandle e) = some i → s.stream (eNum e 16 2) = some x → x.arming = some m.id →
    (x.holds = true → awake x → Goes (.cadenceArm m.id) s fun t =>
      Done s (touched t) t m 0 (handleBytes 4 x.owner (eNum e 16 2) x.gen) ∧
      ∃ y, runs y ∧ t.stream (eNum e 16 2) = some y ∧ y = { x with arming := none, halted := false, t0 := y.t0 }) ∧
    (x.holds = false → ∀ code detail, code < 65536 → x.cause = some (code, detail) → Goes (.cadenceArm m.id) s fun t =>
      Done s (touched t) t m code [] ∧ t.stream (eNum e 16 2) = none)) ∧
  (∀ st x, s.streamOf (sqHandle e) = some st → s.stream st = some x →
    (Next s m 0x0502 → x.owner = m.id.src → x.arming = some m.id →
      (x.holds = true → awake x → Goes (.cadenceRearm m.id) s fun t => Done s (touched t) t m 0 [] ∧
        ∃ y, runs y ∧ t.stream st = some y ∧ y = { x with arming := none, halted := false, t0 := y.t0 }) ∧
      (x.holds = false → ∀ code detail, code < 65536 → x.cause = some (code, detail) → Goes (.cadenceRearm m.id) s fun t =>
        Done s (touched t) t m code [] ∧ t.stream st = some { x with arming := none })) ∧
    (Next s m 0x0502 → x.owner = m.id.src → x.arming = none → x.halted = true → x.disarming = false →
      let command := ∃ f ∈ s.streamFields x, (s.field f).cmdMode ≠ none
      (command → Goes (.cadenceRearm m.id) s fun t => Done s s t m 0x0207 []) ∧
      (¬command → x.holds = false → whole x → (∃ p, s.plan x.plan = some p ∧ p.broken = false) → need x ≤ s.freePool →
        (awake x → Goes (.cadenceRearm m.id) s fun t => Done s (touched t) t m 0 [] ∧ ∃ y, held x st t y ∧ runs y) ∧
        (¬awake x → Goes (.cadenceRearm m.id) s fun t => t.msgs = s.msgs ∧ ∃ y, held x st t y ∧ waits y)) ∧
      (¬command → x.holds = false → s.freePool < need x → Goes (.armReservationTimeout m.id) s fun t => Done s s t m 0x0301 [])) ∧
    (Next s m 0x0503 → x.owner = m.id.src → (∀ o ∈ s.msgs, o = m ∨ sqOp o.entry ≠ 0x0503) →
      (x.ticks = [] → Goes (.cadenceDisarm m.id) s fun t => Done s (touched t) t m 0 [] ∧ t.stream st = none ∧
        (∀ k, k ≠ st → t.stream k = s.stream k) ∧ Sparse.get 0 t.streamGens st = (x.gen + 1) % 65536) ∧
      (x.ticks ≠ [] → Goes (.cadenceDisarm m.id) s fun t => t.msgs = Claims.marked s m ∧
        t.stream st = some { x with disarming := true })) ∧
    (Next s m 0x0504 → Goes (.cadenceQuery m.id) s fun t => ∃ res, Done s s t m 0 res ∧ num res 0 1 = x.halted.toNat ∧
      num res 1 1 = min x.misses 255 ∧ num res 4 4 = min x.totalMisses 0xFFFFFFFF ∧ num res 8 8 = x.completed % 2 ^ 64))

/-- R359 to R370: what the host's counters, the dispatch of a tick, with an input or without, its delivery, and a missed deadline do to a
stream. -/
def Obligations.StreamEventsAct : Prop := ∀ (s : State) (st : Nat) (x : Stream), st < 64 → s.stream st = some x →
  let e := x.entries.getD (x.nextTick % x.entries.length) ⟨0xFFFF, 1, 1, 1⟩
  let seg := if e.seg = 0xFFFF then x.seg else e.seg
  let runs := x.halted = false ∧ x.disarming = false
  let room := (x.outw - x.orel).toNat + x.ticks.length ≤ 2 ^ x.outLog2 - 2
  let port := s.ownerOf x.owner
  (∀ v : BitVec 32,
    let k := (v - x.acc).toNat
    let space := 2 ^ x.inLog2 - 1 - (x.acc - x.cons).toNat
    let taken : Stream := { x with
      prod := v, acc := x.acc + BitVec.ofNat 32 (min k space)
      refused := BitVec.ofNat 32 (min (x.refused.toNat + (k - space)) 0xFFFFFFFF) }
    (k = 0 ∨ 2 ^ 31 ≤ k → Goes (.icProdWrite st v) s (Evented s)) ∧
    (0 < k → k < 2 ^ 31 → k ≤ space → Goes (.icProdWrite st v) s fun t => t.stream st = some taken ∧ t.log = s.log) ∧
    (k < 2 ^ 31 → space < k → Goes (.icProdWrite st v) s fun t => t.stream st = some taken ∧ Recorded s t 0x0303 2)) ∧
  (∀ v : BitVec 32, Goes (.icOrelWrite st v) s fun t => t.stream st =
    some (if (v - x.orel).toNat ≤ (x.outw - x.orel).toNat then { x with orel := v } else x)) ∧
  (∀ p g pf, s.streamSeg x = some (p, g) → p.inField g.inField = some pf → s.vigil.phase = .up → runs →
    (∀ k ∈ x.ticks, ∀ j, s.tickJob st k.n = some j → j.isEnded = false) →
    let reads := ∃ k ∈ x.ticks, ∃ j, s.tickJob st k.n = some j ∧ j.holdsInput p g = true
    let named (k : Tick) : Prop := k.n = x.nextTick ∧ k.missed = decide (x.nextTick ∈ x.missedAhead) ∧
      k.tn = x.t0 * 25 + (x.nextTick - x.tickBase) * x.tick
    (¬room → Goes (.cadenceTickDispatch st) s fun t => t.streams = s.streams ∧ t.jobs = s.jobs) ∧
    (room → x.cons = x.acc → Goes (.cadenceTickDispatch st) s fun t => t.jobs = s.jobs ∧ t.cores = s.cores ∧
      ∃ k, named k ∧ k.noInput = true ∧ t.stream st = some { x with nextTick := x.nextTick + 1, ticks := x.ticks ++ [k] }) ∧
    (room → x.cons ≠ x.acc → reads → Goes (.cadenceTickDispatch st) s fun t => t.streams = s.streams ∧ t.jobs = s.jobs) ∧
    (room → x.cons ≠ x.acc → ¬reads → (p.fields.map (·.field)).Nodup →
      let mine (f c : Nat) : List Nat := match p.inField f with | some q => q.segRun seg c | none => []
      let line := commonsAddr g.inField + (pf.comBase + x.inBase) / 8
      let src := commonsAddr g.inField + (pf.comBase + x.inBase + 64 + x.cons.toNat % 2 ^ x.inLog2 * ((g.inLen + 63) / 64 * 64)) / 8
      let dst := commonsAddr g.inField + (pf.comBase + g.inOff) / 8
      Goes (.cadenceTickDispatch st) s fun t =>
        (∃ k, named k ∧ k.noInput = false ∧ k.sample = x.cons.toNat ∧
          t.stream st = some { x with nextTick := x.nextTick + 1, cons := x.cons + 1, ticks := x.ticks ++ [k] }) ∧
        (∃ j, t.jobs = s.jobs ++ [j] ∧ j.handle = tickHandle st x.nextTick ∧ j.tick = some (st, x.nextTick) ∧ j.plan = x.plan ∧
          j.seg = seg ∧ j.st = .running) ∧
        (∀ f c, c < 8 → (t.core f c).run = (s.core f c).run ++ (mine f c).map fun i => (tickHandle st x.nextTick, i)) ∧
        (dst + g.inLen / 8 ≤ line ∨ line + 8 ≤ dst → g.inLen % 8 = 0 → ∀ i < g.inLen / 8,
          let w := s.mem.get (src + i)
          w.data = w.good → t.mem.get (dst + i) = w))) ∧
  (∀ k rest p g late, x.ticks = k :: rest → s.streamSeg x = some (p, g) → runs → (s.port port).d3 = false →
    (k.missed = true ↔ late ≠ 0#32) →
    let base := x.outBase + x.outw.toNat % 2 ^ x.outLog2 * (64 + (g.outLen + 63) / 64 * 64)
    let headed (code drain : Nat) (t : State) : Prop := ∃ bs, bs.length = 64 ∧ num bs 0 4 = k.n % 2 ^ 32 ∧ num bs 8 2 = code ∧
      num bs 10 2 = (drain ||| if k.missed then 64 else 0) % 65536 ∧ num bs 16 8 = k.tn % 2 ^ 64 ∧ num bs 24 4 = late.toNat ∧
      Out.dma port base bs false false ∈ t.out
    let moved (t : State) (y : Stream) : Prop := t.stream st = some y ∧ y.ticks = rest ∧ y.outw = x.outw + 1 ∧
      y.completed = x.completed + 1 ∧ y.misses = (if k.missed then x.misses else 0) ∧ t.jobs = s.jobs.filter (·.tick ≠ some (st, k.n))
    (s.tickJob st k.n = none → k.ended = none → Goes (.cadenceOutputDeliver st late) s fun t =>
      headed 0 k.drain.toNat t ∧ ∃ y, moved t y ∧ y.halted = false) ∧
    (∀ j, s.tickJob st k.n = some j → j.st = .running → j.left = 0 → s.outstandingOf j.handle = false →
      Goes (.cadenceOutputDeliver st late) s fun t => headed (if j.drain.getLsbD 2 then 0x0401 else 0) j.drain.toNat t ∧
        (∃ y, moved t y ∧ y.halted = false) ∧
        ∀ o ∈ j.outs, s.outCommitted j o.1 = true → Out.dma port (base + 64 + o.1) o.2.1 o.2.2 true ∈ t.out) ∧
    (∀ j code, s.tickJob st k.n = some j → j.st = .ended code → (∀ q ∈ s.mesh.packets, q.job ≠ j.handle) → code ≠ 0 → code ≠ 0x0401 →
      code < 65536 → Goes (.cadenceOutputDeliver st late) s fun t => headed code j.drain.toNat t ∧ ∃ y, moved t y ∧ y.halted = true)) ∧
  (∀ k, k ∈ x.ticks → k.missed = false → runs →
    Goes (.cadenceDeadlineMiss st k.n) s fun t => ∃ y, t.stream st = some y ∧ y.misses = x.misses + 1 ∧
      y.totalMisses = x.totalMisses + 1 ∧ y.halted = decide (x.missLimit ≤ x.misses + 1) ∧ y.cons = x.cons ∧
      (∃ o ∈ y.ticks, o.n = k.n ∧ o.missed = true) ∧ Recorded s t 0x0302 2) ∧
  ∀ n, x.nextTick ≤ n → n ∉ x.missedAhead → (∀ k ∈ x.ticks, k.n ≠ n) → runs → Goes (.cadenceDeadlineMiss st n) s fun t =>
    ∃ y, t.stream st = some y ∧ y.misses = x.misses + 1 ∧ y.totalMisses = x.totalMisses + 1 ∧
      y.halted = decide (x.missLimit ≤ x.misses + 1) ∧ y.missedAhead = x.missedAhead ++ [n] ∧
      (x.misses + 1 < x.missLimit → Recorded s t 0x0302 2)

/-- R318, R319, R346, Table 13-9: WINDOW_MODE gives a field to a queue for command words and takes it back once its FIFOs are empty;
WINDOW_BASE moves the port's window; WINDOW_QUERY answers both in two entries. -/
def Obligations.WindowMessagesAct : Prop := ∀ (s : State) (m : Msg), Host_ m → sqHandle m.entry = 0 →
  let f := eByte m.entry 16
  let p := s.ownerOf m.id.src
  let base := eNum m.entry 16 8
  (Next s m 0x0601 → f < 96 → (s.field f).health ≠ .lost →
    let mode := eByte m.entry 17
    (∀ q, (s.field f).cmdMode = some q → q ≠ m.id.src → mode ≤ 1 → Goes (.windowMode m.id) s fun t => Done s s t m 0x0101 []) ∧
    ((s.field f).cmdMode = none ∨ (s.field f).cmdMode = some m.id.src →
      (mode = 1 → s.fieldBusy f = true → Goes (.windowMode m.id) s fun t => Done s s t m 0x0207 []) ∧
      (mode = 1 → s.fieldBusy f = false → Goes (.windowMode m.id) s fun t =>
        Done s { s with fields := t.fields, cores := t.cores, bus := t.bus } t m 0 [] ∧
        (∀ k, t.field k = if k = f then { s.field f with cmdMode := some m.id.src, cmdEnding := false } else s.field k) ∧
        ∀ c < 8, 0 ∈ (t.core f c).pinnedBy ∧ ((s.core f c).level = .run ∨ (t.core f c).waking = true)) ∧
      (mode = 0 → (∀ c < 8, (s.core f c).fifo = []) → Goes (.windowMode m.id) s fun t =>
        Done s { s with fields := t.fields, cores := t.cores, bus := t.bus } t m 0 [] ∧ (t.field f).cmdMode = none ∧
        ((s.field f).cmdMode ≠ none → ∀ c < 8, 0 ∉ (t.core f c).pinnedBy)) ∧
      (mode = 0 → (s.field f).cmdMode ≠ none → (∃ c < 8, (s.core f c).fifo ≠ []) → Goes (.windowMode m.id) s fun t =>
        t.msgs = s.msgs ∧ t.fields = s.fields ∧ t.cores = s.cores))) ∧
  (Next s m 0x0602 → base % 2 ^ 34 = 0 → base ≤ 0x02FC00000000 → Goes (.windowBase m.id) s fun t =>
    Done s (s.setPort p { s.port p with bar2 := BitVec.ofNat 64 base }) t m 0 []) ∧
  (Next s m 0x0603 → Goes (.windowQuery m.id) s fun t => ∃ res, Done s s t m 0 res ∧ num res 0 8 = (s.port p).bar2.toNat ∧
    ∀ k < 96, (num res 8 12).testBit k = (s.field k).cmdMode.isSome)

/-- R242, R251, R293, R320, Table 13-12: a fabric configuration is staged, given routes and applied, which takes ACTIVE links back to
PARAMS; LINK_ENABLE disables links for its source; LINK_STATE names every link's state. -/
def Obligations.FabricMessagesAct : Prop := ∀ (s : State) (m : Msg), Control m →
  let e := m.entry
  let i := if m.id.src = 1024 then 0 else s.ownerOf m.id.src + 1
  let mask : Word := e.extractLsb' 128 64
  (∀ rd bs, Next s m 0x0801 → sqHandle e = 0 → Paid m rd bs → bs.length = 256 → eNum e 34 2 < 2 ^ 15 → eNum e 36 4 ≤ 10000 →
    (∀ c, s.fabStaged = some c → c.owner = m.id.src) → (∀ l < 64, num bs (4 * l) 4 / 2 ^ 15 % 2 = 0 ∧ num bs (4 * l) 4 / 2 ^ 22 % 2 ^ 9 = 0) →
    Goes (.fabricStage m.id rd) s fun t => ∃ c, Done s { s with fabStaged := some c, fabGen := s.fabGen + 1 } t m 0
        (handleBytes 6 m.id.src 0 c.gen) ∧
      c.owner = m.id.src ∧ c.domain = eNum e 32 2 ∧ c.ordinal = eNum e 34 2 ∧ c.routes = [] ∧
      c.timeout = (if eNum e 36 4 = 0 then 20 else eNum e 36 4) ∧
      ∀ l < 64, (Sparse.get 0 c.neighbours l).toNat = num bs (4 * l) 4) ∧
  (∀ rd bs c, Next s m 0x0802 → s.fabStaged = some c → fabNamed (sqHandle e) (some c) = true → c.owner = m.id.src → Paid m rd bs →
    0 < eNum e 36 4 → eNum e 32 4 + eNum e 36 4 ≤ 32768 → bs.length = 16 * eNum e 36 4 →
    (∀ k < eNum e 36 4, num bs (16 * k) 16 / 2 ^ 117 = 0) →
    Goes (.fabricRoutes m.id rd) s fun t => ∃ d, Done s { s with fabStaged := some d } t m 0 [] ∧ d = { c with routes := d.routes } ∧
      (∀ k < eNum e 36 4, (Sparse.get 0 d.routes (eNum e 32 4 + k)).toNat = num bs (16 * k) 16) ∧
      ∀ k, (k < eNum e 32 4 ∨ eNum e 32 4 + eNum e 36 4 ≤ k) → Sparse.get 0 d.routes k = Sparse.get 0 c.routes k) ∧
  (∀ c, Next s m 0x0803 → s.fabStaged = some c → fabNamed (sqHandle e) (some c) = true → c.owner = m.id.src →
    (s.fabricBusy = true → Goes (.fabricApply m.id) s fun t => Done s s t m 0x0207 []) ∧
    (s.fabricBusy = false → Goes (.fabricApply m.id) s fun t =>
      t.fabActive = some c ∧ t.fabStaged = none ∧ t.msgs = s.msgs.filter (·.id ≠ m.id) ∧ t.mem = s.mem ∧
      ∀ l < 64, (t.brim l).st = if (s.brim l).st = .active then .params else (s.brim l).st)) ∧
  (Next s m 0x0804 → sqHandle e = 0 → eByte e 24 ≤ 1 → Goes (.linkEnable m.id) s fun t =>
    t.msgs = s.msgs.filter (·.id ≠ m.id) ∧ t.mem = s.mem ∧ (∀ j, j ≠ i → t.request j = s.request j) ∧
    ∀ l < 64, let on := eByte e 24 = 1
      ((t.request i).linksOff.getLsbD l = if mask.getLsbD l then decide (¬on) else (s.request i).linksOff.getLsbD l) ∧
      (t.linkOff l = true → (t.brim l).st = .disabled) ∧
      (t.linkOff l = false → (t.brim l).st = if (s.brim l).st = .disabled then .detect else (s.brim l).st)) ∧
  (Next s m 0x0805 → sqHandle e = 0 → Goes (.linkState m.id) s fun t => ∃ res, Done s s t m 0 res ∧ res.length = 64 ∧ ∀ l < 64,
    num res l 1 % 8 = (match (s.brim l).st with
      | .disabled => 0 | .detect => 1 | .equalize => 2 | .lock => 3 | .params => 4 | .active => 5) ∧
    (num res l 1).testBit 7 = (s.brim l).lost ∧ (num res l 1).testBit 6 = (s.brim l).miswired)

/-- R324, R326, R401, Tables 13-14, 13-15: firmware is written into a slot that does not run and verified; a self-test of a field that no plan
uses starts, beside those that run, and answers at its end (that the oldest ends first is the model's choice, log entry 65); an injected error
inverts stored bits and keeps the check bits. -/
def Obligations.ServiceMessagesAct : Prop := ∀ (s : State) (m : Msg), Control m → sqHandle m.entry = 0 →
  let e := m.entry
  let i := eByte e 32
  let off := eNum e 36 4
  let k := eByte e 16
  let a := eByte e 17
  (∀ rd bs, Next s m 0x0C01 → Paid m rd bs → i ≤ 1 → 4096 ≤ bs.length → bs.length ≤ 2 ^ 20 → off % 4096 = 0 →
    off + bs.length ≤ 0x3FC0000 →
    (i = s.vigil.fwRun → s.vigil.noFirmware = none → Goes (.fwWrite m.id rd) s fun t => Done s s t m 0x0207 []) ∧
    (i ≠ s.vigil.fwRun ∨ s.vigil.noFirmware ≠ none → Goes (.fwWrite m.id rd) s fun t =>
        Done s { s with fw := t.fw } t m 0 [] ∧ (∀ j, j ≠ i → t.fwSlot j = s.fwSlot j) ∧
        (t.fwSlot i).verdict = 0xFF ∧ ∀ a, t.flash i a 1 = if off ≤ a ∧ a < off + bs.length then [bs.getD (a - off) 0] else s.flash i a 1)) ∧
  (Next s m 0x0C02 → k ≤ 1 → Goes (.fwVerify m.id) s fun t => ∃ res, Done s { s with fw := t.fw } t m 0 res ∧
    (t.fwSlot k).verdict = s.verdict k ∧ num res 0 1 = s.verdict k ∧ (∀ j a, t.flash j a 1 = s.flash j a 1) ∧
    ((∀ a < 4096, s.flash k a 1 = [0xFF]) → s.verdict k = 3)) ∧
  (∀ test, Next s m 0x0C03 → selfTestOk test = true → (1 < k ∨ (s.fwSlot k).verdict ≠ 0) →
    Goes (.fwActivate m.id test) s fun t => Done s s t m 0x0202 []) ∧
  (Next s m 0x0C04 → Goes (.fwQuery m.id) s fun t => ∃ res, Done s s t m 0 res ∧ num res 0 1 = s.vigil.fwRun % 256 ∧
    num res 2 1 = (s.fwSlot 0).verdict % 256 ∧ num res 4 1 = (s.fwSlot 1).verdict % 256) ∧
  (Next s m 0x0D02 → k = 0 → a < 96 → eByte e 19 ≤ 15 → (s.field a).health ≠ .lost →
    ((∃ q ∈ s.plans, (q.2.inField a).isSome = true) → Goes (.diagRun m.id) s fun t => Done s s t m 0x0207 []) ∧
    ((∀ q ∈ s.plans, q.2.inField a = none) → Goes (.diagRun m.id) s fun t => t.vigil.diag = s.vigil.diag ++ [⟨some m.id, some a⟩] ∧
        t.msgs = Claims.marked s m ∧ t.mem = s.mem ∧ (∀ g, t.field g = if g = a then { s.field a with diag := true } else s.field g) ∧
        ∀ c < 8, (s.core a c).level = .run ∨ (t.core a c).waking = true)) ∧
  (Next s m 0x0D02 → k = 1 → eByte e 19 ≤ 15 →
    ((a, eByte e 18) ∈ s.vigil.spares → Goes (.diagRun m.id) s fun t => t.vigil.diag = s.vigil.diag ++ [⟨some m.id, none⟩] ∧
      t.msgs = Claims.marked s m ∧ t.mem = s.mem ∧ t.fields = s.fields) ∧
    ((a, eByte e 18) ∉ s.vigil.spares → Goes (.diagRun m.id) s fun t => Done s s t m 0x0202 [])) ∧
  (∀ fail bus field rest, Answerable s m 0x0D02 → s.vigil.diag = ⟨some m.id, field⟩ :: rest → (∀ n, fail = some n → n < 4) →
    Goes (.diagRunComplete fail bus) s fun t =>
      Done s { s with fields := t.fields, mem := t.mem, freeCtr := t.freeCtr, vigil := { s.vigil with diag := rest } } t m 0
        (leBytes 1 (if fail.isNone then 1 else 0) ++ leBytes 1 (fail.getD 0) ++ leBytes 2 bus) ∧
      (∀ g, t.field g = if field = some g then { s.field g with diag := rest.any (·.field = some g) } else s.field g) ∧
      ∀ x, (∀ g, field = some g → x < g * 0x2000000 ∨ (g + 1) * 0x2000000 ≤ x) → t.mem.get x = s.mem.get x) ∧
  (Next s m 0x0D03 → injectOk e = true → (s.field k).health ≠ .lost →
    let x := rowAddr k a (eByte e 18) (eByte e 19 * 2048 + eNum e 20 2) + eByte e 22
    let b0 : Word := 1#64 <<< eByte e 24
    let b1 : Word := 1#64 <<< eByte e 25
    (s.fieldBusy k = true → Goes (.diagInject m.id) s fun t => Done s s t m 0x0207 []) ∧
    (s.fieldBusy k = false → Goes (.diagInject m.id) s fun t =>
      Done s { s with mem := t.mem, cores := t.cores } t m 0 [] ∧ (∀ y, y ≠ x → t.mem.get y = s.mem.get y) ∧
      t.mem.get x = (if eByte e 23 = 0 then { s.mem.get x with data := (s.mem.get x).data ^^^ b0 }
        else if eByte e 23 = 1 then { s.mem.get x with data := (s.mem.get x).data ^^^ b0 ^^^ b1 }
        else { s.mem.get x with poison := true })))

/-- R295, R307, R409, R410, R413: a reset and a power-down complete ACCEPTED, and with them every other message, job, stream and plan is gone;
a reset returns every queue pair to UNCREATED and the unit to HELD, and keeps the persisted configuration (a record write that has begun
ends: log entry 122); FW_ACTIVATE of a slot that passes
its check is a reset into that slot; a power-down leaves the unit in VIGIL with its queue pairs and its configuration. -/
def Obligations.ResetMessagesAct : Prop := ∀ (s : State) (m : Msg) (test : SelfTest), Control m → sqHandle m.entry = 0 →
  selfTestOk test = true →
  let q := s.queue m.id.src
  let k := eByte m.entry 16
  let ended (t : State) : Prop := t.msgs = [] ∧ t.jobs = [] ∧ t.streams = [] ∧ t.plans = [] ∧ t.fabActive = none ∧ t.staged = none ∧
    (m.id.src < 1024 → ∃ bs i, CqIs (leNat bs) m 1 false [] ∧
      Out.dma (s.ownerOf m.id.src) (q.cqBase + 32 * (i % 2 ^ q.cqLog2)) bs false false ∈ t.out) ∧
    (m.id.src = 1024 → ∃ e, [e] ∈ t.smb.completions ∧ CqIs e.toNat m 1 false [])
  let reset (t : State) : Prop := ended t ∧ t.stateCode = 3 ∧ (∀ k, (t.queue k).st = .uncreated) ∧ (∀ k, t.ownerOf k = k % 4) ∧
    t.smb.waiting = [] ∧ t.requests = [] ∧ Written s t
  (Next s m 0x0010 → s.vigil.holdReset = false → s.vigil.holdPower = false → Goes (.unitReset m.id test) s reset) ∧
  (Next s m 0x0C03 → k ≤ 1 → (s.fwSlot k).verdict = 0 → s.vigil.holdReset = false → s.vigil.holdPower = false →
    Goes (.fwActivate m.id test) s fun t => reset t ∧ (s.verdict k = 0 → t.vigil.fwRun = k ∧ t.vigil.fwPref = k)) ∧
  (Next s m 0x0011 → Goes (.unitDown m.id) s fun t => ended t ∧ t.vigil.phase = .vigil ∧ t.active = s.active ∧ Written s t ∧
    (s.jobs = [] → t.log = s.log) ∧ ∀ k, (t.queue k).st = (s.queue k).st)

/-- The rows that are messages, by opcode, with the channel that they are accepted from (Tables 13-3 to 13-15): 0 any, 1 host queues,
2 control, 3 admin. -/
def Sys2Proof.Claims.messageRows : List (Nat × Nat × (MsgId → DmaRead → SelfTest → Instr)) := [
  (0x0001, 0, fun m _ _ => .deviceNop m), (0x0002, 0, fun m _ _ => .deviceInfo m), (0x0010, 2, fun m _ t => .unitReset m t),
  (0x0011, 2, fun m _ _ => .unitDown m), (0x0101, 3, fun m _ _ => .queueCreate m), (0x0102, 3, fun m _ _ => .queueDelete m),
  (0x0103, 3, fun m _ _ => .queueAssign m), (0x0104, 3, fun m _ _ => .queueModerate m), (0x0105, 3, fun m _ _ => .queueQuery m),
  (0x0201, 2, fun m r _ => .configStage m r), (0x0202, 2, fun m _ _ => .configSeal m), (0x0203, 2, fun m _ _ => .configDiscard m),
  (0x0204, 2, fun m _ _ => .configQuery m), (0x0301, 1, fun m r _ => .planLoad m r), (0x0302, 1, fun m _ _ => .planSeal m),
  (0x0303, 1, fun m _ _ => .planUnload m), (0x0304, 1, fun m _ _ => .planQuery m), (0x0305, 1, fun m _ _ => .planWindows m),
  (0x0401, 1, fun m r _ => .jobSubmit m r), (0x0402, 1, fun m _ _ => .jobCancel m), (0x0403, 1, fun m _ _ => .jobQuery m),
  (0x0501, 1, fun m _ _ => .cadenceArm m), (0x0502, 1, fun m _ _ => .cadenceRearm m), (0x0503, 1, fun m _ _ => .cadenceDisarm m),
  (0x0504, 1, fun m _ _ => .cadenceQuery m), (0x0601, 1, fun m _ _ => .windowMode m), (0x0602, 1, fun m _ _ => .windowBase m),
  (0x0603, 1, fun m _ _ => .windowQuery m), (0x0701, 2, fun m _ _ => .poolSet m), (0x0702, 2, fun m _ _ => .fckCeilingSet m),
  (0x0703, 0, fun m _ _ => .powerQuery m), (0x0801, 2, fun m r _ => .fabricStage m r), (0x0802, 2, fun m r _ => .fabricRoutes m r),
  (0x0803, 2, fun m _ _ => .fabricApply m), (0x0804, 2, fun m _ _ => .linkEnable m), (0x0805, 0, fun m _ _ => .linkState m),
  (0x0901, 0, fun m _ _ => .bulkQuery m), (0x0902, 2, fun m _ _ => .bulkEngineReset m), (0x0A01, 0, fun m _ _ => .counterRead m),
  (0x0A02, 2, fun m _ _ => .counterClear m), (0x0A03, 0, fun m _ _ => .telemetryRead m), (0x0B01, 0, fun m _ _ => .faultRead m),
  (0x0B02, 0, fun m _ _ => .faultInfo m), (0x0C01, 2, fun m r _ => .fwWrite m r), (0x0C02, 2, fun m _ _ => .fwVerify m),
  (0x0C03, 2, fun m _ t => .fwActivate m t), (0x0C04, 2, fun m _ _ => .fwQuery m), (0x0D01, 2, fun m _ _ => .fieldMap m),
  (0x0D02, 2, fun m _ _ => .diagRun m), (0x0D03, 2, fun m _ _ => .diagInject m)]

/-- R286, R295, R301, R302: every message on a channel that its row does not accept completes NOT_OWNER, and one whose handle names nothing
completes OUT_OF_RANGE; a payload read that expires completes TIMEOUT. None has another effect. -/
def Obligations.MessagesAreRefused : Prop := ∀ p ∈ Claims.messageRows, ∀ (s : State) (m : Msg) (rd : DmaRead) (test : SelfTest),
  Next s m p.1 → selfTestOk test = true →
  let accepted := p.2.1 = 0 ∨ p.2.1 = 1 ∧ m.id.src ≠ 1024 ∨ p.2.1 = 2 ∧ (m.id.src = 1024 ∨ m.id.src < 4) ∨ p.2.1 = 3 ∧ m.id.src < 4
  (¬accepted → Goes (p.2.2 m.id rd test) s fun t => Done s s t m 0x0101 []) ∧
  (accepted → sqHandle m.entry = 0xFF → m.live = false → Goes (p.2.2 m.id rd test) s fun t => Done s s t m 0x0202 []) ∧
  (readsPayload p.1 = true → m.id.src < 1024 → Goes (.dmaReadTimeout m.id) s fun t => Done s s t m 0x0501 [])

/-! ### The Milliner's queues and the host ports (R277 to R299, R327 to R350) -/

/-- R288 to R292, R299, R277: doorbells are judged by the ring arithmetic, an entry is fetched with its completions reserved, a moderated
vector falls due, and a standby Milliner takes over with the unreleased entries written again. -/
def Obligations.QueuesAdvance : Prop := ∀ (s : State) (p q : Nat), p < 4 → q < 1024 →
  let x := s.queue q
  let judged (v : BitVec 32) (k : Nat) (ok : Prop) (moved : State → Prop) (t : State) : Prop :=
    (s.ownerOf q ≠ p → t.queues = s.queues ∧ Recorded s t 0x0101 2) ∧
    (s.ownerOf q = p → x.st = .uncreated → t.queues = s.queues ∧ t.log = s.log) ∧
    (s.ownerOf q = p → x.st ≠ .uncreated → s.vigil.phase = .up → (ok → moved t ∧ t.log = s.log) ∧
      (¬ok → t.queue q = { x with st := .halted } ∧ Recorded s t 0x0202 2 ∧ (t.port p).eventCause.getLsbD 3 = true)) ∧
    (s.ownerOf q = p → x.st ≠ .uncreated → s.vigil.phase = .vigil ∨ s.vigil.phase = .waking → t.queues = s.queues ∧
      t.vigil.phase = .waking ∧ t.vigil.latched = s.vigil.latched ++ [(s.now, k, v)])
  (∀ v : BitVec 32,
    let n := v.toNat
    Goes (.sqTailDoorbell p q v) s (judged v q
      (n < 65536 ∧ (n + 65536 - x.h % 65536) % 65536 ≤ 2 ^ x.sqLog2 - 1 ∧ (n + 65536 - x.t % 65536) % 65536 < 32768)
      fun t => ∃ l, t.queue q = { x with t := n, stamps := l }) ∧
    Goes (.cqHeadDoorbell p q v) s (judged v (q + 1024)
      (n < 65536 ∧ (n + 65536 - x.r % 65536) % 65536 ≤ (x.w + 65536 - x.r % 65536) % 65536)
      fun t => ∃ l, t.queue q = { x with r := n, written := l })) ∧
  (s.vigil.phase = .up → s.nextFetch = some q →
    (∀ bs y, 64 ≤ bs.length → msgSpec (sqOp (BitVec.ofNat 512 (leNat (bs.take 64)))) = some y →
      entryOk (BitVec.ofNat 512 (leNat (bs.take 64))) y = true → Goes (.sqEntryFetch q (.ok bs)) s fun t =>
        (∃ l, t.queue q = { x with
          h := (x.h + 1) % 65536, reserved := x.reserved + y.slots, stamps := l
          wraps := if (x.h + 1) % 65536 = 0 then x.wraps + 1 else x.wraps }) ∧
        ∃ m, t.msgs = s.msgs ++ [m] ∧ m.id = ⟨q, x.h⟩ ∧ m.entry = BitVec.ofNat 512 (leNat (bs.take 64)) ∧ m.slots = y.slots ∧
          m.applied = false) ∧
    Goes (.sqEntryFetch q .failed) s fun t => t.queue q = { x with st := .halted } ∧ t.msgs = s.msgs ∧ Recorded s t 0x0501 2) ∧
  (x.unsignalled ≠ 0 → (s.port (s.ownerOf q)).d3 = false → Goes (.interruptModerationTimeout q) s fun t =>
    t.queue q = { x with unsignalled := 0 } ∧
      (Out.msix (s.ownerOf q) q ∈ t.out ∨ q ∈ (t.port (s.ownerOf q)).msixPending)) ∧
  ∀ cause, s.vigil.phase = .up → s.vigil.standby = true → Goes (.millinerFailover cause) s fun t =>
    t.queues = s.queues ∧ t.msgs = s.msgs ∧ t.jobs = s.jobs ∧ t.vigil.standby = false ∧ t.vigil.mset = true ∧ t.vigil.degraded = true ∧
    Recorded s t 0x0601 2 ∧ ∀ k ∈ s.queues, ∀ w ∈ k.2.written, (s.port (s.ownerOf k.1)).d3 = false →
      Out.dma (s.ownerOf k.1) (k.2.cqBase + 32 * w.1) (leBytes 32 w.2.toNat) false false ∈ t.out

/-- R10, R11, R332 to R337, R348, R400: the registers of a port. A read of the low half of VIGIL_TIME latches the high half; a cause is
cleared by writing 1; an unmasked cause or vector is sent; D3hot holds what D0 sends; the admin queue comes up and is torn down, and in VIGIL
its bring-up wakes the unit; doorbells are written through BAR0, and a reserved offset reads as 0. While a reset is held before step 3 of its
start, only UNIT_STATE and VIGIL_TIME read as else. -/
def Obligations.HostRegistersAct : Prop := ∀ (s : State) (p : Nat), p < 4 →
  let x := s.port p
  let powered := s.vigil.phase ≠ .off ∧ (s.port 0).crs = false
  let live := s.vigil.phase = .up ∨ s.vigil.phase = .vigil ∨ s.vigil.phase = .waking ∧ s.vigil.holdReset = false ∧ s.vigil.holdPower = false
  let sent (t : State) (v : Nat) : Prop := Out.msix p v ∈ t.out ∨ v ∈ (t.port p).msixPending ∨ Out.msix p v ∈ (t.port p).held
  (∀ tag, powered → x.d3 = false → Goes (.vigilTimeLowRead p tag) s fun t =>
    (t.port p).timeLatch = s.vigil.vigilTime.extractLsb' 32 32 ∧ Out.cpl p tag (leBytes 4 s.vigil.vigilTime.toNat) false ∈ t.out ∧
    ∀ k, k ≠ p → t.port k = s.port k) ∧
  (∀ v, live → Goes (.eventCauseWrite p v) s fun t => ∀ k,
    t.port k = if k = p then { x with eventCause := x.eventCause &&& ~~~v } else s.port k) ∧
  (∀ v, live → Goes (.eventMaskWrite p v) s fun t => (t.port p).eventMask = v ∧ (t.port p).eventCause = x.eventCause ∧
    (∀ k, k ≠ p → t.port k = s.port k) ∧
    ∀ i < 64, x.eventMask.getLsbD i = true → v.getLsbD i = false → x.eventCause.getLsbD i = true → sent t (1024 + i)) ∧
  (∀ v, v < 1088 → live → x.d3 = false → x.msixEnable = true → x.funcMask = false → s.ownsVector p v = true → v ∈ x.msixPending →
    Goes (.msixUnmask p (.vector v)) s fun t => Out.msix p v ∈ t.out ∧ v ∉ (t.port p).msixPending) ∧
  (powered → Goes (.d3hotEntry p) s fun t => ∀ k, t.port k = if k = p then { x with d3 := true } else s.port k) ∧
  (x.d3 = true → Goes (.d0Return p) s fun t => t.out = s.out ++ x.held ∧
    ∀ k, t.port k = if k = p then { x with d3 := false, held := [] } else s.port k) ∧
  (∀ v : Word, v.getLsbD 16 = true → powered → s.vigil.phase = .up → x.enable = false → (s.queue p).st = .uncreated →
    let sq := v.toNat % 32
    let cq := v.toNat / 256 % 32
    let ok := 4 ≤ sq ∧ sq ≤ 16 ∧ 4 ≤ cq ∧ cq ≤ 16
    Goes (.adminEnable p v) s fun t => (t.port p).enable = true ∧ (t.port p).sqLog2 = sq ∧ (t.port p).cqLog2 = cq ∧
      (ok → (t.port p).err = false ∧ t.queue p = {
        st := .active, gen := (s.queue p).gen, sqBase := x.sqBase.toNat, cqBase := x.cqBase.toNat, sqLog2 := sq, cqLog2 := cq }) ∧
      (¬ok → (t.port p).err = true ∧ t.queue p = s.queue p)) ∧
  (∀ v : Word, v.getLsbD 16 = true → powered → s.vigil.phase = .vigil → x.enable = false → Goes (.adminEnable p v) s fun t =>
    t.vigil.phase = .waking ∧ (t.port p).enable = true ∧ t.queues = s.queues) ∧
  (∀ v : Word, v.getLsbD 16 = false → live → x.enable = true → Goes (.adminDisable p v) s fun t => (t.port p).enable = false ∧
    (∀ k, k ≠ p → t.queue k = s.queue k) ∧
    ((s.queue p).st ≠ .uncreated → t.queue p = { s.queue p with deleting := true })) ∧
  ((s.queue p).deleting = true → x.enable = false → (∀ m ∈ s.msgs, m.id.src ≠ p) → Goes (.adminTeardownComplete p) s fun t =>
    t.queue p = { gen := ((s.queue p).gen + 1) % 65536 } ∧ (t.port p).err = false ∧ ∀ k, k ≠ p → t.queue k = s.queue k) ∧
  (s.vigil.phase = .waking → ¬live → s.barRead p 8 8 = leBytes 8 s.unitState.toNat ∧
    s.barRead p 0x10 8 = leBytes 8 s.vigil.vigilTime.toNat ∧
    ∀ off size, off / 8 ≠ 1 → off / 8 ≠ 2 → s.barRead p off size = List.replicate size 0) ∧
  (∀ v : Word, live →
    (x.enable = false → Goes (.bar0RegisterWrite p 0x30 8 v) s fun t =>
      t.port p = { x with sqBase := v &&& 0xFFFFFFFFFFFFF000#64 } ∧ t.queues = s.queues) ∧
    (powered → ∀ q < 1024, exec (.bar0RegisterWrite p (0x100000 + 8 * q) 4 v) s = exec (.sqTailDoorbell p q (v.extractLsb' 0 32)) s ∧
      exec (.bar0RegisterWrite p (0x100004 + 8 * q) 4 v) s = exec (.cqHeadDoorbell p q (v.extractLsb' 0 32)) s) ∧
    (∀ off size, 0x60 ≤ off → off + size ≤ 0x100000 → s.barRead p off size = List.replicate size 0) ∧
    Goes (.bar0RegisterWrite p 0x3FFFF8 8 v) s fun t => t.port p = { x with
        eventCause := (t.port p).eventCause, msixPending := (t.port p).msixPending, held := (t.port p).held } ∧ t.queues = s.queues ∧
      ((s.counter (portBlock p) 3).val + 1 < 65535 → (t.counter (portBlock p) 3).val = (s.counter (portBlock p) 3).val + 1))

/-- R338 to R345, R271, R272: a window access reaches what its address names: commons of a plan at once, a bank's BU at its next yield point,
a bulk module, an engine's queue, or in command mode a core's FIFO. A write with EP set stores poison, and the port logs it under AER (its
place there is log entry 110). What has no such place is refused, and what cannot be passed on yet is
held at its port, before the port's later accesses (that it is held there is log entry 101). -/
def Obligations.WindowAccessesAct : Prop := ∀ (s : State) (p off : Nat), p < 4 → off < 2 ^ 34 → s.vigil.phase = .up →
  (s.port p).stalled = [] →
  let a := (s.port p).bar2.toNat + off
  let stored (base o : Nat) : Prop := (s.mem.get (base + o / 8)).data = (s.mem.get (base + o / 8)).good ∧ (s.mem.get (base + o / 8)).poison = false
  let merged (base o : Nat) (bs : List (Option Byte)) (t : State) : Prop := (∀ k, k ≠ base + o / 8 → t.mem.get k = s.mem.get k) ∧
    let w := t.mem.get (base + o / 8)
    w.good = w.data ∧ w.poison = false ∧ ∀ i < 8, fld w.data (8 * i) 8 =
      if o % 8 ≤ i ∧ i < o % 8 + bs.length then ((bs.getD (i - o % 8) none).map (·.toNat)).getD (fld (s.mem.get (base + o / 8)).data (8 * i) 8)
      else fld (s.mem.get (base + o / 8)).data (8 * i) 8
  let served (f : Nat) : Prop := (s.field f).health = .healthy
  let answered (tag base o len : Nat) (t : State) : Prop := ∃ bs, Out.cpl p tag bs false ∈ t.out ∧ bs.length = len ∧
    ∀ i < len, (bs.getD i 0).toNat = fld (s.mem.get (base + (o + i) / 8)).data (8 * ((o + i) % 8)) 8
  let few := (s.winReqs.filter fun x => x.port = p).length < 256
  let idle := s.winReqs = [] ∧ (∀ b ∈ s.bus, b.2.queue = []) ∧ (s.port p).d3 = false
  (∀ f o len tag, regionOf a = .commons f o → served f → s.wayPinned f o = true → 0 < len → o % 8 + len ≤ 8 → a % 8 = o % 8 →
    off % 4096 + len ≤ 4096 → idle → stored (commonsAddr f) o → Goes (.windowRead p off len tag) s fun t => t.mem = s.mem ∧
      answered tag (commonsAddr f) o len t) ∧
  (∀ f len tag, regionOf a = .bank f → served f → few → 0 < len → a % 64 + len ≤ 64 → off % 4096 + len ≤ 4096 →
    Goes (.windowRead p off len tag) s fun t => t.mem = s.mem ∧
      let k := a / 8
      let c := k / 0x400000 % 8
      let u := k / 0x8000 % 128
      (∃ y, (t.bu f c u).queue = (s.bu f c u).queue ++ [y] ∧ y.port = p ∧ y.write = false ∧ y.row = k / 8 % 4096 ∧ y.byte = a % 64 ∧
        y.len = len) ∧ ((s.core f c).level = .run ∨ (t.core f c).waking = true)) ∧
  (∀ f len tag, regionOf a = .bank f → (s.field f).health ≠ .healthy → few → 0 < len → off % 4096 + len ≤ 4096 → (s.port p).d3 = false →
    Goes (.windowRead p off len tag) s fun t => Out.unsupported p tag ∈ t.out ∧ t.bus = s.bus ∧ t.mem = s.mem) ∧
  (∀ f o bs, regionOf a = .commons f o → served f → s.wayPinned f o = true → s.streams = [] → 0 < bs.length →
    o % 8 + bs.length ≤ 8 → (∃ b ∈ bs, b.isSome = true) → off % 4096 + bs.length ≤ 4096 → stored (commonsAddr f) o →
    Goes (.windowWrite p off bs false) s (merged (commonsAddr f) o bs)) ∧
  (∀ f o bs, regionOf a = .commons f o → served f → s.wayPinned f o = true → s.streams = [] → bs.length = 8 → o % 8 = 0 →
    (∀ b ∈ bs, b.isSome = true) → off % 4096 + 8 ≤ 4096 → Goes (.windowWrite p off bs true) s fun t =>
      (t.mem.get (commonsAddr f + o / 8)).poison = true ∧ (t.port p).conf.uncorrectable.getLsbD 12 = true) ∧
  (∀ m o bs, regionOf a = .bulk m o → s.slotUp m = true → (s.slot m).st = .active → 0 < bs.length → o % 8 + bs.length ≤ 8 →
    (∃ b ∈ bs, b.isSome = true) → off % 4096 + bs.length ≤ 4096 → stored (bulkAddr m) o →
    Goes (.hostBulkAccess p off (.write bs false)) s (merged (bulkAddr m) o bs)) ∧
  (∀ m o len tag, regionOf a = .bulk m o → s.slotUp m = true → (s.slot m).st = .active → 0 < len → o % 8 + len ≤ 8 → a % 8 = o % 8 →
    off % 4096 + len ≤ 4096 → idle → stored (bulkAddr m) o → Goes (.hostBulkAccess p off (.read len tag)) s fun t => t.mem = s.mem ∧
      answered tag (bulkAddr m) o len t) ∧
  (∀ f o w, regionOf a = .command f o → served f → o % 8 = 0 → cmdAddrOk o = true → commandOk w = true → off % 4096 + 8 ≤ 4096 →
    let c := o / 2 ^ 21 % 8
    let bu := if o / 2 ^ 20 % 2 = 1 then none else some (o / 2 ^ 13 % 128)
    let bs := (leBytes 8 w.toNat).map some
    ((s.field f).cmdMode = none → Goes (.commandWordWrite p off bs) s fun t => t.mem = s.mem ∧ t.bus = s.bus ∧ t.cores = s.cores ∧
      Recorded s t 0x0202 2) ∧
    ((s.field f).cmdMode ≠ none → (s.core f c).fifo.length < 64 → Goes (.commandWordWrite p off bs) s fun t => t.mem = s.mem ∧
      t.bus = s.bus ∧ (t.core f c).fifo = (s.core f c).fifo ++ [{ port := p, bu, w }] ∧ t.log = s.log) ∧
    ((s.field f).cmdMode ≠ none → (s.core f c).fifo.length = 64 → Goes (.commandWordWrite p off bs) s fun t => t.mem = s.mem ∧
      t.cores = s.cores ∧ (t.port p).stalled = [{ write := true, addr := a, bytes := bs }])) ∧
  (∀ m o bs ep, regionOf a = .bulk m o → s.slotUp m = true → (s.slot m).st ≠ .active → 0 < bs.length → bs.length ≤ 512 →
    off % 4096 + bs.length ≤ 4096 → Goes (.hostBulkAccess p off (.write bs ep)) s fun t => t.mem = s.mem ∧ t.slots = s.slots ∧
      (t.port p).stalled = [{ write := true, addr := a, bytes := bs, ep }]) ∧
  ∀ m e w, m < 16 → e < 8 → s.slotUp m = true → (s.slot m).st = .active → engWordOk w = true →
    let at_ := 0xC80000000 + m * 0x10000 + e * 0x1000
    ((s.slot m).holder = none → (s.engine m e).queue.length < 64 → Goes (.bulkEngineWordWrite p at_ w) s fun t => t.mem = s.mem ∧
      (t.engine m e).queue = (s.engine m e).queue ++ [(w, none)] ∧ t.log = s.log) ∧
    ((s.slot m).holder ≠ none → Goes (.bulkEngineWordWrite p at_ w) s fun t => t.mem = s.mem ∧
      t.engine m e = { s.engine m e with err := true } ∧ Recorded s t 0x0101 2)

/-! ### Near-memory engines (R269, R270, Table 11-5) -/

/-- R269, R270, Table 11-5: every engine word takes its place at the front of its queue, does what the table says to its register, pointer or
lines, and is counted; no other engine, and but for STORE no word of memory, changes. DOT takes its y lines from the vector buffer where that
holds them. -/
def Obligations.EngineWordsExecute : Prop := ∀ (s : State) (m e : Nat) (w : Word) (who : Option (Nat × Nat × Nat))
    (rest : List (Word × Option (Nat × Nat × Nat))),
  m < 16 → e < 8 → (s.slot m).present = true → engWordOk w = true → (s.engine m e).queue = (w, who) :: rest →
  let g := s.engine m e
  let op := w.toNat / 2 ^ 56
  let d := w.toNat / 2 ^ 51 % 32
  let a := w.toNat / 2 ^ 46 % 32
  let imm := w.toNat % 2 ^ 28
  let clamp48 (v : Int) : Int := max (-(2 ^ 47 : Nat)) (min ((2 ^ 47 : Nat) - 1) v)
  let others (t : State) : Prop := t = { s with
      slots := t.slots, mem := t.mem, out := t.out, bus := t.bus, ports := t.ports, log := t.log, counters := t.counters } ∧
    ∀ i j, ¬(i = m ∧ j = e) → t.engine i j = s.engine i j
  let only (h : Engine) (t : State) : Prop := t = { s with slots := t.slots } ∧ others t ∧
    t.engine m e = { h with queue := rest, done := g.done + 1 }
  let takes (v : Int) (p : Bool) (t : State) : Prop := ∃ rs, only { g with regs := rs } t ∧ (∀ k, k ≠ d → (t.engine m e).reg k = g.reg k) ∧
    ((t.engine m e).reg d).val.toInt = clamp48 v ∧ ((t.engine m e).reg d).sat = ((g.reg d).sat || decide (clamp48 v ≠ v)) ∧
    ((t.engine m e).reg d).poison = p
  let n := imm % 16 + 1
  let size := if w.toNat / 2 ^ 42 % 4 = 0 then 2 else 1
  let elt (base : Nat) (sg : Bool) (i : Nat) : Int :=
    let v := fld (s.mem.get (chanWord m e (base + i * size / 64) (i * size / 8 % 8))).data (8 * size * (i % (8 / size))) (8 * size)
    if sg then signed (8 * size) v else v
  let sane (base k : Nat) : Prop := ∀ i < 8 * k, let x := s.mem.get (chanWord m e (base + i / 8) (i % 8)); x.data = x.good
  let lines := (imm * size + 63) / 64
  let py := g.py.toNat
  let held := imm * size ≤ 8192 ∧ g.bufLine ≤ py ∧ py + lines ≤ g.bufLine + g.bufLen
  let held? := decide held
  let y (sg : Bool) (i : Nat) : Int :=
    let v := fld (Sparse.get (0, 0) g.buf (py + i * size / 64)).1 (8 * size * (i % (64 / size))) (8 * size)
    if held? then (if sg then signed (8 * size) v else v) else elt py sg i
  let last := s.mem.get (chanWord m e g.pz.toNat (n / 2))
  let small (r : EngReg) : Int := max (-2147483648) (min 2147483647 r.val.toInt)
  (op = 0x01 → Goes (.engZero m e w) s fun t => ∃ rs, only { g with regs := rs } t ∧
    ∀ k, (t.engine m e).reg k = if k = d then {} else g.reg k) ∧
  (op = 0x02 → Goes (.engSeti m e w) s (takes (signed 28 imm) false)) ∧
  (op = 0x04 → Goes (.engAdd m e w) s (takes ((g.reg d).val.toInt + (g.reg a).val.toInt) ((g.reg d).poison || (g.reg a).poison))) ∧
  (op = 0x05 → Goes (.engShr m e w) s (takes (roundShift (g.reg d).val.toInt imm 0 0) (g.reg d).poison)) ∧
  (op = 0x08 → Goes (.engPtrx m e w) s (only { g with px := BitVec.ofNat 28 imm })) ∧
  (op = 0x09 → Goes (.engPtry m e w) s (only { g with py := BitVec.ofNat 28 imm })) ∧
  (op = 0x0A → Goes (.engPtrz m e w) s (only { g with pz := BitVec.ofNat 28 imm })) ∧
  (op = 0x03 → sane g.px.toNat lines → held ∨ sane py lines → Goes (.engDot m e w) s fun t => others t ∧ t.mem = s.mem ∧
    (t.engine m e).queue = rest ∧ (t.engine m e).done = g.done + 1 ∧ (t.engine m e).px = g.px + BitVec.ofNat 28 lines ∧
    (t.engine m e).py = g.py ∧ (t.engine m e).pz = g.pz ∧ (∀ k, k ≠ d → (t.engine m e).reg k = g.reg k) ∧
    ((t.engine m e).reg d).val.toInt = clamp48 ((g.reg d).val.toInt +
      ((List.range imm).map fun i => elt g.px.toNat (w.getLsbD 44) i * y (w.getLsbD 45) i).sum)) ∧
  (op = 0x06 → (n % 2 = 1 → last.data = last.good ∧ last.poison = false) → Goes (.engStore m e w) s fun t => others t ∧
    t.engine m e = { g with queue := rest, done := g.done + 1, pz := g.pz + 1 } ∧
    (∀ i < n, (fld (t.mem.get (chanWord m e g.pz.toNat (i / 2))).data (32 * (i % 2)) 32 : Int) = small (g.reg (d + i)) % (2 ^ 32 : Nat)) ∧
    ∀ x, (∀ i < (n + 1) / 2, x ≠ chanWord m e g.pz.toNat i) → t.mem.get x = s.mem.get x)

/-! ### Moves and reductions (R126 to R129, R252 to R255, R265 to R273) -/

/-- R265 to R268, R252, R273, R274: what each kind of MOVE makes of its source: packets to another field, messages to another unit, a copy to
or from a module, or words for its engines. A pass whose module link is down, or to whose module no way leads, starts and waits; one whose
slot is empty or fenced ends its job with LINK_LOST. -/
def Obligations.MovesAct : Prop := ∀ (s : State) (f c : Nat) (wp : WinPass) (a b : Nat → Nat), Alone s f c wp 9 → wp.done = false →
  let d := wp.desc
  let n := Desc.mvLen d / 64
  let src := moveSrc d
  let dst := moveDst d
  let word (i : Nat) : Word := (s.mem.get (a (i / 8) + i % 8)).data
  let clean := ∀ i < n, s.endpoint wp.plan src i = some (a i) ∧
    ∀ k < 8, (s.mem.get (a i + k)).data = (s.mem.get (a i + k)).good ∧ (s.mem.get (a i + k)).poison = false
  let target := ∀ i < n, s.endpoint wp.plan dst i = some (b i)
  let ran (done : Bool) (t : State) : Prop := ∃ x, (t.core f c).window = [x] ∧ x.serial = wp.serial ∧ x.started = true ∧
    x.issued = true ∧ x.done = done ∧ x.fault = none
  let lost (t : State) : Prop := ∀ j, s.job wp.job = some j → j.isEnded = false → ∃ x, t.job wp.job = some x ∧ x.st = .ended 0x0502 ∧
    x.failField = some f ∧ x.failCore = some c ∧ x.failPass = wp.idx
  let m := if Desc.mvKind d = 4 then fld dst 45 4 else moveSlot d
  let active := s.slotUp m = true ∧ (s.slot m).st = .active
  let engineWay := s.brimCutFrom (faField src) (slotSegment m) = false
  (Desc.mvKind d = 1 → clean → target → Goes (.moveField f c 0) s fun t => ran true t ∧ t.mem = s.mem ∧ t.jobs = s.jobs ∧
    ∃ ps, t.mesh.packets = s.mesh.packets ++ ps ∧
      (ps.map (·.writes)).flatten = (List.range (8 * n)).map (fun i => (b (i / 8) + i % 8, word i, false)) ∧
      ∀ p ∈ ps, p.cls = .d ∧ p.src = faField src ∧ p.dst = faField dst ∧ p.job = wp.job ∧ p.idx = wp.idx ∧ p.writes.length ≤ 512) ∧
  (Desc.mvKind d = 2 → clean → Goes (.moveFabric f c 0) s fun t => ran true t ∧ t.mem = s.mem ∧
    ∃ ws, t.mesh.awaited = s.mesh.awaited ++ ws ∧
      (ws.map (·.msg.words)).flatten = (List.range (8 * n)).map (fun i => (word i, false)) ∧
      ∀ x ∈ ws, x.field = f ∧ x.core = c ∧ x.job = wp.job ∧ x.idx = wp.idx ∧ x.notReady = false ∧ x.msg.kind = 1 ∧ x.msg.words.length ≤ 8192) ∧
  (Desc.mvKind d = 3 → s.slotUp m = false → Goes (.bulkCopy f c 0) s lost) ∧
  (Desc.mvKind d = 3 → s.slotUp m = true → (s.slot m).st ≠ .active ∨ s.moveCut d = true → Goes (.bulkCopy f c 0) s fun t =>
    ran false t ∧ t.mem = s.mem) ∧
  (Desc.mvKind d = 3 → active → s.moveCut d = false → faRegion src = 2 ∧ (s.slot m).waiting = [] ∧ (s.slot m).frameRoom = true ∨
      faRegion src ≠ 2 ∧ faRegion dst = 2 → clean → target → (∀ i < n, ∀ j < n, i ≠ j → b i + 8 ≤ b j ∨ b j + 8 ≤ b i) →
    Goes (.bulkCopy f c 0) s fun t => ran true t ∧
      (∀ i < 8 * n, t.mem.get (b (i / 8) + i % 8) = { data := word i, good := word i }) ∧
      ∀ x, (∀ i < n, x < b i ∨ b i + 8 ≤ x) → t.mem.get x = s.mem.get x) ∧
  (Desc.mvKind d = 4 → s.slotUp m = false → Goes (.bulkEngine f c 0) s lost) ∧
  (Desc.mvKind d = 4 → s.slotUp m = true → (s.slot m).st ≠ .active ∨ ¬engineWay ∨
      (∃ q, (s.slot m).holder = some q ∧ q ≠ (f, c, wp.serial)) → Goes (.bulkEngine f c 0) s fun t => ran false t ∧ t.mem = s.mem) ∧
  (∀ e, Desc.mvKind d = 4 → active → engineWay → clean → (s.slot m).holder = none → moveEngine d = some e → e < 8 →
    (∀ i < 8 * n, engWordOk (word i) = true) → (s.engine m e).queue.length + 8 * n ≤ 64 → Goes (.bulkEngine f c 0) s fun t =>
      ran true t ∧ t.mem = s.mem ∧ (t.slot m).holder = some (f, c, wp.serial) ∧
      (t.engine m e).queue = (s.engine m e).queue ++ (List.range (8 * n)).map fun i => (word i, some (f, c, wp.serial)))

/-- R126, R127, R254: at its node a participant of odd rank sends its group's words, in packets at the levels of cores and of fields and in
messages at the level of units; one of even rank with a partner waits; and one alone at its level is done. A node that holds both operands
keeps, in every slot of a group that stays open, their clamped sum with both flags. -/
def Obligations.ReductionsAct : Prop := ∀ (s : State) (f c : Nat) (wp : WinPass),
  let d := wp.desc
  let lvl := Desc.rdLevel d
  let g (u : Nat) : Group := (s.bu f c u).group (Desc.grp d)
  let ps := if lvl = 0 then (List.range 8).filter fun i => (Desc.rdCores d).testBit i
    else if lvl = 1 then (List.range 96).filter fun i => (Desc.rdFields d).testBit i else (List.range (Desc.rdUnits d)).map (Desc.rdFirst d + ·)
  let me := if lvl = 0 then c else if lvl = 1 then f else s.ordinal
  let sound := ∀ u < 128, ∀ i, ((s.bu f c u).accWord i).data = ((s.bu f c u).accWord i).good
  let words := (List.range 128).map fun u => (u, (groupWords (g u)).map (s.bu f c u).accWord)
  (∀ r, Alone s f c wp 6 → lvl ≤ 2 → ps[r]? = some me → wp.round = 0 → wp.done = false → sound → (∀ u < 128, (g u).isOpen = true) →
    let node := ps.getD (r - 1) 0
    (r % 2 = 1 → lvl ≤ 1 → Goes (.reducePass f c 0) s fun t => t.mem = s.mem ∧
      (∃ qs : List Packet, t.mesh.packets = s.mesh.packets ++ qs ∧
        (∀ p ∈ qs, ∃ o, p.operand = some o ∧ p.dst = (if lvl = 0 then f else node) ∧ o.job = wp.job ∧ o.field = p.dst ∧
          o.core = (if lvl = 0 then node else 0xFF) ∧ o.level = lvl ∧ o.round = 0) ∧
        (qs.map fun p => match p.operand with | some o => o.words | none => []).flatten = words) ∧
      ∃ x, (t.core f c).window = [x] ∧ x.serial = wp.serial ∧ x.done = true) ∧
    (r % 2 = 1 → lvl = 2 → node ≠ s.ordinal → (s.routeEntry node).getLsbD 116 = true → Goes (.reducePass f c 0) s fun t => t.mem = s.mem ∧
      (∃ ms : List FabMsg, t.mesh.msgs = s.mesh.msgs ++ ms ∧ (ms.map (·.words)).flatten = operandData (g 0).pair words ∧
        ∀ x ∈ ms, x.kind = 2 ∧ x.tag = Config.jobTag wp.job ∧ x.src = s.ordinal ∧ x.round = 0 ∧ faOrdinal x.addr = node % 32768) ∧
      ∃ x, (t.core f c).window = [x] ∧ x.serial = wp.serial ∧ x.done = true) ∧
    (r % 2 = 0 → r + 1 < ps.length → Goes (.reducePass f c 0) s fun t => t = { s with cores := t.cores } ∧
        (t.core f c).window = [{ wp with started := true, issued := true }]) ∧
    (ps.length = 1 → Desc.dest d = 0 → Goes (.reducePass f c 0) s fun t => t.mem = s.mem ∧ t.bus = s.bus ∧ t.mesh = s.mesh ∧
      ∃ x, (t.core f c).window = [x] ∧ x.serial = wp.serial ∧ x.started = true ∧ x.done = true)) ∧
  (∀ r o k v, f < 96 → c < 8 → (s.core f c).window = [wp] → Desc.kind d = 6 → lvl ≤ 1 → wp.started = true → wp.done = false →
    wp.fault = none → sound → ps[r]? = some me → wp.round = 0 → r % 2 = 0 → r + 1 < ps.length → s.mesh.operands = [o] →
    o.job = wp.job → o.level = lvl → o.ordinal = s.reduceOrdinal f wp → o.round = 0 → o.field = f → (lvl = 0 → o.core = c) →
    o.parts = (if lvl = 0 then Desc.rdCores d else Desc.rdFields d) →
    (∀ u < 128, (g u).isOpen = true ∧ (g u).pair = false ∧ (g u).csel = 0 ∧ (g u).base + (g u).count ≤ 64 ∧ (g u).base = k ∧ (g u).count = v) →
    (∃ ow : Nat → List AccWord, o.words = (List.range 128).map (fun u => (u, ow u)) ∧ ∀ u < 128, (ow u).length = 16 * v) →
    Goes (.reduceNodeCombine f c 0) s fun t => (Desc.dest d = 0 → t.mem = s.mem) ∧ t.mesh.operands = [] ∧
      (ps.length = 2 → Desc.dest d = 0 → ∀ u < 128, ((t.bu f c u).group (Desc.grp d)).isOpen = true) ∧
      ∀ u < 128, ((t.bu f c u).group (Desc.grp d)).isOpen = true → ∀ i < v, ∀ l < 16, ∀ ow, (o.words.find? (·.1 = u)).map (·.2) = some ow →
        let x := (s.bu f c u).slot false (k + i) l
        let y := (ow.getD (16 * i + l) {}).slot false 0
        (t.bu f c u).slot false (k + i) l = { added false x y.val y.poison with
          sat := (added false x y.val y.poison).sat || y.sat })

/-- R129, R253, R255, R268: the end of a wait. A REDUCE whose partner's operand has not come to its node, whichever of its rows reports it;
packets of a pass that are not in their places; a message to another unit that is not acknowledged; a copy whose module does not answer:
each ends its job at its pass with TIMEOUT and a record, or where its path is down with LINK_LOST and a second record. -/
def Obligations.WaitsExpire : Prop := ∀ (s : State) (f c idx : Nat) (h : Word) (j : Job), f < 96 → c < 8 → idx < 65536 →
  s.job h = some j → j.isEnded = false → j.paused = false →
  let ends (down : Prop) (t : State) : Prop := (∃ x, t.job h = some x ∧ x.failField = some f ∧ x.failCore = some c ∧ x.failPass = idx ∧
      (¬down → x.st = .ended 0x0501) ∧ (down → x.st = .ended 0x0502)) ∧
    (¬down → t.log.next = s.log.next + 1) ∧ (down → t.log.next = s.log.next + 2)
  (∀ (wp : WinPass) (p k : Nat), (s.core f c).window = [wp] → wp.job = h → wp.idx = idx → wp.started = true → wp.done = false →
    wp.fault = none → Desc.kind wp.desc = 6 → s.reduceStep f c wp = .wait p k → s.operandFor f c wp p k = none →
    let peer := (reduceParts wp.desc).getD p 0
    (Desc.rdLevel wp.desc = 0 → Goes (.reduceTimeout f c 0) s (ends False) ∧ Goes (.unitTimeout f c idx) s (ends False)) ∧
    (Desc.rdLevel wp.desc = 1 → Goes (.reduceTimeout f c 0) s (ends (s.pathDown peer f = true)) ∧
      Goes (.unitTimeout f c idx) s (ends (s.pathDown peer f = true))) ∧
    (Desc.rdLevel wp.desc = 2 → Goes (.reduceTimeout f c 0) s (ends ((s.brim (fld (s.routeEntry peer) 0 6)).st ≠ .active)) ∧
      Goes (.fabricTimeout f c idx) s (ends ((s.brim (fld (s.routeEntry peer) 0 6)).st ≠ .active)))) ∧
  (∀ (p : Packet) (n : Nat), s.mesh.packets = [p] → p.who = some (f, c, n) → p.idx = idx → p.job = h →
    (∀ w ∈ (s.core f c).window, w.idx ≠ idx) →
    Goes (.unitTimeout f c idx) s fun t => ends (s.pathDown p.src p.dst = true) t ∧ t.mesh.packets = []) ∧
  (∀ a : Awaited, s.mesh.awaited = [a] → a.field = f → a.core = c → a.idx = idx → a.job = h → (∀ w ∈ (s.core f c).window, w.idx ≠ idx) →
    Goes (.fabricTimeout f c idx) s fun t => ends ((s.brim (fld (s.routeEntry (faOrdinal a.msg.addr)) 0 6)).st ≠ .active) t ∧
      t.mesh.awaited = []) ∧
  ∀ wp : WinPass, (s.core f c).window = [wp] → wp.job = h → wp.idx = idx → wp.started = true → wp.done = false → wp.fault = none →
    Desc.kind wp.desc = 9 → Desc.mvKind wp.desc = 3 →
    Goes (.bulkCopyTimeout f c 0) s (ends ((s.slot (moveSlot wp.desc)).st ≠ .active))

/-! ### Power, heat and the guarded inputs (R375 to R383, R392 to R395, R438 to R448) -/

/-- R378, R379, R381, R224, R376, R377, R375: an idle core goes to retain, keeping its rows, or to off, where they read 0, and its
registers are lost; the hold after a window access ends first; an edge unit goes to retain; a waking domain reaches run, but none without an
image or after a UNIT_FATAL fault (R402, R436); the FCK step
follows the limits; a repeater without an edge holds over, and the one that feeds it has failed. -/
def Obligations.DomainsSleepAndWake : Prop := ∀ (s : State) (f c : Nat), f < 96 → c < 8 →
  let k := s.core f c
  let lo := rowAddr f c 0 0
  (k.level = .run → s.coreQuiet f c = true → k.pinnedBy = [] → Goes (.coreIdleHoldExpiry f c) s fun t =>
    (t.core f c).level = (if s.holdsRows f then .retain else .off) ∧ (t.core f c).predictor = [] ∧
    (∀ u < 128, (t.bu f c u).planes = [] ∧ (t.bu f c u).acc = [] ∧ (t.bu f c u).scalars = [] ∧ (t.bu f c u).epoch.isSome = true) ∧
    (∀ g d, d < 8 → ¬(g = f ∧ d = c) → t.core g d = s.core g d) ∧ (∀ a, a < lo ∨ lo + 0x400000 ≤ a → t.mem.get a = s.mem.get a) ∧
    ∀ a, lo ≤ a → a < lo + 0x400000 → t.mem.get a = if s.holdsRows f then s.mem.get a else {}) ∧
  (k.level = .run → s.coreQuiet f c = true → 1 ∈ k.pinnedBy → Goes (.coreIdleHoldExpiry f c) s fun t => t.mem = s.mem ∧ t.bus = s.bus ∧
    t.core f c = { k with pinnedBy := k.pinnedBy.filter (· ≠ 1) }) ∧
  ((s.edge f).level = .run → (s.edge f).postings = [] → (s.edge f).pinnedBy = [] → Goes (.edgeIdleHoldExpiry f) s fun t =>
    (t.edge f).level = .retain ∧ (t.edge f).v = [] ∧ ∀ g, g ≠ f → t.edge g = s.edge g) ∧
  (s.vigil.noFirmware = none → s.vigil.faultHold = none →
    (k.waking = true → Goes (.domainWakeComplete (.core f c)) s fun t => t.core f c = { k with level := .run, waking := false }) ∧
    ((s.edge f).waking = true → Goes (.domainWakeComplete (.edge f)) s fun t =>
      t.edge f = { s.edge f with level := .run, waking := false }) ∧
    ((s.field f).serviceWaking = true → Goes (.domainWakeComplete (.service f)) s fun t =>
      t.field f = { s.field f with service := .run, serviceWaking := false })) ∧
  (s.vigil.noFirmware ≠ none ∨ s.vigil.faultHold ≠ none → ∀ d, domainExists d = true → Goes (.domainWakeComplete d) s fun t =>
    t.cores = s.cores ∧ t.fields = s.fields ∧ t.edges = s.edges) ∧
  (Goes .fckStepChange s fun t => t.vigil.fckStep = s.effFck ∧ t.requests = s.requests ∧ t.limits = s.limits) ∧
  ∀ row col, physExists row col = true → Goes (.vckEdgeLoss row col) s fun t => (row, col) ∈ t.vigil.vckHoldover ∧
    ∀ q, vckParent (vckTree s.vigil.vckFailed s.vigil.vckRoot) (row, col) = some q → q ∈ t.vigil.vckFailed ∧ t.vigil.degraded = true

/-- R394, R440, R442, R444, R447: each report sets the limits that the unit imposes as its table gives them, never below 2,000 lanterns nor
below the standing reserve and the reservations, and changes no other limit. -/
def Obligations.LimitsFollowReports : Prop := ∀ (s : State),
  let l := s.limits
  let floor := max 2000 (1536 + ((List.range 96).map fun f => (s.field f).reserved).sum)
  let cut (n : Option Nat) : Option Nat := some (min (n.getD 20000) (max floor (n.getD 20000 - 1000)))
  let grow (n : Option Nat) : Option Nat := n.bind fun k => if 20000 ≤ k + 1000 then none else some (k + 1000)
  let hot (s : State) (d : Int) : Prop := ∃ g < 96, (s.field g).health ≠ .lost ∧ 16 * d ≤ (s.field g).temp
  let cool (s : State) (d : Int) : Prop := ∀ g < 96, (s.field g).health ≠ .lost → (s.field g).temp ≤ 16 * d
  let hotWith (f : Nat) (v : Int) : Prop := ∃ g < 96, (s.field g).health ≠ .lost ∧ 16 * 95 ≤ if g = f then v else (s.field g).temp
  let gets (x : Limits) (t : State) : Prop := t.limits = x
  let held (hold : Bool) (req cur : Option Nat) (out : Option Nat) : Prop :=
    (hold = true → out = req) ∧ (hold = false → ∀ r, req = some r → out = some (min r (cur.getD r))) ∧ (hold = false → req = none → out = cur)
  (∀ f v, f < 96 → Goes (.thermalReport f v) s fun t => (t.field f).temp = v ∧
    (hotWith f v → ¬hot s 95 → t.limits = { l with heatPool := cut l.heatPool }) ∧ (¬hotWith f v ∨ hot s 95 → t.limits = l)) ∧
  (hot s 95 → Goes (.thermalLimitTimer .shrink) s (gets { l with heatPool := cut l.heatPool })) ∧
  (hot s 100 → Goes (.thermalLimitTimer .ceiling) s (gets { l with heatFck := some (l.heatFck.getD 4 - 1) })) ∧
  (cool s 90 → Goes (.thermalLimitTimer .recoverPool) s (gets { l with heatPool := grow l.heatPool })) ∧
  (cool s 90 → l.heatPool = none → Goes (.thermalLimitTimer .recoverCeiling) s fun t =>
    gets { l with heatFck := l.heatFck.bind fun n => if 4 ≤ n + 1 then none else some (n + 1) } t) ∧
  (∀ mv, Goes (.busUndervoltage mv) s fun t => t.sensors.busMv = mv ∧ (mv < 40000 ∨ 58000 < mv → t.limits = l) ∧
    (44000 ≤ mv → mv ≤ 58000 → t.limits = { l with busPool := none, busFck := none }) ∧
    (42000 ≤ mv → mv < 44000 → t.limits = { l with busPool := some (max 10000 floor) } ∧ (1, 0xFF, 0xFF) ∈ t.sensors.out) ∧
    (40000 ≤ mv → mv < 42000 → t.limits = { l with busPool := some (max 10000 floor), busFck := some 0 } ∧
      (1, 0xFF, 0xFF) ∈ t.sensors.out)) ∧
  (∀ w, Goes (.inputPowerExcess w) s fun t => t.sensors.watts = w ∧
    (24000 < w → t.limits = { l with powerPool := cut l.powerPool } ∧ (2, 0xFF, 0xFF) ∈ t.sensors.out) ∧
    (22000 < w → w ≤ 24000 → t.limits = l) ∧ (w ≤ 22000 → t.limits = { l with powerPool := grow l.powerPool })) ∧
  (∀ flow slow hold,
    let q := flow.getD 150
    Goes (.coolantFlowSample flow slow hold) s fun t => t.sensors.flow = q ∧
      t.limits = { l with flowPool := t.limits.flowPool, flowFck := t.limits.flowFck } ∧
      held hold (if q < 300 then some (max (1000 * (q / 15)) floor) else none) l.flowPool t.limits.flowPool ∧
      held hold (if q < 100 ∧ slow = true then some 0 else none) l.flowFck t.limits.flowFck ∧
      (q < 300 → (6, 0xFF, 0xFF) ∈ t.sensors.out)) ∧
  (∀ temp hold,
    let q : Int := temp.getD 720
    Goes (.coolantInletSample temp hold) s fun t => t.sensors.inlet = q ∧ t.limits = { l with inletPool := t.limits.inletPool } ∧
      held hold (if 640 < q then some (max (20000 - 2000 * (((q - 640).toNat + 15) / 16)) floor) else none) l.inletPool t.limits.inletPool ∧
      (q < 320 ∨ 640 < q → (5, 0xFF, 0xFF) ∈ t.sensors.out)) ∧
  (Goes .leakDetect s fun t => t.sensors.leak = true ∧ (7, 0xFF, 0xFF) ∈ t.sensors.out ∧
    ((7, 0xFF, 0xFF) ∉ s.sensors.out → Recorded s t 0x0202 2) ∧ t.limits = l) ∧
  (Goes .leakClear s fun t => t.sensors.leak = false ∧ (7, 0xFF, 0xFF) ∉ t.sensors.out ∧
    ((7, 0xFF, 0xFF) ∈ s.sensors.out → Recorded s t 0x0202 1) ∧ t.limits = l)

/-! ### Resets and power (R349, R350, R397 to R414, R441, R443, R449) -/

/-- R295, R382, R399, R400, R411, R443, R449: RESET_L, and a supply that fails above 30 V, end everything and hold the start; once neither
holds it the unit starts, and ends in HELD with no plan. In VIGIL, RESET_L discards what was retained. A wake keeps the configuration and
the queue pairs that VIGIL kept, unless its image is gone: that wake is a cold start. A supply below 30 V, and none for the Vigil domain,
leave the unit OFF with flash alone. A power fail leaves the record copy that is being written torn; RESET_L lets the write end (log
entry 122). -/
def Sys2Proof.Claims.ResetsAct : Prop := ∀ (s : State) (test : SelfTest), selfTestOk test = true →
  let v := s.vigil
  let ended (t : State) : Prop := t.msgs = [] ∧ t.jobs = [] ∧ t.plans = [] ∧ t.streams = [] ∧ t.counters = [] ∧ t.active = none ∧
    t.winReqs = [] ∧ ∀ q, (t.queue q).st = .uncreated
  let cut (t : State) : Prop := if s.record.writing = none then t.record = s.record
    else (t.record.torn = some 0 ∨ t.record.torn = some 1) ∧ t.record.writing = none ∧ t.record.persisted = s.record.persisted
  let gone (t : State) : Prop := t.vigil.phase = .off ∧ ended t ∧ t.mem = {} ∧ t.fw = s.fw ∧ cut t ∧ t.log = {}
  let started (t : State) : Prop := t.vigil.phase = .up ∧ t.stateCode = 3
  (v.phase = .up → Goes .resetLAssert s fun t => t.vigil.resetLow = true ∧ ended t ∧ t.vigil.phase = .waking ∧ t.vigil.holdReset = true ∧
    t.fw = s.fw ∧ Written s t) ∧
  (v.phase = .waking → Goes .resetLAssert s fun t => t.vigil.resetLow = true ∧ t.vigil.phase = .waking ∧ t.vigil.holdReset = true ∧
    t.fw = s.fw) ∧
  (v.phase = .vigil → Goes .resetLAssert s fun t => t.vigil.resetLow = true ∧ t.vigil.phase = .vigil ∧ t.active = none ∧ t.log = {} ∧
    t.vigil.retention = true ∧ ∀ q, (t.queue q).st = .uncreated) ∧
  (v.phase = .off → Goes .resetLAssert s fun t => t.vigil.resetLow = true ∧ t.vigil.phase = .off) ∧
  (v.holdReset = true → v.holdPower = false → Goes (.resetLRelease test) s fun t => started t ∧ t.vigil.resetLow = false ∧
    t.vigil.holdReset = false ∧ t.plans = []) ∧
  (v.holdReset = false ∨ v.holdPower = true → Goes (.resetLRelease test) s fun t => t.vigil.phase = v.phase ∧ t.vigil.resetLow = false ∧
    t.vigil.holdReset = false) ∧
  (v.phase = .off → s.plans = [] → v.resetLow = false → Goes (.powerGood test) s started) ∧
  (v.phase = .off → v.resetLow = true → Goes (.powerGood test) s fun t => t.vigil.phase = .waking ∧ t.vigil.holdReset = true ∧
    t.vigil.vigilTime = 0 ∧ ∀ p < 4, (t.port p).crs = true) ∧
  (v.phase = .waking → v.holdPower = true → s.plans = [] → v.holdReset = false → v.resetLow = false → Goes (.powerGood test) s fun t =>
    started t ∧ t.vigil.holdPower = false) ∧
  (v.phase = .waking → v.holdPower = true → v.holdReset = true ∨ v.resetLow = true → Goes (.powerGood test) s fun t =>
    t.vigil.phase = .waking ∧ t.vigil.holdPower = false ∧ t.vigil.holdReset = true) ∧
  (∀ mv, v.phase ≠ .off → mv < 30000 → Goes (.powerFail mv) s gone) ∧
  (∀ mv, v.phase ≠ .off → 30000 ≤ mv → Goes (.powerFail mv) s fun t => ended t ∧ t.vigil.phase = .waking ∧ t.vigil.holdPower = true ∧
    t.fw = s.fw ∧ cut t) ∧
  (Goes .vigilSupplyLoss s gone) ∧
  (v.phase = .waking → v.holdReset = false → v.holdPower = false →
    (v.retention = false → Goes (.unitWake test true) s fun t => t.vigil.phase = .up ∧ t.vigil.latched = [] ∧ t.active = s.active ∧
      (v.latched = [] → t.counters = [] ∧ ∀ q, 4 ≤ q → t.queue q = s.queue q)) ∧
    Goes (.unitWake test false) s started)

/-- R349, R350, R414: the four resets of a port are one: its registers return to reset, its queue pairs are uncreated and keep their port,
reads through it are discarded, its messages, its jobs and its staged configurations are gone, and what it asked of shared limits is unset;
a DIAG_RUN of it runs on, without a completion, and so does a record write (log entry 122). The other ports stay, and but for what an edge unit abandons, memory. -/
def Sys2Proof.Claims.PortResetsAct : Prop := ∀ (s : State) (p : Nat), p < 4 → s.vigil.phase ≠ .off →
  let mine (q : Nat) : Prop := q < 1024 ∧ s.ownerOf q = p
  let after (t : State) : Prop := ((∀ g, (s.edge g).postings = []) → t.mem = s.mem) ∧ t.owner = s.owner ∧ t.fw = s.fw ∧
    (∀ i b, s.record.writing = some (i, b) → mine i.src → t.record = { persisted := b }) ∧
    ((∀ i b, s.record.writing = some (i, b) → ¬mine i.src) → t.record = s.record) ∧
    t.port p = {
      width := (s.port p).width, speed := (s.port p).speed, eventCause := (t.port p).eventCause, msixPending := (t.port p).msixPending } ∧
    (∀ k, k ≠ p → t.port k = { s.port k with
      eventCause := (t.port k).eventCause, msixPending := (t.port k).msixPending, held := (t.port k).held }) ∧
    (∀ q, mine q → (t.queue q).st = .uncreated) ∧ (∀ r ∈ t.winReqs, r.port ≠ p) ∧
    (∀ m ∈ t.msgs, ¬mine m.id.src) ∧ (∀ r ∈ t.vigil.diag, ∀ i, r.msg = some i → ¬mine i.src) ∧
    t.vigil.diag.map (·.field) = s.vigil.diag.map (·.field) ∧
    (∀ j ∈ t.jobs, ∀ i, j.msg = some i → ¬mine i.src) ∧ (∀ c, t.staged = some c → ∃ b, s.staged = some b ∧ ¬mine b.owner) ∧
    t.request (p + 1) = {}
  Goes (.perstAssert p) s after ∧ Goes (.hotReset p) s after ∧ Goes (.portLinkDown p) s after ∧ Goes (.functionLevelReset p) s after ∧
  exec (.hotReset p) s = exec (.perstAssert p) s ∧ exec (.portLinkDown p) s = exec (.perstAssert p) s ∧
  exec (.functionLevelReset p) s = exec (.perstAssert p) s

/-- R399, R411, R414: unit resets, power and port resets. -/
def Obligations.ResetsEndWork : Prop := Claims.ResetsAct ∧ Claims.PortResetsAct

/-! ### Failed parts (R395, R426 to R436, R445, R446) -/

/-- R426 to R436, R236, R375, R395, R445, R446: what is declared failed, when, and what stands in for it. A field whose core sequencers and
ports still work stays readable, and is copied; one that cannot be read has its links down. -/
def Obligations.FailuresAct : Prop := ∀ (s : State) (f : Nat), f < 96 →
  let up := (s.field f).health = .healthy
  let fails (cause : FieldFault) (readable : Bool) (t : State) : Prop := (t.field f).health = .failed cause readable ∧
    f ∈ t.vigil.remaps ∧ t.physOf f = s.physOf f
  let alone (cause : FieldFault) (readable : Bool) (t : State) : Prop := fails cause readable t ∧ t.vigil.remaps = s.vigil.remaps ++ [f] ∧
    (s.streams = [] → s.mesh.packets = [] → Recorded s t 0x0601 4)
  let kept (t : State) : Prop := (t.field f).health = (s.field f).health
  let supply (n : Nat) : Nat := [600, 630, 660, 690, 720].getD n 720
  let a := supply s.vigil.fckStep
  let b := supply s.effFck
  let good (mv : Option Nat) : Prop := ∃ v, mv = some v ∧ 95 * min a b ≤ 100 * v ∧ 100 * v ≤ 105 * max a b
  let still := ∀ g, (s.edge g).postings = []
  (∀ cause drained,
    let silent := cause = .stewardSilent ∨ cause = .thermal ∨ cause = .vck ∨ cause = .cutOff
    let ports := ∀ p ∈ (s.field f).ports, p.2.up = true
    (up → drained = true → ¬silent → (s.field f).service = .run → ports → Goes (.fieldFailure f cause drained) s (alone cause true)) ∧
    (up → drained = false ∨ silent ∨ (s.field f).service ≠ .run ∨ ¬ports → Goes (.fieldFailure f cause drained) s (alone cause false)) ∧
    (¬up → Goes (.fieldFailure f cause drained) s fun t => t.fields = s.fields ∧ t.vigil.remaps = s.vigil.remaps)) ∧
  (up → Goes (.stewardHeartbeatTimeout f) s (alone .stewardSilent false)) ∧
  (up → Goes (.thermalSwitchOff f) s (alone .thermal false)) ∧
  (∀ mv, (good mv → Goes (.regulatorFault f mv) s fun t => kept t ∧ (t.field f).regMv = mv) ∧
    (¬good mv → up → Goes (.regulatorFault f mv) s fun t => fails .thermal false t ∧ (t.field f).regMv = mv)) ∧
  (∀ c k, c < 8 → k < 2 →
    let all := ∀ d < 8, ∀ i < 2, (f, d, i) ∈ s.sensors.failed ∨ (d = c ∧ i = k)
    (up → all → Goes (.junctionSensorFail f c k) s fun t => (f, c, k) ∈ t.sensors.failed ∧ (4, f, c) ∈ t.sensors.out ∧
      fails .thermal false t) ∧
    (¬all → Goes (.junctionSensorFail f c k) s fun t => (f, c, k) ∈ t.sensors.failed ∧ (4, f, c) ∈ t.sensors.out ∧ kept t)) ∧
  (Goes .vckTreeReroot s fun t => t.vigil.vckHoldover = [] ∧ t.vigil.vckRoot = vckRootOf s.vigil.vckFailed ∧
    (up → vckCut s.vigil.vckFailed (s.physOf f) = true → fails .vck false t) ∧
    (vckCut s.vigil.vckFailed (s.physOf f) = false → kept t)) ∧
  (∀ cause readable rest bad rds, s.vigil.remaps = f :: rest → (s.field f).health = .failed cause readable → s.mesh.packets = [] →
    (readable = true → ∀ c < 8, (s.core f c).window = []) →
    (∀ gone q qs, s.vigil.spares = gone ++ q :: qs → (∀ x ∈ gone, x ∈ bad) → q ∉ bad → Goes (.fieldRemap f bad rds) s fun t =>
      t.physOf f = q ∧ t.vigil.spares = qs ∧ s.physOf f ∈ t.vigil.retired ∧ (∀ x ∈ gone, x ∈ t.vigil.retired) ∧
      (f ∉ t.topo.cutOff → (t.field f).health = .healthy ∧ (t.field f).service = .run) ∧
      (t.topo.cutOff = [] → readable = true → t.mem = s.mem ∧ ∀ c < 8, (t.core f c).stopped = false ∧
        ∀ u < 128, (t.bu f c u).failed = none)) ∧
    ((∀ q ∈ s.vigil.spares, q ∈ bad) → Goes (.fieldRemap f bad rds) s fun t => (t.field f).health = .lost ∧ t.vigil.replace = true ∧
      t.vigil.degraded = true ∧ t.vigil.spares = [])) ∧
  (∀ c u cause, c < 8 → u < 128 → up → (s.bu f c u).failed = none → (cause = .uncorrectable → s.eightRows (s.bu f c u) = true) →
    ((∃ k ∈ [1, 2, 3, 4], k ∉ (s.core f c).spares) → Goes (.buFailure f c u cause) s fun t => (t.bu f c u).failed = some cause ∧
      (t.core f c).stopped = true ∧ (cause ≠ .logic ∨ still → t.mem = s.mem) ∧ kept t ∧
      (cause = .logic → ∀ h j, s.job h = some j → j.isEnded = false → s.jobIn f c j = true →
        (t.job h).map (·.st) = some (.ended 0x0403))) ∧
    ((∀ k ∈ [1, 2, 3, 4], k ∈ (s.core f c).spares) → Goes (.buFailure f c u cause) s (fails .buSpares (decide (cause ≠ .logic))))) ∧
  (∀ c u cause rds k ks, c < 8 → u < 128 → up → (s.bu f c u).failed = some cause → (s.core f c).window = [] →
    ([1, 2, 3, 4].filter fun i => !(s.core f c).spares.contains i) = k :: ks → Goes (.buReplacement f c u rds) s fun t =>
      (t.bu f c u).failed = none ∧ (t.bu f c u).spare = k ∧ (t.core f c).spares = (s.core f c).spares ++ [k] ∧
      ((t.core f c).stopped = true ↔ ∃ v < 128, v ≠ u ∧ (s.bu f c v).failed.isSome = true) ∧
      (cause ≠ .logic → t.mem = s.mem ∧ Recorded s t 0x0403 2)) ∧
  ∀ cause, s.vigil.phase = .up → s.vigil.faultHold = none → (cause = .lastMilliner → s.vigil.standby = false) →
    (cause = .noTap → s.anyTap = false) → Goes (.unitFatalFault cause) s fun t => t.stateCode = 3 ∧ t.vigil.faulted = true ∧
      t.vigil.faultHold.isSome = true ∧ t.vigil.bootRom = true ∧ t.jobs = [] ∧ t.plans = [] ∧ t.streams = [] ∧
      ∀ q, (t.queue q).st = .uncreated

/-! ### Hatband (R226 to R236) -/

/-- R227 to R230, R233 to R235: a phit spends a credit and is buffered, its packet one phit further, and gives the credit back when it
leaves; class C goes before the others; a packet's words land in their places, and are acknowledged where the writer waits; a link that goes
down is down at both ends, and what was in its buffers is discarded; tables are loaded when no packet of class D is on its way. -/
def Obligations.HatbandActs : Prop := ∀ (s : State),
  (∀ f port cls g gp, f < 96 → port < 4 → s.hbPeer f port = some (g, gp) →
    let other (t : State) : Prop := ∀ i k, ¬(i = f ∧ k = port) → ¬(i = g ∧ k = gp) → t.hb i k = s.hb i k
    let near := s.hb f port
    let far := s.hb g gp
    let moves := cls = .c ∨ s.classCWaits g gp = false
    (0 < far.cred cls → moves → s.nextPhit g gp cls = none → Goes (.phitReceive f port cls []) s fun t =>
      t.hb g gp = far.setCred cls (far.cred cls - 1) ∧ t.hb f port = near.setBuf cls (near.buf cls + 1) ∧ other t ∧ t.mesh = s.mesh) ∧
    (∀ p i input, 0 < far.cred cls → moves → s.nextPhit g gp cls = some (p, i, input) → Goes (.phitReceive f port cls []) s fun t =>
      t.hb g gp = (far.setCred cls (far.cred cls - 1)).setServed cls input ∧ t.hb f port = near.setBuf cls (near.buf cls + 1) ∧ other t ∧
      t.mesh = { s.mesh with packets := s.mesh.packets.map fun q => if q.no = p.no then q.cross i else q }) ∧
    (far.cred cls = 0 ∨ ¬moves → Goes (.phitReceive f port cls []) s fun t => t.fields = s.fields ∧ t.mesh = s.mesh) ∧
    (0 < far.buf cls → Goes (.hatbandCreditReturn f port cls) s fun t => t.hb g gp = far.setBuf cls (far.buf cls - 1) ∧
      t.hb f port = near.setCred cls (near.cred cls + 1) ∧ other t) ∧
    ∀ cause, (cause = .uncorrectable → 16 ≤ s.recentUnc f port + s.recentUnc g gp) →
      (cause = .domain → (s.field f).service ≠ .run ∨ (s.field g).service ≠ .run) →
      Goes (.hatbandLinkDown f port cause []) s fun t => (t.hb f port).up = false ∧ (t.hb g gp).up = false ∧ other t ∧
        t.vigil.degraded = true ∧
        t.mesh.packets = s.mesh.packets.filter (fun p => !(s.buffers p f port || s.buffers p g gp)) ∧
        ∀ p ∈ s.mesh.packets, s.buffers p f port = true ∨ s.buffers p g gp = true → ∀ j, s.job p.job = some j → j.isEnded = false →
          ∃ x, t.job p.job = some x ∧ x.st = .ended 0x0502) ∧
  (∀ p, s.mesh.packets = [p] → p.src < 96 → p.dst < 96 → s.pathDown p.src p.dst = false → (p.writes.map (·.1)).Nodup →
    Goes (.hatbandPacketArrival p.cls p.src p.dst) s fun t =>
      (p.acked = false ∨ p.cls ≠ .d → t.mesh.packets = []) ∧
      (p.acked = true → p.cls = .d → ∃ a, t.mesh.packets = [a] ∧ a.cls = .a ∧ a.src = p.dst ∧ a.dst = p.src ∧ a.who = p.who ∧
        a.job = p.job ∧ a.idx = p.idx ∧ a.writes = [] ∧ a.operand = none) ∧
      (∀ w ∈ p.writes, t.mem.get w.1 = { data := w.2.1, good := w.2.1, poison := w.2.2 }) ∧
      (∀ a, (∀ w ∈ p.writes, a ≠ w.1) → t.mem.get a = s.mem.get a) ∧
      ∀ o j, p.operand = some o → s.job o.job = some j → j.isEnded = false → (∀ q ∈ s.mesh.operands, q.same o = false) →
        t.mesh.operands = s.mesh.operands ++ [o]) ∧
  ((∀ p ∈ s.mesh.packets, p.cls ≠ .d) → Goes .hatbandTableLoad s fun t => t.mesh.tables = some s.topoNow ∧
    ∀ f < 96, f ∈ s.topoNow.cutOff → (s.field f).health = .healthy → (t.field f).health = .failed .cutOff false)

/-! ### Brim links (R239 to R248) -/

/-- R241, R242, R246, R255, R398: how a brim link moves between its states, what it sends on the way, and what a lost link drops. That a
link leaves PARAMS reports no mismatch. -/
def Obligations.LinksTrain : Prop := ∀ (s : State) (l : Nat), l < 64 →
  let b := s.brim l
  let param := controlFlit 0 0 2 4 (leBytes 2 s.domain ++ leBytes 2 s.ordinal ++ leBytes 1 l ++ leBytes 1 s.linkRev ++ leBytes 2 b.rxSeq)
  let others (t : State) : Prop := ∀ k, k ≠ l → t.brim k = s.brim k
  let now (x : Brim) (t : State) : Prop := t.brim l = x ∧ others t
  let sent (t : State) : Prop := Out.flit l (b.finish param) ∈ t.out
  let retrained (t : State) : Prop :=
    now (if b.attempts < 3 then { b with st := .lock, attempts := b.attempts + 1, miswired := false }
      else { b with st := .detect, attempts := 0, miswired := false }) t
  let relocked (t : State) : Prop := now { b with st := .lock, attempts := 1, miswired := false } t
  (s.trains = true → b.st = .detect → Goes (.linkSignalDetect l) s (now { b with st := .equalize, miswired := false })) ∧
  (s.trains = true → b.st = .equalize → Goes (.linkEqualizeDone l) s relocked) ∧
  (s.trains = true → b.st = .lock → Goes (.linkLockDone l) s fun t => now { b with st := .params } t ∧ sent t) ∧
  (s.trains = true → b.st = .equalize → Goes (.linkTrainingTimeout l) s (now { b with st := .detect, miswired := false })) ∧
  (s.trains = true → b.st = .lock → Goes (.linkTrainingTimeout l) s retrained) ∧
  (s.trains = true → b.st = .params → b.miswired = true ∨ s.vigil.wasReady = false →
    Goes (.linkTrainingTimeout l) s fun t => now b t ∧ sent t) ∧
  (s.trains = true → b.st = .params → b.miswired = false → s.vigil.wasReady = true → Goes (.linkTrainingTimeout l) s retrained) ∧
  (b.st = .active → Goes (.linkLockLoss l) s relocked) ∧ (b.st = .params → Goes (.linkLockLoss l) s retrained) ∧
  (b.everActive = true → b.st ≠ .active → b.lost = false → Goes (.linkLostTimer l) s fun t =>
    now { b with lost := true, replay := [], resends := 0, rx := [], poisonMask := [] } t ∧ t.vigil.degraded = true ∧
    ∀ h f c i j p, s.job h = some j → j.isEnded = false → b.replay = [p] → s.senderOf p.2 = some (h, f, c, i) →
      ∃ x, t.job h = some x ∧ x.st = .ended 0x0502 ∧ x.failField = some f ∧ x.failCore = some c ∧ x.failPass = i) ∧
  (∀ y : Arrival, let x : Flit := y.bits
    fecFailed y.fec = false → flitCrc x = true → fType x = 2 → fPay x 0 1 = 4 → fld x 28 4 = 0 → controlShape x 9 = true →
    fPay x 3 2 < 2 ^ 15 → fPay x 5 1 < 64 → fPay x 7 2 < 1024 → fAckv x = false →
    let want : BitVec 32 := match s.fabActive with | some y => Sparse.get 0 y.neighbours l | none => 0
    let agree := fPay x 1 2 = s.domain ∧ fPay x 6 1 = s.linkRev ∧ (want.getLsbD 31 = true → fPay x 3 2 = fld want 0 15 ∧ fPay x 5 1 = fld want 16 6)
    (b.st = .params → ¬agree → Goes (.paramFlit l y) s (now { b with miswired := true })) ∧
    (b.st = .params → agree → s.vigil.wasReady = false → Goes (.paramFlit l y) s (now { b with miswired := false })) ∧
    (b.st = .params → agree → s.vigil.wasReady = true → b.replay = [] → Goes (.paramFlit l y) s (now {
        b with st := .active, attempts := 0, miswired := false, lost := false, resends := 0, nakSent := false, everActive := true
               txSeq := fPay x 7 2 % 1024, credits := if b.everActive then b.credits else List.replicate 8 64 })) ∧
    (b.st = .active → agree → Goes (.paramFlit l y) s (now b)) ∧ (b.st = .active → ¬agree → Goes (.paramFlit l y) s relocked))

namespace Sys2Proof.Claims

/-- A link whose sender has taken the acknowledgement of a flit (R245). -/
def acked (b : Brim) (x : Flit) : Brim :=
  let r := b.replay.dropWhile fun p => (fAck x + 1024 - fSeq p.1) % 1024 < 512
  if fAckv x = true then { b with replay := r, resends := if r.length = b.replay.length then b.resends else 0 } else b

/-- A whole flit of a type, without a reserved bit. -/
def Whole (x : Flit) (type : Nat) : Prop := flitCrc x = true ∧ fType x = type ∧ fld x 28 4 = 0

end Sys2Proof.Claims

/-- R240, R243 to R249: what an ACTIVE link makes of each flit. Acknowledgements free the replay buffer; data and poison masks are taken in
order, a data flit into the message of its VC, where it stands in the VC's buffer until it goes on; a flit out of order, and one that a failed
codeword overlaps, draws one NAK; freed counts go back as credit, or an idle flit reports what was received; and what is not acknowledged is
sent again. -/
def Obligations.FlitsAreTaken : Prop := ∀ (s : State) (l : Nat) (x : Flit) (fec : Fec), l < 64 →
  let b := s.brim l
  let a := acked b x
  let y : Arrival := ⟨x, fec⟩
  let now (y : Brim) (t : State) : Prop := t.brim l = y ∧ ∀ k, k ≠ l → t.brim k = s.brim k
  let nak (y : Brim) : Flit := y.finish (controlFlit 0 0 2 2 (leBytes 1 0 ++ leBytes 2 y.rxSeq))
  let naks (y : Brim) (t : State) : Prop := now { y with nakSent := true } t ∧ (y.nakSent = false → Out.flit l (nak y) ∈ t.out)
  let resent (y : Brim) (t : State) : Prop := (∀ p ∈ y.replay, Out.flit l (y.finish p.1) ∈ t.out) ∧
    now (if 7 ≤ y.resends then { y with st := .lock, attempts := 1, resends := 0, miswired := false }
      else { y with resends := y.resends + 1 }) t
  let v := fVc x
  let r := Sparse.get {} b.rx v
  let mask := Sparse.get 0 b.poisonMask v
  let took : Brim := { a with
    rxSeq := (b.rxSeq + 1) % 1024, rxAny := true, nakSent := false, poisonMask := Sparse.set 0 b.poisonMask v 0 }
  let freed1 := b.freed.set v ((b.freed.getD v 0 + 1) % 65536)
  let n := 8 * fPay x 2 2
  let words (lo k : Nat) : List (Word × Bool) := (List.range k).map fun i => (fWord x (lo + i), mask.getLsbD (lo + i))
  b.st = .active →
  (b.replay ≠ [] → Goes (.replayTimeout l) s (resent b)) ∧
  (b.freed ≠ b.freedSent → Goes (.creditReportTimer l) s fun t => now { b with freedSent := b.freed } t ∧
    Out.flit l (b.finish (controlFlit 0 0 2 1 (leBytes 1 0 ++ (b.freed.map fun n => leBytes 2 n).flatten))) ∈ t.out) ∧
  (b.freed = b.freedSent → Goes (.creditReportTimer l) s fun t => now b t ∧ Out.flit l (b.finish (mkFlit 0 0 3 false false 0)) ∈ t.out) ∧
  (fecFailed fec = true → ∀ i ∈ [Instr.idleFlitReceive l y, .creditFlit l y, .nakFlit l y, .paramFlit l y, .poisonFlit l y,
    .sequencedFlitReceive l x fec], Goes i s fun t => naks b t ∧ t.mesh = s.mesh) ∧
  (fecFailed fec = false →
    (Whole x 3 → fSeq x = 0 → fHead x = false → fTail x = false → Goes (.idleFlitReceive l y) s (now a)) ∧
    (Whole x 2 → fPay x 0 1 = 1 → controlShape x 18 = true → fPay x 1 1 = 0 → Goes (.creditFlit l y) s fun t =>
      t.brim l = { a with credits := (t.brim l).credits, freedSeen := (List.range 8).map fun i => fPay x (2 + 2 * i) 2 } ∧
      ∀ i < 8, (t.brim l).credits.getD i 0 = b.credits.getD i 0 + (fPay x (2 + 2 * i) 2 + 65536 - b.freedSeen.getD i 0) % 65536) ∧
    (Whole x 2 → fPay x 0 1 = 2 → controlShape x 4 = true → fPay x 1 1 = 0 → fPay x 2 2 < 1024 →
      (a.replay = [] → Goes (.nakFlit l y) s (now a)) ∧ (a.replay ≠ [] → Goes (.nakFlit l y) s (resent a))) ∧
    (Whole x 1 → fPay x 0 1 = 3 → poisonShape x = true → ∀ i ∈ [Instr.poisonFlit l y, .sequencedFlitReceive l x fec],
      (fSeq x = b.rxSeq → Goes i s (now { a with
        rxSeq := (b.rxSeq + 1) % 1024, rxAny := true, nakSent := false
        poisonMask := Sparse.set 0 b.poisonMask v (BitVec.ofNat 32 (fPay x 4 4)) })) ∧
      (fSeq x ≠ b.rxSeq → Goes i s (naks a))) ∧
    (Whole x 0 → fSeq x ≠ b.rxSeq → Goes (.sequencedFlitReceive l x fec) s fun t => naks a t ∧ t.mesh = s.mesh) ∧
    (Whole x 0 → fSeq x = b.rxSeq → fHead x = true → r.total = 0 → fTail x = decide (n ≤ 24) → 1 ≤ fPay x 0 1 % 16 →
      fPay x 0 1 % 16 ≤ 4 → fPay x 1 1 ≤ 16 → 1 ≤ fPay x 2 2 → fPay x 2 2 ≤ 1024 → fPay x 16 2 < 2 ^ 15 → fPay x 37 19 = 0 →
      Goes (.sequencedFlitReceive l x fec) s fun t =>
        now { took with
          rx := if n ≤ 24 then b.rx else Sparse.set {} b.rx v { no := s.mesh.msgNo, got := 1, total := 1 + (n - 24 + 30) / 31 } } t ∧
        ∃ m, t.mesh.msgs = s.mesh.msgs ++ [m] ∧ m.no = s.mesh.msgNo ∧ m.kind = fPay x 0 1 % 16 ∧ m.hops = fPay x 0 1 / 16 ∧
          m.ptr = fPay x 1 1 ∧ m.tag.toNat = fPay x 4 4 ∧ m.addr.toNat = fPay x 8 8 ∧ m.src = fPay x 16 2 ∧ m.id = fPay x 18 2 ∧
          m.pass = fPay x 20 2 ∧ m.from_ = some l ∧ m.here = false ∧ m.sent = 0 ∧ m.short = n - 24 ∧ m.words = words 7 (min 24 n)) ∧
    (∀ m, Whole x 0 → fSeq x = b.rxSeq → fHead x = false → r.total ≠ 0 → fTail x = decide (r.got + 1 = r.total) → s.mesh.msgs = [m] →
      (m.no = r.no → Goes (.sequencedFlitReceive l x fec) s fun t =>
        now { took with rx := Sparse.set {} b.rx v (if r.got + 1 = r.total then {} else { r with got := r.got + 1 }) } t ∧
        t.mesh.msgs = [{ m with words := m.words ++ words 0 (min m.short 31), short := m.short - 31, buf := m.buf + 1 }]) ∧
      (m.no ≠ r.no → Goes (.sequencedFlitReceive l x fec) s fun t => t.mesh.msgs = [m] ∧ now { took with
        freed := freed1, rx := Sparse.set {} b.rx v (if r.got + 1 = r.total then {} else { r with got := r.got + 1 }) } t)) ∧
    (Whole x 0 → fSeq x = b.rxSeq → fHead x = false → r.total = 0 → (∀ m ∈ s.mesh.msgs, m.no ≠ s.mesh.msgNo) →
      Goes (.sequencedFlitReceive l x fec) s fun t => t.mesh.msgs = s.mesh.msgs ∧
        now { took with freed := freed1, rx := Sparse.set {} b.rx v {} } t))

/-! ### The fabric (R247, R249 to R255) -/

/-- R247, R248, R250 to R255: a message arrives, turns back or leaves, and its flits leave their buffer; a write lands in the plan of its job
and is acknowledged; an operand goes to its node, a late one is discarded; an acknowledgement ends the wait, marks the message not ready or
ends the job; and a message not ready goes again. A code that Table 13-1 does not give ends the job as INTERNAL (the model's choice, log entry
108). -/
def Obligations.FabricMessagesTravel : Prop := ∀ (s : State) (m : FabMsg), s.mesh.msgs = [m] →
  let routable (n : Nat) : Prop := n = s.ordinal ∨ (s.routeEntry n).getLsbD 116 = true
  let acks (status : Nat) (t : State) : Prop := ∃ x, t.mesh.msgs = [x] ∧ x.kind = 3 ∧ x.tag = m.tag ∧ x.id = m.id ∧ x.pass = status ∧
    x.words = List.replicate 8 (0, false) ∧ (x.here = true ↔ m.src = s.ordinal)
  let freed (l n : Nat) : Brim := { s.brim l with
    freed := (s.brim l).freed.set m.inVc (((s.brim l).freed.getD m.inVc 0 + n) % 65536) }
  (m.here = false → m.ptr ≤ 16 → m.next = none → 0 < m.buf ∨ m.short = 0 → s.msgCut m = false → Goes .messageHop s fun t =>
    t.mesh.msgs = [{ m with here := decide (m.short = 0), buf := 0 }] ∧
    ∀ l, m.from_ = some l → 0 < m.buf → t.brim l = freed l m.buf ∧ ∀ k, k ≠ l → t.brim k = s.brim k) ∧
  (∀ l vc k, m.here = false → m.next = some (l, vc) → (s.brim l).st ≠ .active → m.sent = 0 ∨ (s.brim l).lost = true → m.from_ = some k →
    Goes .messageHop s fun t => (0 < m.buf → t.brim k = freed k m.buf) ∧ (m.kind = 3 → t.mesh.msgs = []) ∧
      (m.kind ≠ 3 → ∃ x, t.mesh.msgs = [x] ∧ x.kind = 3 ∧ x.pass = 0x0502 ∧ x.tag = m.tag ∧ x.id = m.id ∧ x.src = s.ordinal ∧
        faOrdinal x.addr = m.src % 32768 ∧ x.words = List.replicate 8 (0, false) ∧ (x.here = true ↔ m.ptr = 0) ∧
        ∀ i < m.ptr, i < 16 → fld x.route (7 * i) 6 = fld m.route (7 * (m.ptr - 1 - i)) 6)) ∧
  (∀ l vc, m.here = false → m.next = some (l, vc) → (s.brim l).st ≠ .active → m.sent = 0 → m.kind ≠ 3 → m.from_ = none →
    Goes .messageHop s fun t => t.mesh.msgs = [{ m with kind := 3, pass := 0x0502, words := [], here := true }] ∧ t.brims = s.brims) ∧
  (∀ l vc,
    let b := s.brim l
    let y := mkFlit b.txSeq vc 0 true true (payloadOf m.nextWords)
    m.here = false → m.next = some (l, vc) → b.st = .active → m.sent = 0 → m.short = 0 → m.words.length ≤ 24 →
    (∀ w ∈ m.words, w.2 = false) → s.msgCut m = false → 0 < b.credits.getD vc 0 → b.replay.length < 512 → m.from_ ≠ some l →
    Goes .messageHop s fun t => t.mesh.msgs = [] ∧ Out.flit l (b.finish y) ∈ t.out ∧
      t.brim l = { b with
        txSeq := (b.txSeq + 1) % 1024, replay := b.replay ++ [(y, m.no)], credits := b.credits.set vc (b.credits.getD vc 0 - 1) } ∧
      (∀ k, k ≠ l → m.from_ ≠ some k → t.brim k = s.brim k) ∧ ∀ k, m.from_ = some k → 0 < m.buf → t.brim k = freed k 1) ∧
  (m.here = true → m.kind = 4 → Goes .msgFabricControl s fun t => t.mesh.msgs = [] ∧ t.mem = s.mem ∧ t.jobs = s.jobs) ∧
  (m.here = true → m.kind = 1 → routable m.src → Goes .msgWrite s fun t =>
    (s.boundJob m.tag = none → acks 0x0501 t ∧ t.mem = s.mem) ∧
    ∀ j, s.boundJob m.tag = some j →
      let n := m.words.length / 8
      ((∃ i < n, s.unitInPlan j.plan m.addr i = false) → acks 0x0202 t ∧ t.mem = s.mem) ∧
      ∀ a : Nat → Nat, (∀ i < n, s.unitInPlan j.plan m.addr i = true ∧ s.endpoint j.plan m.addr i = some (a i)) →
        (∀ i < n, ∀ k < n, i ≠ k → a i + 8 ≤ a k ∨ a k + 8 ≤ a i) → acks 0 t ∧
        (∀ i < 8 * n, ∀ w, m.words[i]? = some w → t.mem.get (a (i / 8) + i % 8) = { data := w.1, good := w.1, poison := w.2 }) ∧
        ∀ x, (∀ i < n, x < a i ∨ a i + 8 ≤ x) → t.mem.get x = s.mem.get x) ∧
  (m.here = true → m.kind = 2 → m.tag ∈ s.mesh.late → Goes .msgReduceOperand s fun t =>
    t = { s with mesh := { s.mesh with msgs := [] }, vigil := t.vigil }) ∧
  (∀ j f c w, m.tag ∉ s.mesh.late → s.operandReady m = some (j, f, c, w, [m]) → Goes .msgReduceOperand s fun t => t.mesh.msgs = [] ∧
    ∃ o, t.mesh.operands = s.mesh.operands ++ [o] ∧ o.job = j.handle ∧ o.field = f ∧ o.core = c ∧ o.level = 2 ∧ o.ordinal = m.pass ∧
      o.parts = m.src ∧ o.round = m.round ∧ o.words = operandWords ((s.bu f c 0).group (Desc.grp w.desc)) m.words) ∧
  (∀ a, m.here = true → m.kind = 3 → s.mesh.awaited = [a] → a.msg.tag = m.tag → a.id = m.id →
    (m.pass = 0 → Goes .msgWriteAck s fun t => t.mesh.msgs = [] ∧ t.mesh.awaited = [] ∧ t.jobs = s.jobs) ∧
    (m.pass = 0x0501 → Goes .msgWriteAck s fun t => t.mesh.msgs = [] ∧ t.mesh.awaited = [{ a with notReady := true }] ∧ t.jobs = s.jobs) ∧
    ∀ j, m.pass ≠ 0 → m.pass ≠ 0x0501 → s.job a.job = some j → j.isEnded = false → Goes .msgWriteAck s fun t => t.mesh.msgs = [] ∧
      ∃ x, t.job a.job = some x ∧ x.st = .ended (ackStatus m.pass) ∧ x.failField = some a.field ∧ x.failCore = some a.core ∧
        x.failPass = a.idx) ∧
  ∀ a, s.mesh.awaited = [a] → a.notReady = true → a.id < 65536 → routable (faOrdinal a.msg.addr) → Goes (.notReadyResend a.id) s fun t =>
    ∃ x, t.mesh.msgs = [m, x] ∧ x.kind = a.msg.kind ∧ x.words = a.msg.words ∧ x.id = a.msg.id ∧ x.no = s.mesh.msgNo ∧
      t.mesh.awaited = [{ a with no := x.no, notReady := false }]

/-! ### Module links (R257 to R261, R274) -/

/-- R257 to R261, R274, R275: a module link trains, and sends what waits and what is not acknowledged; a frame in order is counted, and
poisoned data recorded, one out of order or damaged draws a NAK; a module that does not fit, goes, or stays silent is fenced. -/
def Obligations.ModuleLinksAct : Prop := ∀ (s : State) (m : Nat), m < 16 →
  let x := s.slot m
  let others (t : State) : Prop := ∀ k, k ≠ m → t.slot k = s.slot k
  let now (y : Slot) (t : State) : Prop := t.slot m = y ∧ others t ∧ t.jobs = s.jobs
  let fenced (p : Bool) (t : State) : Prop := t.slot m = { present := p, fenced := true, everActive := x.everActive, st := .disabled } ∧
    t.vigil.degraded = true ∧ ((∀ g, (s.edge g).postings = []) → t.mem = s.mem)
  let credited (f : BitVec 2176) : Slot := { x with
    credits := x.credits + (bfCredit f + 256 - x.freedSeen) % 256, freedSeen := bfCredit f }
  let good (f : BitVec 2176) : Prop := frameCrc f = true ∧ bfReservedOk f = true ∧ bfAckv f = false
  let trains := s.moduleTrains m = true
  (trains → x.st = .detect → Goes (.moduleLinkDetect m) s (now { x with st := .lock, attempts := 1 })) ∧
  (trains → x.st = .lock → Goes (.moduleLinkLock m) s (now { x with st := .params })) ∧
  (trains → x.st = .params → x.waiting = [] → Goes (.moduleParams m 128 8 0x32) s fun t =>
    now { x with st := .active, attempts := 0, everActive := true, resends := 0, nakSent := false } t ∧
    ∀ p ∈ x.replay, Out.frame m (x.finish p.1) ∈ t.out) ∧
  (∀ i, trains → x.st = .params → x.replay = [] → x.waiting = [i] → 0 < x.credits → x.txSeq < 1024 → Goes (.moduleParams m 128 8 0x32) s fun t =>
    let f := itemFrame x.txSeq s.freeCtr i
    now { x with
      st := .active, attempts := 0, everActive := true, resends := 0, nakSent := false, waiting := [], txSeq := (x.txSeq + 1) % 1024
      replay := [(f, i)], credits := x.credits - 1 } t ∧ Out.frame m (x.finish f) ∈ t.out ∧
    bfSeq f = x.txSeq % 1024 ∧ bfType f = (if i.data.isSome then 0 else 1)) ∧
  (∀ gib ch rev, trains → x.st = .params → x.fenced = false → ¬(gib = 128 ∧ ch = 8 ∧ rev = 0x32) →
    Goes (.moduleParams m gib ch rev) s (fenced x.present)) ∧
  (x.st = .active → Goes (.moduleLinkLockLoss m) s (now { x with st := .lock, attempts := 1 })) ∧
  (trains → x.st = .lock → Goes (.moduleLinkTimeout m) s
    (now (if x.attempts < 3 then { x with attempts := x.attempts + 1 } else { x with st := .detect, attempts := 0 }))) ∧
  (trains → x.st = .params → Goes (.moduleLinkTimeout m) s (now { x with st := .lock, attempts := 1 })) ∧
  (s.vigil.phase ≠ .off → x.present = true → x.fenced = false → x.everActive = true → x.st ≠ .active →
    Goes (.moduleLinkLost m) s (fenced true)) ∧
  (∀ p, x.present ≠ p → x.fenced = false → s.vigil.phase ≠ .off → Goes (.prsntChange m p) s (fenced p)) ∧
  (∀ p, x.present ≠ p → s.vigil.phase = .off → Goes (.prsntChange m p) s (now { x with present := p })) ∧
  (x.st = .active → x.replay ≠ [] → Goes (.bulkResendTimer m) s fun t => (∀ f ∈ x.replay, Out.frame m (x.finish f.1) ∈ t.out) ∧
    now (if 7 ≤ x.resends then { x with st := .lock, attempts := 1, resends := 0 } else { x with resends := x.resends + 1 }) t) ∧
  ∀ f : BitVec 2176, x.st = .active →
    (frameCrc f = false → Goes (.bulkFrameReceive m f) s (now { x with nakSent := true })) ∧
    (good f → x.waiting = [] → bfType f ≤ 1 → bfSeq f = x.rxSeq → Goes (.bulkFrameReceive m f) s fun t =>
      now { credited f with rxSeq := (x.rxSeq + 1) % 1024, rxAny := true, nakSent := false, freed := (x.freed + 1) % 256 } t ∧
      (bfType f = 0 ∧ bfPoison f ≠ 0 → Claims.Recorded s t 0x0403 2) ∧ (bfType f = 1 ∨ bfPoison f = 0 → t.log = s.log)) ∧
    (good f → x.waiting = [] → bfType f ≤ 1 → bfSeq f ≠ x.rxSeq → Goes (.bulkFrameReceive m f) s
      (now { credited f with nakSent := true })) ∧
    (∀ p, frameCrc f = true → bfReservedOk f = true → bfType f = 3 → bfAckv f = true → x.waiting = [] → x.replay = [p] →
      bfAck f = bfSeq p.1 → Goes (.bulkFrameReceive m f) s (now { credited f with replay := [], resends := 0 }))

/-! ### SMBus and JTAG (R456 to R459) -/

/-- R456 to R458: every management command answers as its table gives it while the unit is up, those of the mailbox are not acknowledged in
VIGIL and WAKING, and a write with a bad error code has no effect but its result. -/
def Obligations.SmbusAnswers : Prop := ∀ (s : State),
  let m := s.smb
  let replies (bs : List Byte) (last : Nat) (t : State) : Prop := t.out = s.out ++ [.smbus bs] ∧ t = { s with
    out := t.out, smb := { m with last, returned := t.smb.returned }, vigil := { s.vigil with wasReady := t.vigil.wasReady } }
  let naks (last : Nat) (t : State) : Prop := t.out = s.out ++ [.nak] ∧ t = { s with
    out := t.out, smb := { m with last }, vigil := { s.vigil with wasReady := t.vigil.wasReady } }
  let silent (x : Smbus) (t : State) : Prop := t = { s with smb := x, vigil := { s.vigil with wasReady := t.vigil.wasReady } }
  let on := s.vigil.phase ≠ .off
  let up := s.vigil.phase = .up
  let outstanding := m.waiting.length + (s.msgs.filter fun x => x.id.src = 1024).length
  (on → Goes .smbIdent s (replies (leBytes 8 s.idrev.toNat) 0)) ∧
  (on → Goes .smbState s (replies (leBytes 4 (s.unitState.toNat % 2 ^ 32) ++ leBytes 4 (s.heldWord.toNat % 2 ^ 32) ++
    leBytes 8 s.replaceDetail.toNat ++ leBytes 8 s.vigil.vigilTime.toNat) 0)) ∧
  (on → Goes .smbUnitSense s (replies s.unitRecord 0)) ∧
  (on → Goes .smbStatus s (replies (leBytes 2 (m.last + (if m.completions = [] then 0 else 256) + (15 - outstanding) * 512)) m.last)) ∧
  (on → Goes .smbBusTimeout s (silent { m with last := 8 })) ∧
  (on → Goes (.smbWake true) s (fun t => t.smb.last = 0 ∧ (s.vigil.phase = .vigil → t.vigil.phase = .waking) ∧
      (s.vigil.phase ≠ .vigil → t.vigil.phase = s.vigil.phase)) ∧
    Goes (.smbWake false) s (silent { m with last := 1 })) ∧
  (∀ key test, selfTestOk test = true → up →
    Goes (.smbReset key false test) s (silent { m with last := 1 }) ∧
    (key ≠ 0xA5C3 → Goes (.smbReset key true test) s (silent { m with last := 7 })) ∧
    (s.vigil.holdReset = false → s.vigil.holdPower = false → Goes (.smbReset 0xA5C3 true test) s fun t => t.smb.last = 0 ∧
      t.vigil.phase = .up ∧ t.stateCode = 3 ∧ t.jobs = [] ∧ t.plans = [] ∧ t.streams = [] ∧ t.msgs = [])) ∧
  (∀ off bs, off < 2 ^ 32 → 1 ≤ bs.length → bs.length ≤ 248 → off + bs.length ≤ 2 ^ 20 → up →
    Goes (.stageWrite off bs false) s (silent { m with last := 1 }) ∧
    Goes (.stageWrite off bs true) s fun t => silent { m with last := 0, staging := t.smb.staging } t ∧
      ∀ i, Sparse.get 0 t.smb.staging i = if off ≤ i ∧ i < off + bs.length then bs.getD (i - off) 0 else Sparse.get 0 m.staging i) ∧
  (∀ off len, off < 2 ^ 32 → up → (1 ≤ len ∧ len ≤ 248 ∧ off + len ≤ 2 ^ 20 → Goes (.stageRead off len) s
      (replies ((List.range len).map fun i => Sparse.get 0 m.staging (off + i)) 0)) ∧
    (¬(1 ≤ len ∧ len ≤ 248 ∧ off + len ≤ 2 ^ 20) → Goes (.stageRead off len) s (naks 3))) ∧
  (∀ e, up →
    let room := outstanding < 15 ∧ (m.completions.map List.length).sum + m.reserved + 4 ≤ 64
    (¬room → Goes (.smbSubmit e true) s (naks 4)) ∧ (room → Goes (.smbSubmit e false) s (silent { m with last := 1 })) ∧
    (room → Goes (.smbSubmit e true) s fun t => silent { m with
      last := 0, ctr := (m.ctr + 1) % 65536, waiting := m.waiting ++ [(m.ctr, s.now, e)]
      reserved := m.reserved + (match msgSpec (sqOp e) with | some y => y.slots | none => 1) } t)) ∧
  (up → Goes .smbCompletion s fun t => (m.completions = [] → replies [] 0 t ∧ t.smb.returned = m.returned) ∧
    ∀ es rest, m.completions = es :: rest → replies (es.map fun e => leBytes 32 e.toNat).flatten 0 t ∧ t.smb.returned = true) ∧
  (up → Goes (.smbCompletionAck false) s (silent { m with last := 1 }) ∧
    Goes (.smbCompletionAck true) s fun t => (m.returned = false → silent { m with last := 0 } t) ∧
      (m.returned = true → silent { m with last := 0, completions := m.completions.drop 1, returned := false } t)) ∧
  ∀ e off bs len pec, off < 2 ^ 32 → s.vigil.phase = .vigil ∨ s.vigil.phase = .waking →
    let n := if s.vigil.phase = .vigil then 5 else 6
    Goes (.smbSubmit e pec) s (naks n) ∧ Goes (.stageWrite off bs pec) s (naks n) ∧ Goes (.stageRead off len) s (naks n) ∧
    Goes .smbCompletion s (naks n) ∧ Goes (.smbCompletionAck pec) s (naks n)

/-- R459: the test access port reads and drives nothing inside the unit. Its commands change its own cells and what it shifts out, and no
state of the unit; under EXTEST only open-drain contacts are driven, and only in VIGIL. -/
def Obligations.JtagIsIsolated : Prop := ∀ (s : State), s.vigil.phase ≠ .off →
  let own (t : State) : Prop := t = { s with out := t.out, jtag := t.jtag, vigil := { s.vigil with wasReady := t.vigil.wasReady } }
  let through (code : BitVec 8) (tdi : Bool) (t : State) : Prop := own t ∧ t.out = s.out ++ [.bypass s.jtag.bypassBit] ∧
    t.jtag = { s.jtag with code, bypassBit := tdi }
  (∀ cells, s.vigil.phase = .vigil → Goes (.extest cells) s fun t => own t ∧ t.jtag = { s.jtag with code := 0x00, cells } ∧
    ∃ d, t.out = s.out ++ [.contacts d] ∧ ∀ i < 97, d.getLsbD i = (decide (i < 9 ∧ i ≠ 3 ∧ i ≠ 4) && !cells.getLsbD i)) ∧
  (∀ cells, s.vigil.phase ≠ .vigil → Goes (.extest cells) s (through 0x00 (cells.getLsbD 0))) ∧
  (∀ pins cells, Goes (.samplePreload pins cells) s fun t => own t ∧ t.out = s.out ++ [.jtag pins] ∧
    t.jtag = { s.jtag with code := 0x01, cells }) ∧
  ∀ code tdi, code ≠ 0x01 → (code ≠ 0x00 ∨ s.vigil.phase ≠ .vigil) → Goes (.bypass code tdi) s (through code tdi)

/-! ### The unit as a whole -/

/-- A step takes the command at the front of the queue and is its effect on the state with the queue's rest; an idle unit's step counts one
period of VIGIL_TIME while the Vigil domain has power, and lets a window access that its port holds go on once it can; nothing else changes
(R335, R345; log entries 11 and 101). -/
def Obligations.StepTakesTheFront : Prop := ∀ (s : State),
  let held := ∃ p < 4, (s.port p).stalled ≠ []
  let tick : State := { s with vigil := { s.vigil with vigilTime := s.vigil.vigilTime + 1 } }
  (∀ c cs, step { s with pending := c :: cs } = exec c { s with pending := cs }) ∧
  (s.pending = [] → ¬held → s.vigil.phase ≠ .off → step s = .next tick) ∧
  (s.pending = [] → ¬held → s.vigil.phase = .off → step s = .next s) ∧
  ∀ p x, s.pending = [] → p < 4 → (s.port p).stalled = [x] → (∀ k < 4, k ≠ p → (s.port k).stalled = []) → s.vigil.phase ≠ .off →
    (s.accWaits p x = true → step s = .next tick) ∧
    (s.accWaits p x = false → step s = .next (State.windowNow (tick.setPort p { s.port p with stalled := [] }) p x))

/-- A command whose operands are well formed completes in every state, and leaves the queue as it is; any other faults, as naming no part of
the unit (log entry 23), and none is refused. -/
def Obligations.CommandsComplete : Prop := ∀ (c : Instr) (s : State),
  (c.ok = true → Goes c s fun t => t.pending = s.pending) ∧ (c.ok = false → exec c s = .fault .noSuchPart)

/-- A queue of well-formed commands runs for ever: no step of it ends in a fault or a refusal. -/
def Obligations.ReadyRunsSafely : Prop := ∀ s : State, Safety.Ready s → Safety.Safe s

/-- Every step of the unit, whatever the command, keeps memory in its canonical form: rising addresses, and no entry that reads as an
unlisted word would (log entry 21: the form is the model's). -/
def Obligations.MemoryStaysCanonical : Prop := ∀ s t : State, s.mem.wf = true → step s = .next t → t.mem.wf = true

/-- R397, R409, R279, R336, R337, Table 17-4: after reset the unit is HELD with NO_CONFIG; every queue pair is UNCREATED and in its port;
events are masked; no admin queue is enabled; nothing is stored, waiting or counted; and memory is in canonical form. That a cold start has
ended, and the values the spec leaves open, are the model's choice (log entries 1, 2 and 4). -/
def Obligations.ResetIsHeld : Prop :=
  let s := State.reset
  s.stateCode = 3 ∧ s.heldReason = some (5, 0) ∧ s.flags = 0 ∧ s.vigil.fckStep = 4 ∧ s.pending = [] ∧ s.out = [] ∧ s.mem.wf = true ∧
  (∀ q, (s.queue q).st = .uncreated ∧ s.ownerOf q = q % 4) ∧
  (∀ p, (s.port p).eventMask = 0xFFFFFFFFFFFFFFFF ∧ (s.port p).eventCause = 0 ∧ (s.port p).enable = false ∧ (s.port p).bar2 = 0) ∧
  (∀ l, (s.brim l).st = .detect) ∧ (∀ f, (s.field f).health = .healthy) ∧ s.jobs = [] ∧ s.plans = [] ∧ s.log.recs = [] ∧
  (∀ a, s.mem.get a = {}) ∧ ∀ b i, (s.counter b i).val = 0
end

