-- ==== Sys2Proof/Laws/Flits.lean ====
section
/-! SUPPORT. Flits and frames below their CRC: the fields of a word with a CRC on top are those of the word, and the CRC holds. -/

namespace Sys2Proof.Machine

variable {W n c p : Nat}

/-- A number with 32 bits on top. -/
theorem toNat_top (hW : p + 32 = W) (hn : n < 2 ^ p) (hc : c < 2 ^ 32) : (BitVec.ofNat W (n + c * 2 ^ p)).toNat = n + c * 2 ^ p := by
  rw [BitVec.toNat_ofNat]; apply Nat.mod_eq_of_lt
  have : n + c * 2 ^ p < 2 ^ p * 2 ^ 32 := by
    calc n + c * 2 ^ p < 2 ^ p + c * 2 ^ p := Nat.add_lt_add_right hn _
      _ = (c + 1) * 2 ^ p := by rw [Nat.succ_mul, Nat.add_comm]
      _ ≤ 2 ^ 32 * 2 ^ p := Nat.mul_le_mul_right _ hc
      _ = 2 ^ p * 2 ^ 32 := Nat.mul_comm _ _
  rw [← hW, Nat.pow_add]; exact this

theorem fld_top (hW : p + 32 = W) (hn : n < 2 ^ p) (hc : c < 2 ^ 32) : fld (BitVec.ofNat W (n + c * 2 ^ p)) p 32 = c := by
  rw [fld, BitVec.extractLsb'_toNat, toNat_top hW hn hc, Nat.shiftRight_eq_div_pow, Nat.add_mul_div_right _ _ (Nat.two_pow_pos p),
    Nat.div_eq_of_lt hn, Nat.zero_add, Nat.mod_eq_of_lt hc]

theorem fld_below {lo len : Nat} (hW : p + 32 = W) (hn : n < 2 ^ p) (hc : c < 2 ^ 32) (hl : lo + len ≤ p) :
    fld (BitVec.ofNat W (n + c * 2 ^ p)) lo len = n / 2 ^ lo % 2 ^ len := by
  obtain ⟨k, rfl⟩ := Nat.exists_eq_add_of_le hl
  have e : c * 2 ^ (lo + len + k) = c * 2 ^ k * 2 ^ len * 2 ^ lo := by rw [Nat.pow_add, Nat.pow_add]; ac_rfl
  rw [fld, BitVec.extractLsb'_toNat, toNat_top hW hn hc, Nat.shiftRight_eq_div_pow, e, Nat.add_mul_div_right _ _ (Nat.two_pow_pos lo),
    Nat.add_mul_mod_self_right]

theorem bit_below {i : Nat} (hW : p + 32 = W) (hn : n < 2 ^ p) (hc : c < 2 ^ 32) (hi : i < p) :
    bit (BitVec.ofNat W (n + c * 2 ^ p)) i = n.testBit i := by
  have h := fld_below (lo := i) (len := 1) hW hn hc hi
  have h2 : fld (BitVec.ofNat W (n + c * 2 ^ p)) i 1 = (bit (BitVec.ofNat W (n + c * 2 ^ p)) i).toNat := by
    rw [fld, BitVec.extractLsb'_toNat, bit, BitVec.getLsbD, Nat.shiftRight_eq_div_pow]
    generalize (BitVec.ofNat W (n + c * 2 ^ p)).toNat = x
    rw [Nat.pow_one, ← Nat.toNat_testBit]
  rw [h2, Nat.pow_one, ← Nat.toNat_testBit] at h
  revert h; cases bit (BitVec.ofNat W (n + c * 2 ^ p)) i <;> cases n.testBit i <;> simp

/-- A flit whose first 252 bytes are a number, with its CRC (R243). -/
def wholeFlit (n : Nat) : Flit := BitVec.ofNat 2048 (n + (crc32c (leBytes 252 n)).toNat * 2 ^ 2016)

theorem wholeFlit_fld {lo len : Nat} (hn : n < 2 ^ 2016) (hl : lo + len ≤ 2016) : fld (wholeFlit n) lo len = n / 2 ^ lo % 2 ^ len :=
  fld_below (by decide) hn (crc32c (leBytes 252 n)).isLt hl
theorem wholeFlit_bit {i : Nat} (hn : n < 2 ^ 2016) (hi : i < 2016) : bit (wholeFlit n) i = n.testBit i :=
  bit_below (by decide) hn (crc32c (leBytes 252 n)).isLt hi
theorem wholeFlit_crc (hn : n < 2 ^ 2016) : flitCrc (wholeFlit n) = true := by
  have hc := (crc32c (leBytes 252 n)).isLt
  have h : (wholeFlit n).toNat = n + (crc32c (leBytes 252 n)).toNat * 2 ^ 2016 := toNat_top (by decide) hn hc
  unfold flitCrc flitBytes
  rw [h, Nat.add_mul_mod_self_right, Nat.mod_eq_of_lt hn, wholeFlit, fld_top (by decide) hn hc, decide_eq_true rfl]

/-- A frame whose first 268 bytes are a number, with its CRC. -/
def wholeFrame (n : Nat) : Frame := BitVec.ofNat 2176 (n + (crc32c (leBytes 268 n)).toNat * 2 ^ 2144)

theorem wholeFrame_fld {lo len : Nat} (hn : n < 2 ^ 2144) (hl : lo + len ≤ 2144) : fld (wholeFrame n) lo len = n / 2 ^ lo % 2 ^ len :=
  fld_below (by decide) hn (crc32c (leBytes 268 n)).isLt hl
theorem wholeFrame_bit {i : Nat} (hn : n < 2 ^ 2144) (hi : i < 2144) : bit (wholeFrame n) i = n.testBit i :=
  bit_below (by decide) hn (crc32c (leBytes 268 n)).isLt hi
theorem wholeFrame_crc (hn : n < 2 ^ 2144) : frameCrc (wholeFrame n) = true := by
  have hc := (crc32c (leBytes 268 n)).isLt
  have h : (wholeFrame n).toNat = n + (crc32c (leBytes 268 n)).toNat * 2 ^ 2144 := toNat_top (by decide) hn hc
  unfold frameCrc frameBytes
  rw [h, Nat.add_mul_mod_self_right, Nat.mod_eq_of_lt hn, wholeFrame, fld_top (by decide) hn hc, decide_eq_true rfl]

end Sys2Proof.Machine
end

