-- ==== Sys2Proof/Laws/Sparse.lean ====
section
/-! SUPPORT. Sparse data: reading after writing, and the canonical form. -/

namespace Sys2Proof.Sparse

variable {α : Type}

@[simp] theorem find_nil (k : Nat) : find ([] : Sparse α) k = none := rfl

theorem find_del_same (m : Sparse α) (k : Nat) : find (del m k) k = none := by
  induction m with
  | nil => rfl
  | cons p m ih =>
    simp only [del, List.filter_cons] at ih ⊢
    split
    · rename_i h; simp only [find]; rw [if_neg (fun e => by simp [e] at h)]; exact ih
    · exact ih

theorem find_del_ne (m : Sparse α) {k j : Nat} (h : j ≠ k) : find (del m k) j = find m j := by
  induction m with
  | nil => rfl
  | cons p m ih =>
    simp only [del, List.filter_cons] at ih ⊢
    split
    · simp only [find]; rw [ih]
    · rename_i hp; simp only [find]; rw [if_neg (fun e => by simp at hp; exact h (e.trans hp))]; exact ih

theorem find_ins_same (m : Sparse α) (k : Nat) (v : α) (h : find m k = none) : find (ins m k v) k = some v := by
  induction m with
  | nil => simp [ins, find]
  | cons p m ih =>
    simp only [ins]
    split
    · simp [find]
    · have hp : k ≠ p.1 := fun e => by simp [find, e] at h
      simp only [find, if_neg hp] at h ⊢; exact ih h

theorem find_ins_ne (m : Sparse α) {k j : Nat} (v : α) (h : j ≠ k) : find (ins m k v) j = find m j := by
  induction m with
  | nil => simp [ins, find, h]
  | cons p m ih =>
    simp only [ins]
    split
    · simp [find, h]
    · simp only [find]; rw [ih]

@[simp] theorem find_put_same (m : Sparse α) (k : Nat) (v : α) : find (put m k v) k = some v :=
  find_ins_same _ _ _ (find_del_same m k)

theorem find_put_ne (m : Sparse α) {k j : Nat} (v : α) (h : j ≠ k) : find (put m k v) j = find m j :=
  (find_ins_ne _ v h).trans (find_del_ne m h)

@[simp] theorem get_nil (d : α) (k : Nat) : get d [] k = d := rfl

@[simp] theorem get_set_same [DecidableEq α] (d : α) (m : Sparse α) (k : Nat) (v : α) : get d (set d m k v) k = v := by
  unfold set get; split
  · rename_i h; simp [find_del_same, h]
  · simp

theorem get_set_ne [DecidableEq α] (d : α) (m : Sparse α) {k j : Nat} (v : α) (h : j ≠ k) :
    get d (set d m k v) j = get d m j := by
  unfold set get; split
  · rw [find_del_ne m h]
  · rw [find_put_ne m v h]

theorem get_set [DecidableEq α] (d : α) (m : Sparse α) (k j : Nat) (v : α) :
    get d (set d m k v) j = if j = k then v else get d m j := by
  split
  · rename_i h; subst h; simp
  · rename_i h; exact get_set_ne d m v h

/-! ### The canonical form -/

theorem sortedFrom_filter {lo : Nat} (m : Sparse α) (p : Nat × α → Bool) (h : sortedFrom lo m = true) :
    sortedFrom lo (m.filter p) = true := by
  induction m generalizing lo with
  | nil => rfl
  | cons q m ih =>
    simp only [sortedFrom, Bool.and_eq_true, decide_eq_true_eq] at h
    simp only [List.filter_cons]
    split
    · simp only [sortedFrom, Bool.and_eq_true, decide_eq_true_eq]; exact ⟨h.1, ih h.2⟩
    · exact ih (lo := lo) (by
        cases m with
        | nil => rfl
        | cons r m =>
          simp only [sortedFrom, Bool.and_eq_true, decide_eq_true_eq] at h ⊢
          exact ⟨Nat.lt_trans h.1 h.2.1, h.2.2⟩)

theorem sortedFrom_ins {lo k : Nat} (m : Sparse α) (v : α) (h : sortedFrom lo m = true) (hk : lo < k)
    (hn : find m k = none) : sortedFrom lo (ins m k v) = true := by
  induction m generalizing lo with
  | nil => simp [ins, sortedFrom, hk]
  | cons q m ih =>
    simp only [sortedFrom, Bool.and_eq_true, decide_eq_true_eq] at h
    have hq : k ≠ q.1 := fun e => by simp [find, e] at hn
    simp only [find, if_neg hq] at hn
    simp only [ins]
    split
    · rename_i hl; simp only [sortedFrom, Bool.and_eq_true, decide_eq_true_eq]; exact ⟨hk, hl, h.2⟩
    · rename_i hl
      simp only [sortedFrom, Bool.and_eq_true, decide_eq_true_eq]
      exact ⟨h.1, ih h.2 (by omega) hn⟩

theorem sorted_filter (m : Sparse α) (p : Nat × α → Bool) (h : sorted m = true) : sorted (m.filter p) = true := by
  induction m with
  | nil => rfl
  | cons q m ih =>
    simp only [List.filter_cons]
    split
    · exact sortedFrom_filter m p h
    · refine ih ?_
      cases m with
      | nil => rfl
      | cons r m => simp only [sorted, sortedFrom, Bool.and_eq_true, decide_eq_true_eq] at h ⊢; exact h.2

theorem sorted_ins (m : Sparse α) (k : Nat) (v : α) (h : sorted m = true) (hn : find m k = none) :
    sorted (ins m k v) = true := by
  cases m with
  | nil => rfl
  | cons q m =>
    have hq : k ≠ q.1 := fun e => by simp [find, e] at hn
    simp only [find, if_neg hq] at hn
    simp only [ins]
    split
    · rename_i hl; simp only [sorted, sortedFrom, Bool.and_eq_true, decide_eq_true_eq] at h ⊢; exact ⟨hl, h⟩
    · rename_i hl; exact sortedFrom_ins m v h (by omega) hn

theorem sorted_put (m : Sparse α) (k : Nat) (v : α) (h : sorted m = true) : sorted (put m k v) = true :=
  sorted_ins _ k v (sorted_filter m _ h) (find_del_same m k)

theorem sorted_set [DecidableEq α] (d : α) (m : Sparse α) (k : Nat) (v : α) (h : sorted m = true) :
    sorted (set d m k v) = true := by
  unfold set; split
  · exact sorted_filter m _ h
  · exact sorted_put m k v h

/-- What an entry of `put` is. -/
theorem mem_ins (m : Sparse α) (k : Nat) (v : α) (p : Nat × α) : p ∈ ins m k v ↔ p = (k, v) ∨ p ∈ m := by
  induction m with
  | nil => simp [ins]
  | cons q m ih =>
    simp only [ins]
    split
    · simp
    · simp only [List.mem_cons, ih]; constructor
      · rintro (h | h | h) <;> simp [h]
      · rintro (h | h | h) <;> simp [h]

theorem mem_put {m : Sparse α} {k : Nat} {v : α} {p : Nat × α} (h : p ∈ put m k v) : p = (k, v) ∨ p ∈ m :=
  ((mem_ins _ k v p).1 h).imp id (fun h => (List.mem_filter.1 h).1)

end Sys2Proof.Sparse
end

