-- ==== Sys2Proof/Laws/Memory.lean ====
section
/-! SUPPORT. Memory: reading after writing, and the canonical form kept by every operation. -/

namespace Sys2Proof.Machine

theorem Memory.get_set_same (m : Memory) (a : Nat) (v : Stored) : (m.set a v).get a = v := by
  unfold Memory.set Memory.get; dsimp only; split
  · rename_i h; rw [Sparse.find_del_same]; exact h.symm
  · rw [Sparse.find_put_same]; rfl

theorem Memory.get_set_ne (m : Memory) {a b : Nat} (v : Stored) (h : b ≠ a) : (m.set a v).get b = m.get b := by
  unfold Memory.set Memory.get; dsimp only; split
  · rw [Sparse.find_del_ne _ h]; rfl
  · rw [Sparse.find_put_ne _ _ h]; rfl

theorem Memory.set_wf (m : Memory) (a : Nat) (v : Stored) (h : m.wf = true) : (m.set a v).wf = true := by
  simp only [Memory.wf, Bool.and_eq_true, List.all_eq_true, decide_eq_true_eq] at h ⊢
  unfold Memory.set; dsimp only; split
  · exact ⟨Sparse.sorted_filter _ _ h.1, fun p hp => h.2 p (List.mem_filter.1 hp).1⟩
  · rename_i hv
    refine ⟨Sparse.sorted_put _ _ _ h.1, fun p hp => ?_⟩
    rcases Sparse.mem_put hp with e | e
    · subst e; exact hv
    · exact h.2 p e

theorem Region.has_of_inside {q r : Region} {a : Nat} (h : q.inside r = true) (ha : q.has a = true) : r.has a = true := by
  simp only [Region.inside, Region.has, Bool.and_eq_true, decide_eq_true_eq] at *; omega

theorem Region.meets_of_has {q r : Region} {a : Nat} (hq : q.has a = true) (hr : r.has a = true) : q.meets r = true := by
  simp only [Region.meets, Region.has, Bool.and_eq_true, decide_eq_true_eq] at *; omega

/-- Dropping ranges inside one that does not hold an address changes nothing there. -/
theorem Region.find_rest (l : List Region) (r : Region) (a : Nat) (h : r.has a = false) :
    (l.filter fun q => !q.inside r).find? (·.has a) = l.find? (·.has a) := by
  induction l with
  | nil => rfl
  | cons q l ih =>
    simp only [List.filter_cons]; split
    · simp only [List.find?_cons]; rw [ih]
    · rename_i hq; simp only [Bool.not_eq_true', Bool.not_eq_false] at hq
      have : q.has a = false := by
        cases e : q.has a
        · rfl
        · rw [Region.has_of_inside hq e] at h; exact h
      simp [this, ih]

/-- What an unlisted word holds outside a filled range. -/
theorem Memory.fill_base_out (m : Memory) (r : Region) (a : Nat) (h : r.has a = false) : (m.fill r).base a = m.base a := by
  have : (m.fill r).regions.find? (·.has a) = m.regions.find? (·.has a) := by
    unfold Memory.fill; dsimp only
    split
    · exact Region.find_rest _ _ _ h
    · rw [List.find?_cons]; simp only [h]; exact Region.find_rest _ _ _ h
  simp only [Memory.base, this]

/-- What an unlisted word holds within it. -/
theorem Memory.fill_base (m : Memory) (r : Region) (a : Nat) (h : r.has a = true) :
    (m.fill r).base a = match r.fill with
      | .zero => {}
      | .poisonZero => { poison := true }
      | .unspecified e => { data := Config.freeWord e a, good := Config.freeWord e a } := by
  by_cases hz : (decide (r.fill = .zero) && (m.regions.filter fun q => !q.inside r).all fun q => !q.meets r) = true
  · have hr : (m.fill r).regions = m.regions.filter fun q => !q.inside r := if_pos hz
    simp only [Bool.and_eq_true, decide_eq_true_eq, List.all_eq_true] at hz
    have : (m.regions.filter fun q => !q.inside r).find? (·.has a) = none := by
      rw [List.find?_eq_none]; intro q hq e
      have := hz.2 q hq; rw [Region.meets_of_has e h] at this; cases this
    simp only [Memory.base, hr, this, hz.1]
  · have hr : (m.fill r).regions = r :: m.regions.filter fun q => !q.inside r := if_neg hz
    simp only [Memory.base, hr, List.find?_cons, h] <;> cases r.fill <;> rfl

theorem Memory.fill_wf (m : Memory) (r : Region) (h : m.wf = true) : (m.fill r).wf = true := by
  simp only [Memory.wf, Bool.and_eq_true, List.all_eq_true, decide_eq_true_eq] at h ⊢
  refine ⟨Sparse.sorted_filter _ _ h.1, fun p hp => ?_⟩
  obtain ⟨hm, hr⟩ := List.mem_filter.1 hp
  rw [Memory.fill_base_out m r p.1 (by simpa using hr)]; exact h.2 p hm

/-- A fill sets every word of its range. -/
theorem Memory.fill_get (m : Memory) (r : Region) (a : Nat) (h : r.has a = true) :
    (m.fill r).get a = match r.fill with
      | .zero => {}
      | .poisonZero => { poison := true }
      | .unspecified e => { data := Config.freeWord e a, good := Config.freeWord e a } := by
  have : Sparse.find (m.fill r).cells a = none := by
    unfold Memory.fill; dsimp only
    generalize m.cells = l
    induction l with
    | nil => rfl
    | cons p l ih =>
      simp only [List.filter_cons]; split
      · rename_i hp; simp only [Sparse.find]; rw [if_neg (fun e => by simp [← e, h] at hp)]; exact ih
      · exact ih
  simp only [Memory.get, this, Option.getD_none]; exact Memory.fill_base m r a h

/-- A fill leaves every word outside its range. -/
theorem Memory.fill_get_out (m : Memory) (r : Region) (a : Nat) (h : r.has a = false) : (m.fill r).get a = m.get a := by
  have : Sparse.find (m.fill r).cells a = Sparse.find m.cells a := by
    unfold Memory.fill; dsimp only
    generalize m.cells = l
    induction l with
    | nil => rfl
    | cons p l ih =>
      simp only [List.filter_cons]; split
      · simp only [Sparse.find]; rw [ih]
      · rename_i hp; simp only [Sparse.find]; rw [if_neg (fun e => by simp [← e, h] at hp)]; exact ih
  simp only [Memory.get, this, Memory.fill_base_out m r a h]

end Sys2Proof.Machine
end

