-- ==== Sys2Proof/Laws/State.lean ====
section
/-! SUPPORT. One lemma per field of State per update: the update's own field, and every other unchanged. -/

namespace Sys2Proof.Machine

/-! ### A command's parts -/

@[simp] theorem State.take_pending (t s : State) (p : Part) : (State.take t s p).pending = s.pending := by cases p <;> rfl
theorem State.take_freeCtr (t s : State) (p : Part) : (State.take t s p).freeCtr = if p = .freeCtr then t.freeCtr else s.freeCtr := by
  cases p <;> rfl
theorem State.take_out (t s : State) (p : Part) : (State.take t s p).out = if p = .out then t.out else s.out := by
  cases p <;> rfl
theorem State.take_mem (t s : State) (p : Part) : (State.take t s p).mem = if p = .mem then t.mem else s.mem := by
  cases p <;> rfl
theorem State.take_bus (t s : State) (p : Part) : (State.take t s p).bus = if p = .bus then t.bus else s.bus := by
  cases p <;> rfl
theorem State.take_cores (t s : State) (p : Part) : (State.take t s p).cores = if p = .cores then t.cores else s.cores := by
  cases p <;> rfl
theorem State.take_fields (t s : State) (p : Part) : (State.take t s p).fields = if p = .fields then t.fields else s.fields := by
  cases p <;> rfl
theorem State.take_edges (t s : State) (p : Part) : (State.take t s p).edges = if p = .edges then t.edges else s.edges := by
  cases p <;> rfl
theorem State.take_ports (t s : State) (p : Part) : (State.take t s p).ports = if p = .ports then t.ports else s.ports := by
  cases p <;> rfl
theorem State.take_winReqs (t s : State) (p : Part) : (State.take t s p).winReqs = if p = .winReqs then t.winReqs else s.winReqs := by
  cases p <;> rfl
theorem State.take_reqNo (t s : State) (p : Part) : (State.take t s p).reqNo = if p = .reqNo then t.reqNo else s.reqNo := by
  cases p <;> rfl
theorem State.take_owner (t s : State) (p : Part) : (State.take t s p).owner = if p = .owner then t.owner else s.owner := by
  cases p <;> rfl
theorem State.take_queues (t s : State) (p : Part) : (State.take t s p).queues = if p = .queues then t.queues else s.queues := by
  cases p <;> rfl
theorem State.take_msgs (t s : State) (p : Part) : (State.take t s p).msgs = if p = .msgs then t.msgs else s.msgs := by
  cases p <;> rfl
theorem State.take_plans (t s : State) (p : Part) : (State.take t s p).plans = if p = .plans then t.plans else s.plans := by
  cases p <;> rfl
theorem State.take_planGens (t s : State) (p : Part) : (State.take t s p).planGens = if p = .planGens then t.planGens else s.planGens := by
  cases p <;> rfl
theorem State.take_jobs (t s : State) (p : Part) : (State.take t s p).jobs = if p = .jobs then t.jobs else s.jobs := by
  cases p <;> rfl
theorem State.take_streams (t s : State) (p : Part) : (State.take t s p).streams = if p = .streams then t.streams else s.streams := by
  cases p <;> rfl
theorem State.take_streamGens (t s : State) (p : Part) : (State.take t s p).streamGens = if p = .streamGens then t.streamGens else s.streamGens := by
  cases p <;> rfl
theorem State.take_staged (t s : State) (p : Part) : (State.take t s p).staged = if p = .staged then t.staged else s.staged := by
  cases p <;> rfl
theorem State.take_active (t s : State) (p : Part) : (State.take t s p).active = if p = .active then t.active else s.active := by
  cases p <;> rfl
theorem State.take_record (t s : State) (p : Part) : (State.take t s p).record = if p = .record then t.record else s.record := by
  cases p <;> rfl
theorem State.take_cfgGens (t s : State) (p : Part) : (State.take t s p).cfgGens = if p = .cfgGens then t.cfgGens else s.cfgGens := by
  cases p <;> rfl
theorem State.take_fabStaged (t s : State) (p : Part) : (State.take t s p).fabStaged = if p = .fabStaged then t.fabStaged else s.fabStaged := by
  cases p <;> rfl
theorem State.take_fabActive (t s : State) (p : Part) : (State.take t s p).fabActive = if p = .fabActive then t.fabActive else s.fabActive := by
  cases p <;> rfl
theorem State.take_fabGen (t s : State) (p : Part) : (State.take t s p).fabGen = if p = .fabGen then t.fabGen else s.fabGen := by
  cases p <;> rfl
theorem State.take_requests (t s : State) (p : Part) : (State.take t s p).requests = if p = .requests then t.requests else s.requests := by
  cases p <;> rfl
theorem State.take_fw (t s : State) (p : Part) : (State.take t s p).fw = if p = .fw then t.fw else s.fw := by
  cases p <;> rfl
theorem State.take_lanterns (t s : State) (p : Part) : (State.take t s p).lanterns = if p = .lanterns then t.lanterns else s.lanterns := by
  cases p <;> rfl
theorem State.take_limits (t s : State) (p : Part) : (State.take t s p).limits = if p = .limits then t.limits else s.limits := by
  cases p <;> rfl
theorem State.take_sensors (t s : State) (p : Part) : (State.take t s p).sensors = if p = .sensors then t.sensors else s.sensors := by
  cases p <;> rfl
theorem State.take_vigil (t s : State) (p : Part) : (State.take t s p).vigil = if p = .vigil then t.vigil else s.vigil := by
  cases p <;> rfl
theorem State.take_log (t s : State) (p : Part) : (State.take t s p).log = if p = .log then t.log else s.log := by
  cases p <;> rfl
theorem State.take_counters (t s : State) (p : Part) : (State.take t s p).counters = if p = .counters then t.counters else s.counters := by
  cases p <;> rfl
theorem State.take_mesh (t s : State) (p : Part) : (State.take t s p).mesh = if p = .mesh then t.mesh else s.mesh := by
  cases p <;> rfl
theorem State.take_brims (t s : State) (p : Part) : (State.take t s p).brims = if p = .brims then t.brims else s.brims := by
  cases p <;> rfl
theorem State.take_slots (t s : State) (p : Part) : (State.take t s p).slots = if p = .slots then t.slots else s.slots := by
  cases p <;> rfl
theorem State.take_smb (t s : State) (p : Part) : (State.take t s p).smb = if p = .smb then t.smb else s.smb := by
  cases p <;> rfl
theorem State.take_jtag (t s : State) (p : Part) : (State.take t s p).jtag = if p = .jtag then t.jtag else s.jtag := by
  cases p <;> rfl

@[simp] theorem State.within_pending (s t : State) (ps : List Part) : (s.within ps t).pending = s.pending := by
  unfold State.within
  induction ps generalizing s with
  | nil => rfl
  | cons p ps ih => simp only [List.foldl_cons]; rw [ih]; simp

/-- The parts of a command come from its meaning, and no other part changes. -/
@[simp] theorem State.within_freeCtr (s t : State) (ps : List Part) :
    (s.within ps t).freeCtr = if .freeCtr ∈ ps then t.freeCtr else s.freeCtr := by
  unfold State.within
  induction ps generalizing s with
  | nil => rfl
  | cons p ps ih =>
    simp only [List.foldl_cons]; rw [ih, State.take_freeCtr]
    by_cases h : p = .freeCtr <;> by_cases g : Part.freeCtr ∈ ps <;> simp [h, g, @eq_comm _ _ p]
@[simp] theorem State.within_out (s t : State) (ps : List Part) :
    (s.within ps t).out = if .out ∈ ps then t.out else s.out := by
  unfold State.within
  induction ps generalizing s with
  | nil => rfl
  | cons p ps ih =>
    simp only [List.foldl_cons]; rw [ih, State.take_out]
    by_cases h : p = .out <;> by_cases g : Part.out ∈ ps <;> simp [h, g, @eq_comm _ _ p]
@[simp] theorem State.within_mem (s t : State) (ps : List Part) :
    (s.within ps t).mem = if .mem ∈ ps then t.mem else s.mem := by
  unfold State.within
  induction ps generalizing s with
  | nil => rfl
  | cons p ps ih =>
    simp only [List.foldl_cons]; rw [ih, State.take_mem]
    by_cases h : p = .mem <;> by_cases g : Part.mem ∈ ps <;> simp [h, g, @eq_comm _ _ p]
@[simp] theorem State.within_bus (s t : State) (ps : List Part) :
    (s.within ps t).bus = if .bus ∈ ps then t.bus else s.bus := by
  unfold State.within
  induction ps generalizing s with
  | nil => rfl
  | cons p ps ih =>
    simp only [List.foldl_cons]; rw [ih, State.take_bus]
    by_cases h : p = .bus <;> by_cases g : Part.bus ∈ ps <;> simp [h, g, @eq_comm _ _ p]
@[simp] theorem State.within_cores (s t : State) (ps : List Part) :
    (s.within ps t).cores = if .cores ∈ ps then t.cores else s.cores := by
  unfold State.within
  induction ps generalizing s with
  | nil => rfl
  | cons p ps ih =>
    simp only [List.foldl_cons]; rw [ih, State.take_cores]
    by_cases h : p = .cores <;> by_cases g : Part.cores ∈ ps <;> simp [h, g, @eq_comm _ _ p]
@[simp] theorem State.within_fields (s t : State) (ps : List Part) :
    (s.within ps t).fields = if .fields ∈ ps then t.fields else s.fields := by
  unfold State.within
  induction ps generalizing s with
  | nil => rfl
  | cons p ps ih =>
    simp only [List.foldl_cons]; rw [ih, State.take_fields]
    by_cases h : p = .fields <;> by_cases g : Part.fields ∈ ps <;> simp [h, g, @eq_comm _ _ p]
@[simp] theorem State.within_edges (s t : State) (ps : List Part) :
    (s.within ps t).edges = if .edges ∈ ps then t.edges else s.edges := by
  unfold State.within
  induction ps generalizing s with
  | nil => rfl
  | cons p ps ih =>
    simp only [List.foldl_cons]; rw [ih, State.take_edges]
    by_cases h : p = .edges <;> by_cases g : Part.edges ∈ ps <;> simp [h, g, @eq_comm _ _ p]
@[simp] theorem State.within_ports (s t : State) (ps : List Part) :
    (s.within ps t).ports = if .ports ∈ ps then t.ports else s.ports := by
  unfold State.within
  induction ps generalizing s with
  | nil => rfl
  | cons p ps ih =>
    simp only [List.foldl_cons]; rw [ih, State.take_ports]
    by_cases h : p = .ports <;> by_cases g : Part.ports ∈ ps <;> simp [h, g, @eq_comm _ _ p]
@[simp] theorem State.within_winReqs (s t : State) (ps : List Part) :
    (s.within ps t).winReqs = if .winReqs ∈ ps then t.winReqs else s.winReqs := by
  unfold State.within
  induction ps generalizing s with
  | nil => rfl
  | cons p ps ih =>
    simp only [List.foldl_cons]; rw [ih, State.take_winReqs]
    by_cases h : p = .winReqs <;> by_cases g : Part.winReqs ∈ ps <;> simp [h, g, @eq_comm _ _ p]
@[simp] theorem State.within_reqNo (s t : State) (ps : List Part) :
    (s.within ps t).reqNo = if .reqNo ∈ ps then t.reqNo else s.reqNo := by
  unfold State.within
  induction ps generalizing s with
  | nil => rfl
  | cons p ps ih =>
    simp only [List.foldl_cons]; rw [ih, State.take_reqNo]
    by_cases h : p = .reqNo <;> by_cases g : Part.reqNo ∈ ps <;> simp [h, g, @eq_comm _ _ p]
@[simp] theorem State.within_owner (s t : State) (ps : List Part) :
    (s.within ps t).owner = if .owner ∈ ps then t.owner else s.owner := by
  unfold State.within
  induction ps generalizing s with
  | nil => rfl
  | cons p ps ih =>
    simp only [List.foldl_cons]; rw [ih, State.take_owner]
    by_cases h : p = .owner <;> by_cases g : Part.owner ∈ ps <;> simp [h, g, @eq_comm _ _ p]
@[simp] theorem State.within_queues (s t : State) (ps : List Part) :
    (s.within ps t).queues = if .queues ∈ ps then t.queues else s.queues := by
  unfold State.within
  induction ps generalizing s with
  | nil => rfl
  | cons p ps ih =>
    simp only [List.foldl_cons]; rw [ih, State.take_queues]
    by_cases h : p = .queues <;> by_cases g : Part.queues ∈ ps <;> simp [h, g, @eq_comm _ _ p]
@[simp] theorem State.within_msgs (s t : State) (ps : List Part) :
    (s.within ps t).msgs = if .msgs ∈ ps then t.msgs else s.msgs := by
  unfold State.within
  induction ps generalizing s with
  | nil => rfl
  | cons p ps ih =>
    simp only [List.foldl_cons]; rw [ih, State.take_msgs]
    by_cases h : p = .msgs <;> by_cases g : Part.msgs ∈ ps <;> simp [h, g, @eq_comm _ _ p]
@[simp] theorem State.within_plans (s t : State) (ps : List Part) :
    (s.within ps t).plans = if .plans ∈ ps then t.plans else s.plans := by
  unfold State.within
  induction ps generalizing s with
  | nil => rfl
  | cons p ps ih =>
    simp only [List.foldl_cons]; rw [ih, State.take_plans]
    by_cases h : p = .plans <;> by_cases g : Part.plans ∈ ps <;> simp [h, g, @eq_comm _ _ p]
@[simp] theorem State.within_planGens (s t : State) (ps : List Part) :
    (s.within ps t).planGens = if .planGens ∈ ps then t.planGens else s.planGens := by
  unfold State.within
  induction ps generalizing s with
  | nil => rfl
  | cons p ps ih =>
    simp only [List.foldl_cons]; rw [ih, State.take_planGens]
    by_cases h : p = .planGens <;> by_cases g : Part.planGens ∈ ps <;> simp [h, g, @eq_comm _ _ p]
@[simp] theorem State.within_jobs (s t : State) (ps : List Part) :
    (s.within ps t).jobs = if .jobs ∈ ps then t.jobs else s.jobs := by
  unfold State.within
  induction ps generalizing s with
  | nil => rfl
  | cons p ps ih =>
    simp only [List.foldl_cons]; rw [ih, State.take_jobs]
    by_cases h : p = .jobs <;> by_cases g : Part.jobs ∈ ps <;> simp [h, g, @eq_comm _ _ p]
@[simp] theorem State.within_streams (s t : State) (ps : List Part) :
    (s.within ps t).streams = if .streams ∈ ps then t.streams else s.streams := by
  unfold State.within
  induction ps generalizing s with
  | nil => rfl
  | cons p ps ih =>
    simp only [List.foldl_cons]; rw [ih, State.take_streams]
    by_cases h : p = .streams <;> by_cases g : Part.streams ∈ ps <;> simp [h, g, @eq_comm _ _ p]
@[simp] theorem State.within_streamGens (s t : State) (ps : List Part) :
    (s.within ps t).streamGens = if .streamGens ∈ ps then t.streamGens else s.streamGens := by
  unfold State.within
  induction ps generalizing s with
  | nil => rfl
  | cons p ps ih =>
    simp only [List.foldl_cons]; rw [ih, State.take_streamGens]
    by_cases h : p = .streamGens <;> by_cases g : Part.streamGens ∈ ps <;> simp [h, g, @eq_comm _ _ p]
@[simp] theorem State.within_staged (s t : State) (ps : List Part) :
    (s.within ps t).staged = if .staged ∈ ps then t.staged else s.staged := by
  unfold State.within
  induction ps generalizing s with
  | nil => rfl
  | cons p ps ih =>
    simp only [List.foldl_cons]; rw [ih, State.take_staged]
    by_cases h : p = .staged <;> by_cases g : Part.staged ∈ ps <;> simp [h, g, @eq_comm _ _ p]
@[simp] theorem State.within_active (s t : State) (ps : List Part) :
    (s.within ps t).active = if .active ∈ ps then t.active else s.active := by
  unfold State.within
  induction ps generalizing s with
  | nil => rfl
  | cons p ps ih =>
    simp only [List.foldl_cons]; rw [ih, State.take_active]
    by_cases h : p = .active <;> by_cases g : Part.active ∈ ps <;> simp [h, g, @eq_comm _ _ p]
@[simp] theorem State.within_record (s t : State) (ps : List Part) :
    (s.within ps t).record = if .record ∈ ps then t.record else s.record := by
  unfold State.within
  induction ps generalizing s with
  | nil => rfl
  | cons p ps ih =>
    simp only [List.foldl_cons]; rw [ih, State.take_record]
    by_cases h : p = .record <;> by_cases g : Part.record ∈ ps <;> simp [h, g, @eq_comm _ _ p]
@[simp] theorem State.within_cfgGens (s t : State) (ps : List Part) :
    (s.within ps t).cfgGens = if .cfgGens ∈ ps then t.cfgGens else s.cfgGens := by
  unfold State.within
  induction ps generalizing s with
  | nil => rfl
  | cons p ps ih =>
    simp only [List.foldl_cons]; rw [ih, State.take_cfgGens]
    by_cases h : p = .cfgGens <;> by_cases g : Part.cfgGens ∈ ps <;> simp [h, g, @eq_comm _ _ p]
@[simp] theorem State.within_fabStaged (s t : State) (ps : List Part) :
    (s.within ps t).fabStaged = if .fabStaged ∈ ps then t.fabStaged else s.fabStaged := by
  unfold State.within
  induction ps generalizing s with
  | nil => rfl
  | cons p ps ih =>
    simp only [List.foldl_cons]; rw [ih, State.take_fabStaged]
    by_cases h : p = .fabStaged <;> by_cases g : Part.fabStaged ∈ ps <;> simp [h, g, @eq_comm _ _ p]
@[simp] theorem State.within_fabActive (s t : State) (ps : List Part) :
    (s.within ps t).fabActive = if .fabActive ∈ ps then t.fabActive else s.fabActive := by
  unfold State.within
  induction ps generalizing s with
  | nil => rfl
  | cons p ps ih =>
    simp only [List.foldl_cons]; rw [ih, State.take_fabActive]
    by_cases h : p = .fabActive <;> by_cases g : Part.fabActive ∈ ps <;> simp [h, g, @eq_comm _ _ p]
@[simp] theorem State.within_fabGen (s t : State) (ps : List Part) :
    (s.within ps t).fabGen = if .fabGen ∈ ps then t.fabGen else s.fabGen := by
  unfold State.within
  induction ps generalizing s with
  | nil => rfl
  | cons p ps ih =>
    simp only [List.foldl_cons]; rw [ih, State.take_fabGen]
    by_cases h : p = .fabGen <;> by_cases g : Part.fabGen ∈ ps <;> simp [h, g, @eq_comm _ _ p]
@[simp] theorem State.within_requests (s t : State) (ps : List Part) :
    (s.within ps t).requests = if .requests ∈ ps then t.requests else s.requests := by
  unfold State.within
  induction ps generalizing s with
  | nil => rfl
  | cons p ps ih =>
    simp only [List.foldl_cons]; rw [ih, State.take_requests]
    by_cases h : p = .requests <;> by_cases g : Part.requests ∈ ps <;> simp [h, g, @eq_comm _ _ p]
@[simp] theorem State.within_fw (s t : State) (ps : List Part) :
    (s.within ps t).fw = if .fw ∈ ps then t.fw else s.fw := by
  unfold State.within
  induction ps generalizing s with
  | nil => rfl
  | cons p ps ih =>
    simp only [List.foldl_cons]; rw [ih, State.take_fw]
    by_cases h : p = .fw <;> by_cases g : Part.fw ∈ ps <;> simp [h, g, @eq_comm _ _ p]
@[simp] theorem State.within_lanterns (s t : State) (ps : List Part) :
    (s.within ps t).lanterns = if .lanterns ∈ ps then t.lanterns else s.lanterns := by
  unfold State.within
  induction ps generalizing s with
  | nil => rfl
  | cons p ps ih =>
    simp only [List.foldl_cons]; rw [ih, State.take_lanterns]
    by_cases h : p = .lanterns <;> by_cases g : Part.lanterns ∈ ps <;> simp [h, g, @eq_comm _ _ p]
@[simp] theorem State.within_limits (s t : State) (ps : List Part) :
    (s.within ps t).limits = if .limits ∈ ps then t.limits else s.limits := by
  unfold State.within
  induction ps generalizing s with
  | nil => rfl
  | cons p ps ih =>
    simp only [List.foldl_cons]; rw [ih, State.take_limits]
    by_cases h : p = .limits <;> by_cases g : Part.limits ∈ ps <;> simp [h, g, @eq_comm _ _ p]
@[simp] theorem State.within_sensors (s t : State) (ps : List Part) :
    (s.within ps t).sensors = if .sensors ∈ ps then t.sensors else s.sensors := by
  unfold State.within
  induction ps generalizing s with
  | nil => rfl
  | cons p ps ih =>
    simp only [List.foldl_cons]; rw [ih, State.take_sensors]
    by_cases h : p = .sensors <;> by_cases g : Part.sensors ∈ ps <;> simp [h, g, @eq_comm _ _ p]
@[simp] theorem State.within_vigil (s t : State) (ps : List Part) :
    (s.within ps t).vigil = if .vigil ∈ ps then t.vigil else s.vigil := by
  unfold State.within
  induction ps generalizing s with
  | nil => rfl
  | cons p ps ih =>
    simp only [List.foldl_cons]; rw [ih, State.take_vigil]
    by_cases h : p = .vigil <;> by_cases g : Part.vigil ∈ ps <;> simp [h, g, @eq_comm _ _ p]
@[simp] theorem State.within_log (s t : State) (ps : List Part) :
    (s.within ps t).log = if .log ∈ ps then t.log else s.log := by
  unfold State.within
  induction ps generalizing s with
  | nil => rfl
  | cons p ps ih =>
    simp only [List.foldl_cons]; rw [ih, State.take_log]
    by_cases h : p = .log <;> by_cases g : Part.log ∈ ps <;> simp [h, g, @eq_comm _ _ p]
@[simp] theorem State.within_counters (s t : State) (ps : List Part) :
    (s.within ps t).counters = if .counters ∈ ps then t.counters else s.counters := by
  unfold State.within
  induction ps generalizing s with
  | nil => rfl
  | cons p ps ih =>
    simp only [List.foldl_cons]; rw [ih, State.take_counters]
    by_cases h : p = .counters <;> by_cases g : Part.counters ∈ ps <;> simp [h, g, @eq_comm _ _ p]
@[simp] theorem State.within_mesh (s t : State) (ps : List Part) :
    (s.within ps t).mesh = if .mesh ∈ ps then t.mesh else s.mesh := by
  unfold State.within
  induction ps generalizing s with
  | nil => rfl
  | cons p ps ih =>
    simp only [List.foldl_cons]; rw [ih, State.take_mesh]
    by_cases h : p = .mesh <;> by_cases g : Part.mesh ∈ ps <;> simp [h, g, @eq_comm _ _ p]
@[simp] theorem State.within_brims (s t : State) (ps : List Part) :
    (s.within ps t).brims = if .brims ∈ ps then t.brims else s.brims := by
  unfold State.within
  induction ps generalizing s with
  | nil => rfl
  | cons p ps ih =>
    simp only [List.foldl_cons]; rw [ih, State.take_brims]
    by_cases h : p = .brims <;> by_cases g : Part.brims ∈ ps <;> simp [h, g, @eq_comm _ _ p]
@[simp] theorem State.within_slots (s t : State) (ps : List Part) :
    (s.within ps t).slots = if .slots ∈ ps then t.slots else s.slots := by
  unfold State.within
  induction ps generalizing s with
  | nil => rfl
  | cons p ps ih =>
    simp only [List.foldl_cons]; rw [ih, State.take_slots]
    by_cases h : p = .slots <;> by_cases g : Part.slots ∈ ps <;> simp [h, g, @eq_comm _ _ p]
@[simp] theorem State.within_smb (s t : State) (ps : List Part) :
    (s.within ps t).smb = if .smb ∈ ps then t.smb else s.smb := by
  unfold State.within
  induction ps generalizing s with
  | nil => rfl
  | cons p ps ih =>
    simp only [List.foldl_cons]; rw [ih, State.take_smb]
    by_cases h : p = .smb <;> by_cases g : Part.smb ∈ ps <;> simp [h, g, @eq_comm _ _ p]
@[simp] theorem State.within_jtag (s t : State) (ps : List Part) :
    (s.within ps t).jtag = if .jtag ∈ ps then t.jtag else s.jtag := by
  unfold State.within
  induction ps generalizing s with
  | nil => rfl
  | cons p ps ih =>
    simp only [List.foldl_cons]; rw [ih, State.take_jtag]
    by_cases h : p = .jtag <;> by_cases g : Part.jtag ∈ ps <;> simp [h, g, @eq_comm _ _ p]

/-! ### Setters -/

@[simp] theorem State.setBu_pending (s : State) (f c u : Nat) (b : Bu) : (s.setBu f c u b).pending = s.pending := rfl
@[simp] theorem State.setBu_freeCtr (s : State) (f c u : Nat) (b : Bu) : (s.setBu f c u b).freeCtr = s.freeCtr := rfl
@[simp] theorem State.setBu_out (s : State) (f c u : Nat) (b : Bu) : (s.setBu f c u b).out = s.out := rfl
@[simp] theorem State.setBu_mem (s : State) (f c u : Nat) (b : Bu) : (s.setBu f c u b).mem = s.mem := rfl
@[simp] theorem State.setBu_cores (s : State) (f c u : Nat) (b : Bu) : (s.setBu f c u b).cores = s.cores := rfl
@[simp] theorem State.setBu_fields (s : State) (f c u : Nat) (b : Bu) : (s.setBu f c u b).fields = s.fields := rfl
@[simp] theorem State.setBu_edges (s : State) (f c u : Nat) (b : Bu) : (s.setBu f c u b).edges = s.edges := rfl
@[simp] theorem State.setBu_ports (s : State) (f c u : Nat) (b : Bu) : (s.setBu f c u b).ports = s.ports := rfl
@[simp] theorem State.setBu_winReqs (s : State) (f c u : Nat) (b : Bu) : (s.setBu f c u b).winReqs = s.winReqs := rfl
@[simp] theorem State.setBu_reqNo (s : State) (f c u : Nat) (b : Bu) : (s.setBu f c u b).reqNo = s.reqNo := rfl
@[simp] theorem State.setBu_owner (s : State) (f c u : Nat) (b : Bu) : (s.setBu f c u b).owner = s.owner := rfl
@[simp] theorem State.setBu_queues (s : State) (f c u : Nat) (b : Bu) : (s.setBu f c u b).queues = s.queues := rfl
@[simp] theorem State.setBu_msgs (s : State) (f c u : Nat) (b : Bu) : (s.setBu f c u b).msgs = s.msgs := rfl
@[simp] theorem State.setBu_plans (s : State) (f c u : Nat) (b : Bu) : (s.setBu f c u b).plans = s.plans := rfl
@[simp] theorem State.setBu_planGens (s : State) (f c u : Nat) (b : Bu) : (s.setBu f c u b).planGens = s.planGens := rfl
@[simp] theorem State.setBu_jobs (s : State) (f c u : Nat) (b : Bu) : (s.setBu f c u b).jobs = s.jobs := rfl
@[simp] theorem State.setBu_streams (s : State) (f c u : Nat) (b : Bu) : (s.setBu f c u b).streams = s.streams := rfl
@[simp] theorem State.setBu_streamGens (s : State) (f c u : Nat) (b : Bu) : (s.setBu f c u b).streamGens = s.streamGens := rfl
@[simp] theorem State.setBu_staged (s : State) (f c u : Nat) (b : Bu) : (s.setBu f c u b).staged = s.staged := rfl
@[simp] theorem State.setBu_active (s : State) (f c u : Nat) (b : Bu) : (s.setBu f c u b).active = s.active := rfl
@[simp] theorem State.setBu_record (s : State) (f c u : Nat) (b : Bu) : (s.setBu f c u b).record = s.record := rfl
@[simp] theorem State.setBu_cfgGens (s : State) (f c u : Nat) (b : Bu) : (s.setBu f c u b).cfgGens = s.cfgGens := rfl
@[simp] theorem State.setBu_fabStaged (s : State) (f c u : Nat) (b : Bu) : (s.setBu f c u b).fabStaged = s.fabStaged := rfl
@[simp] theorem State.setBu_fabActive (s : State) (f c u : Nat) (b : Bu) : (s.setBu f c u b).fabActive = s.fabActive := rfl
@[simp] theorem State.setBu_fabGen (s : State) (f c u : Nat) (b : Bu) : (s.setBu f c u b).fabGen = s.fabGen := rfl
@[simp] theorem State.setBu_requests (s : State) (f c u : Nat) (b : Bu) : (s.setBu f c u b).requests = s.requests := rfl
@[simp] theorem State.setBu_fw (s : State) (f c u : Nat) (b : Bu) : (s.setBu f c u b).fw = s.fw := rfl
@[simp] theorem State.setBu_lanterns (s : State) (f c u : Nat) (b : Bu) : (s.setBu f c u b).lanterns = s.lanterns := rfl
@[simp] theorem State.setBu_limits (s : State) (f c u : Nat) (b : Bu) : (s.setBu f c u b).limits = s.limits := rfl
@[simp] theorem State.setBu_sensors (s : State) (f c u : Nat) (b : Bu) : (s.setBu f c u b).sensors = s.sensors := rfl
@[simp] theorem State.setBu_vigil (s : State) (f c u : Nat) (b : Bu) : (s.setBu f c u b).vigil = s.vigil := rfl
@[simp] theorem State.setBu_log (s : State) (f c u : Nat) (b : Bu) : (s.setBu f c u b).log = s.log := rfl
@[simp] theorem State.setBu_counters (s : State) (f c u : Nat) (b : Bu) : (s.setBu f c u b).counters = s.counters := rfl
@[simp] theorem State.setBu_mesh (s : State) (f c u : Nat) (b : Bu) : (s.setBu f c u b).mesh = s.mesh := rfl
@[simp] theorem State.setBu_brims (s : State) (f c u : Nat) (b : Bu) : (s.setBu f c u b).brims = s.brims := rfl
@[simp] theorem State.setBu_slots (s : State) (f c u : Nat) (b : Bu) : (s.setBu f c u b).slots = s.slots := rfl
@[simp] theorem State.setBu_smb (s : State) (f c u : Nat) (b : Bu) : (s.setBu f c u b).smb = s.smb := rfl
@[simp] theorem State.setBu_jtag (s : State) (f c u : Nat) (b : Bu) : (s.setBu f c u b).jtag = s.jtag := rfl
@[simp] theorem State.setCore_pending (s : State) (f c : Nat) (x : Core) : (s.setCore f c x).pending = s.pending := rfl
@[simp] theorem State.setCore_freeCtr (s : State) (f c : Nat) (x : Core) : (s.setCore f c x).freeCtr = s.freeCtr := rfl
@[simp] theorem State.setCore_out (s : State) (f c : Nat) (x : Core) : (s.setCore f c x).out = s.out := rfl
@[simp] theorem State.setCore_mem (s : State) (f c : Nat) (x : Core) : (s.setCore f c x).mem = s.mem := rfl
@[simp] theorem State.setCore_bus (s : State) (f c : Nat) (x : Core) : (s.setCore f c x).bus = s.bus := rfl
@[simp] theorem State.setCore_fields (s : State) (f c : Nat) (x : Core) : (s.setCore f c x).fields = s.fields := rfl
@[simp] theorem State.setCore_edges (s : State) (f c : Nat) (x : Core) : (s.setCore f c x).edges = s.edges := rfl
@[simp] theorem State.setCore_ports (s : State) (f c : Nat) (x : Core) : (s.setCore f c x).ports = s.ports := rfl
@[simp] theorem State.setCore_winReqs (s : State) (f c : Nat) (x : Core) : (s.setCore f c x).winReqs = s.winReqs := rfl
@[simp] theorem State.setCore_reqNo (s : State) (f c : Nat) (x : Core) : (s.setCore f c x).reqNo = s.reqNo := rfl
@[simp] theorem State.setCore_owner (s : State) (f c : Nat) (x : Core) : (s.setCore f c x).owner = s.owner := rfl
@[simp] theorem State.setCore_queues (s : State) (f c : Nat) (x : Core) : (s.setCore f c x).queues = s.queues := rfl
@[simp] theorem State.setCore_msgs (s : State) (f c : Nat) (x : Core) : (s.setCore f c x).msgs = s.msgs := rfl
@[simp] theorem State.setCore_plans (s : State) (f c : Nat) (x : Core) : (s.setCore f c x).plans = s.plans := rfl
@[simp] theorem State.setCore_planGens (s : State) (f c : Nat) (x : Core) : (s.setCore f c x).planGens = s.planGens := rfl
@[simp] theorem State.setCore_jobs (s : State) (f c : Nat) (x : Core) : (s.setCore f c x).jobs = s.jobs := rfl
@[simp] theorem State.setCore_streams (s : State) (f c : Nat) (x : Core) : (s.setCore f c x).streams = s.streams := rfl
@[simp] theorem State.setCore_streamGens (s : State) (f c : Nat) (x : Core) : (s.setCore f c x).streamGens = s.streamGens := rfl
@[simp] theorem State.setCore_staged (s : State) (f c : Nat) (x : Core) : (s.setCore f c x).staged = s.staged := rfl
@[simp] theorem State.setCore_active (s : State) (f c : Nat) (x : Core) : (s.setCore f c x).active = s.active := rfl
@[simp] theorem State.setCore_record (s : State) (f c : Nat) (x : Core) : (s.setCore f c x).record = s.record := rfl
@[simp] theorem State.setCore_cfgGens (s : State) (f c : Nat) (x : Core) : (s.setCore f c x).cfgGens = s.cfgGens := rfl
@[simp] theorem State.setCore_fabStaged (s : State) (f c : Nat) (x : Core) : (s.setCore f c x).fabStaged = s.fabStaged := rfl
@[simp] theorem State.setCore_fabActive (s : State) (f c : Nat) (x : Core) : (s.setCore f c x).fabActive = s.fabActive := rfl
@[simp] theorem State.setCore_fabGen (s : State) (f c : Nat) (x : Core) : (s.setCore f c x).fabGen = s.fabGen := rfl
@[simp] theorem State.setCore_requests (s : State) (f c : Nat) (x : Core) : (s.setCore f c x).requests = s.requests := rfl
@[simp] theorem State.setCore_fw (s : State) (f c : Nat) (x : Core) : (s.setCore f c x).fw = s.fw := rfl
@[simp] theorem State.setCore_lanterns (s : State) (f c : Nat) (x : Core) : (s.setCore f c x).lanterns = s.lanterns := rfl
@[simp] theorem State.setCore_limits (s : State) (f c : Nat) (x : Core) : (s.setCore f c x).limits = s.limits := rfl
@[simp] theorem State.setCore_sensors (s : State) (f c : Nat) (x : Core) : (s.setCore f c x).sensors = s.sensors := rfl
@[simp] theorem State.setCore_vigil (s : State) (f c : Nat) (x : Core) : (s.setCore f c x).vigil = s.vigil := rfl
@[simp] theorem State.setCore_log (s : State) (f c : Nat) (x : Core) : (s.setCore f c x).log = s.log := rfl
@[simp] theorem State.setCore_counters (s : State) (f c : Nat) (x : Core) : (s.setCore f c x).counters = s.counters := rfl
@[simp] theorem State.setCore_mesh (s : State) (f c : Nat) (x : Core) : (s.setCore f c x).mesh = s.mesh := rfl
@[simp] theorem State.setCore_brims (s : State) (f c : Nat) (x : Core) : (s.setCore f c x).brims = s.brims := rfl
@[simp] theorem State.setCore_slots (s : State) (f c : Nat) (x : Core) : (s.setCore f c x).slots = s.slots := rfl
@[simp] theorem State.setCore_smb (s : State) (f c : Nat) (x : Core) : (s.setCore f c x).smb = s.smb := rfl
@[simp] theorem State.setCore_jtag (s : State) (f c : Nat) (x : Core) : (s.setCore f c x).jtag = s.jtag := rfl
@[simp] theorem State.setField_pending (s : State) (f : Nat) (x : Field) : (s.setField f x).pending = s.pending := rfl
@[simp] theorem State.setField_freeCtr (s : State) (f : Nat) (x : Field) : (s.setField f x).freeCtr = s.freeCtr := rfl
@[simp] theorem State.setField_out (s : State) (f : Nat) (x : Field) : (s.setField f x).out = s.out := rfl
@[simp] theorem State.setField_mem (s : State) (f : Nat) (x : Field) : (s.setField f x).mem = s.mem := rfl
@[simp] theorem State.setField_bus (s : State) (f : Nat) (x : Field) : (s.setField f x).bus = s.bus := rfl
@[simp] theorem State.setField_cores (s : State) (f : Nat) (x : Field) : (s.setField f x).cores = s.cores := rfl
@[simp] theorem State.setField_edges (s : State) (f : Nat) (x : Field) : (s.setField f x).edges = s.edges := rfl
@[simp] theorem State.setField_ports (s : State) (f : Nat) (x : Field) : (s.setField f x).ports = s.ports := rfl
@[simp] theorem State.setField_winReqs (s : State) (f : Nat) (x : Field) : (s.setField f x).winReqs = s.winReqs := rfl
@[simp] theorem State.setField_reqNo (s : State) (f : Nat) (x : Field) : (s.setField f x).reqNo = s.reqNo := rfl
@[simp] theorem State.setField_owner (s : State) (f : Nat) (x : Field) : (s.setField f x).owner = s.owner := rfl
@[simp] theorem State.setField_queues (s : State) (f : Nat) (x : Field) : (s.setField f x).queues = s.queues := rfl
@[simp] theorem State.setField_msgs (s : State) (f : Nat) (x : Field) : (s.setField f x).msgs = s.msgs := rfl
@[simp] theorem State.setField_plans (s : State) (f : Nat) (x : Field) : (s.setField f x).plans = s.plans := rfl
@[simp] theorem State.setField_planGens (s : State) (f : Nat) (x : Field) : (s.setField f x).planGens = s.planGens := rfl
@[simp] theorem State.setField_jobs (s : State) (f : Nat) (x : Field) : (s.setField f x).jobs = s.jobs := rfl
@[simp] theorem State.setField_streams (s : State) (f : Nat) (x : Field) : (s.setField f x).streams = s.streams := rfl
@[simp] theorem State.setField_streamGens (s : State) (f : Nat) (x : Field) : (s.setField f x).streamGens = s.streamGens := rfl
@[simp] theorem State.setField_staged (s : State) (f : Nat) (x : Field) : (s.setField f x).staged = s.staged := rfl
@[simp] theorem State.setField_active (s : State) (f : Nat) (x : Field) : (s.setField f x).active = s.active := rfl
@[simp] theorem State.setField_record (s : State) (f : Nat) (x : Field) : (s.setField f x).record = s.record := rfl
@[simp] theorem State.setField_cfgGens (s : State) (f : Nat) (x : Field) : (s.setField f x).cfgGens = s.cfgGens := rfl
@[simp] theorem State.setField_fabStaged (s : State) (f : Nat) (x : Field) : (s.setField f x).fabStaged = s.fabStaged := rfl
@[simp] theorem State.setField_fabActive (s : State) (f : Nat) (x : Field) : (s.setField f x).fabActive = s.fabActive := rfl
@[simp] theorem State.setField_fabGen (s : State) (f : Nat) (x : Field) : (s.setField f x).fabGen = s.fabGen := rfl
@[simp] theorem State.setField_requests (s : State) (f : Nat) (x : Field) : (s.setField f x).requests = s.requests := rfl
@[simp] theorem State.setField_fw (s : State) (f : Nat) (x : Field) : (s.setField f x).fw = s.fw := rfl
@[simp] theorem State.setField_lanterns (s : State) (f : Nat) (x : Field) : (s.setField f x).lanterns = s.lanterns := rfl
@[simp] theorem State.setField_limits (s : State) (f : Nat) (x : Field) : (s.setField f x).limits = s.limits := rfl
@[simp] theorem State.setField_sensors (s : State) (f : Nat) (x : Field) : (s.setField f x).sensors = s.sensors := rfl
@[simp] theorem State.setField_vigil (s : State) (f : Nat) (x : Field) : (s.setField f x).vigil = s.vigil := rfl
@[simp] theorem State.setField_log (s : State) (f : Nat) (x : Field) : (s.setField f x).log = s.log := rfl
@[simp] theorem State.setField_counters (s : State) (f : Nat) (x : Field) : (s.setField f x).counters = s.counters := rfl
@[simp] theorem State.setField_mesh (s : State) (f : Nat) (x : Field) : (s.setField f x).mesh = s.mesh := rfl
@[simp] theorem State.setField_brims (s : State) (f : Nat) (x : Field) : (s.setField f x).brims = s.brims := rfl
@[simp] theorem State.setField_slots (s : State) (f : Nat) (x : Field) : (s.setField f x).slots = s.slots := rfl
@[simp] theorem State.setField_smb (s : State) (f : Nat) (x : Field) : (s.setField f x).smb = s.smb := rfl
@[simp] theorem State.setField_jtag (s : State) (f : Nat) (x : Field) : (s.setField f x).jtag = s.jtag := rfl
@[simp] theorem State.setEdge_pending (s : State) (f : Nat) (x : Edge) : (s.setEdge f x).pending = s.pending := rfl
@[simp] theorem State.setEdge_freeCtr (s : State) (f : Nat) (x : Edge) : (s.setEdge f x).freeCtr = s.freeCtr := rfl
@[simp] theorem State.setEdge_out (s : State) (f : Nat) (x : Edge) : (s.setEdge f x).out = s.out := rfl
@[simp] theorem State.setEdge_mem (s : State) (f : Nat) (x : Edge) : (s.setEdge f x).mem = s.mem := rfl
@[simp] theorem State.setEdge_bus (s : State) (f : Nat) (x : Edge) : (s.setEdge f x).bus = s.bus := rfl
@[simp] theorem State.setEdge_cores (s : State) (f : Nat) (x : Edge) : (s.setEdge f x).cores = s.cores := rfl
@[simp] theorem State.setEdge_fields (s : State) (f : Nat) (x : Edge) : (s.setEdge f x).fields = s.fields := rfl
@[simp] theorem State.setEdge_ports (s : State) (f : Nat) (x : Edge) : (s.setEdge f x).ports = s.ports := rfl
@[simp] theorem State.setEdge_winReqs (s : State) (f : Nat) (x : Edge) : (s.setEdge f x).winReqs = s.winReqs := rfl
@[simp] theorem State.setEdge_reqNo (s : State) (f : Nat) (x : Edge) : (s.setEdge f x).reqNo = s.reqNo := rfl
@[simp] theorem State.setEdge_owner (s : State) (f : Nat) (x : Edge) : (s.setEdge f x).owner = s.owner := rfl
@[simp] theorem State.setEdge_queues (s : State) (f : Nat) (x : Edge) : (s.setEdge f x).queues = s.queues := rfl
@[simp] theorem State.setEdge_msgs (s : State) (f : Nat) (x : Edge) : (s.setEdge f x).msgs = s.msgs := rfl
@[simp] theorem State.setEdge_plans (s : State) (f : Nat) (x : Edge) : (s.setEdge f x).plans = s.plans := rfl
@[simp] theorem State.setEdge_planGens (s : State) (f : Nat) (x : Edge) : (s.setEdge f x).planGens = s.planGens := rfl
@[simp] theorem State.setEdge_jobs (s : State) (f : Nat) (x : Edge) : (s.setEdge f x).jobs = s.jobs := rfl
@[simp] theorem State.setEdge_streams (s : State) (f : Nat) (x : Edge) : (s.setEdge f x).streams = s.streams := rfl
@[simp] theorem State.setEdge_streamGens (s : State) (f : Nat) (x : Edge) : (s.setEdge f x).streamGens = s.streamGens := rfl
@[simp] theorem State.setEdge_staged (s : State) (f : Nat) (x : Edge) : (s.setEdge f x).staged = s.staged := rfl
@[simp] theorem State.setEdge_active (s : State) (f : Nat) (x : Edge) : (s.setEdge f x).active = s.active := rfl
@[simp] theorem State.setEdge_record (s : State) (f : Nat) (x : Edge) : (s.setEdge f x).record = s.record := rfl
@[simp] theorem State.setEdge_cfgGens (s : State) (f : Nat) (x : Edge) : (s.setEdge f x).cfgGens = s.cfgGens := rfl
@[simp] theorem State.setEdge_fabStaged (s : State) (f : Nat) (x : Edge) : (s.setEdge f x).fabStaged = s.fabStaged := rfl
@[simp] theorem State.setEdge_fabActive (s : State) (f : Nat) (x : Edge) : (s.setEdge f x).fabActive = s.fabActive := rfl
@[simp] theorem State.setEdge_fabGen (s : State) (f : Nat) (x : Edge) : (s.setEdge f x).fabGen = s.fabGen := rfl
@[simp] theorem State.setEdge_requests (s : State) (f : Nat) (x : Edge) : (s.setEdge f x).requests = s.requests := rfl
@[simp] theorem State.setEdge_fw (s : State) (f : Nat) (x : Edge) : (s.setEdge f x).fw = s.fw := rfl
@[simp] theorem State.setEdge_lanterns (s : State) (f : Nat) (x : Edge) : (s.setEdge f x).lanterns = s.lanterns := rfl
@[simp] theorem State.setEdge_limits (s : State) (f : Nat) (x : Edge) : (s.setEdge f x).limits = s.limits := rfl
@[simp] theorem State.setEdge_sensors (s : State) (f : Nat) (x : Edge) : (s.setEdge f x).sensors = s.sensors := rfl
@[simp] theorem State.setEdge_vigil (s : State) (f : Nat) (x : Edge) : (s.setEdge f x).vigil = s.vigil := rfl
@[simp] theorem State.setEdge_log (s : State) (f : Nat) (x : Edge) : (s.setEdge f x).log = s.log := rfl
@[simp] theorem State.setEdge_counters (s : State) (f : Nat) (x : Edge) : (s.setEdge f x).counters = s.counters := rfl
@[simp] theorem State.setEdge_mesh (s : State) (f : Nat) (x : Edge) : (s.setEdge f x).mesh = s.mesh := rfl
@[simp] theorem State.setEdge_brims (s : State) (f : Nat) (x : Edge) : (s.setEdge f x).brims = s.brims := rfl
@[simp] theorem State.setEdge_slots (s : State) (f : Nat) (x : Edge) : (s.setEdge f x).slots = s.slots := rfl
@[simp] theorem State.setEdge_smb (s : State) (f : Nat) (x : Edge) : (s.setEdge f x).smb = s.smb := rfl
@[simp] theorem State.setEdge_jtag (s : State) (f : Nat) (x : Edge) : (s.setEdge f x).jtag = s.jtag := rfl
@[simp] theorem State.setPort_pending (s : State) (p : Nat) (x : Port) : (s.setPort p x).pending = s.pending := rfl
@[simp] theorem State.setPort_freeCtr (s : State) (p : Nat) (x : Port) : (s.setPort p x).freeCtr = s.freeCtr := rfl
@[simp] theorem State.setPort_out (s : State) (p : Nat) (x : Port) : (s.setPort p x).out = s.out := rfl
@[simp] theorem State.setPort_mem (s : State) (p : Nat) (x : Port) : (s.setPort p x).mem = s.mem := rfl
@[simp] theorem State.setPort_bus (s : State) (p : Nat) (x : Port) : (s.setPort p x).bus = s.bus := rfl
@[simp] theorem State.setPort_cores (s : State) (p : Nat) (x : Port) : (s.setPort p x).cores = s.cores := rfl
@[simp] theorem State.setPort_fields (s : State) (p : Nat) (x : Port) : (s.setPort p x).fields = s.fields := rfl
@[simp] theorem State.setPort_edges (s : State) (p : Nat) (x : Port) : (s.setPort p x).edges = s.edges := rfl
@[simp] theorem State.setPort_winReqs (s : State) (p : Nat) (x : Port) : (s.setPort p x).winReqs = s.winReqs := rfl
@[simp] theorem State.setPort_reqNo (s : State) (p : Nat) (x : Port) : (s.setPort p x).reqNo = s.reqNo := rfl
@[simp] theorem State.setPort_owner (s : State) (p : Nat) (x : Port) : (s.setPort p x).owner = s.owner := rfl
@[simp] theorem State.setPort_queues (s : State) (p : Nat) (x : Port) : (s.setPort p x).queues = s.queues := rfl
@[simp] theorem State.setPort_msgs (s : State) (p : Nat) (x : Port) : (s.setPort p x).msgs = s.msgs := rfl
@[simp] theorem State.setPort_plans (s : State) (p : Nat) (x : Port) : (s.setPort p x).plans = s.plans := rfl
@[simp] theorem State.setPort_planGens (s : State) (p : Nat) (x : Port) : (s.setPort p x).planGens = s.planGens := rfl
@[simp] theorem State.setPort_jobs (s : State) (p : Nat) (x : Port) : (s.setPort p x).jobs = s.jobs := rfl
@[simp] theorem State.setPort_streams (s : State) (p : Nat) (x : Port) : (s.setPort p x).streams = s.streams := rfl
@[simp] theorem State.setPort_streamGens (s : State) (p : Nat) (x : Port) : (s.setPort p x).streamGens = s.streamGens := rfl
@[simp] theorem State.setPort_staged (s : State) (p : Nat) (x : Port) : (s.setPort p x).staged = s.staged := rfl
@[simp] theorem State.setPort_active (s : State) (p : Nat) (x : Port) : (s.setPort p x).active = s.active := rfl
@[simp] theorem State.setPort_record (s : State) (p : Nat) (x : Port) : (s.setPort p x).record = s.record := rfl
@[simp] theorem State.setPort_cfgGens (s : State) (p : Nat) (x : Port) : (s.setPort p x).cfgGens = s.cfgGens := rfl
@[simp] theorem State.setPort_fabStaged (s : State) (p : Nat) (x : Port) : (s.setPort p x).fabStaged = s.fabStaged := rfl
@[simp] theorem State.setPort_fabActive (s : State) (p : Nat) (x : Port) : (s.setPort p x).fabActive = s.fabActive := rfl
@[simp] theorem State.setPort_fabGen (s : State) (p : Nat) (x : Port) : (s.setPort p x).fabGen = s.fabGen := rfl
@[simp] theorem State.setPort_requests (s : State) (p : Nat) (x : Port) : (s.setPort p x).requests = s.requests := rfl
@[simp] theorem State.setPort_fw (s : State) (p : Nat) (x : Port) : (s.setPort p x).fw = s.fw := rfl
@[simp] theorem State.setPort_lanterns (s : State) (p : Nat) (x : Port) : (s.setPort p x).lanterns = s.lanterns := rfl
@[simp] theorem State.setPort_limits (s : State) (p : Nat) (x : Port) : (s.setPort p x).limits = s.limits := rfl
@[simp] theorem State.setPort_sensors (s : State) (p : Nat) (x : Port) : (s.setPort p x).sensors = s.sensors := rfl
@[simp] theorem State.setPort_vigil (s : State) (p : Nat) (x : Port) : (s.setPort p x).vigil = s.vigil := rfl
@[simp] theorem State.setPort_log (s : State) (p : Nat) (x : Port) : (s.setPort p x).log = s.log := rfl
@[simp] theorem State.setPort_counters (s : State) (p : Nat) (x : Port) : (s.setPort p x).counters = s.counters := rfl
@[simp] theorem State.setPort_mesh (s : State) (p : Nat) (x : Port) : (s.setPort p x).mesh = s.mesh := rfl
@[simp] theorem State.setPort_brims (s : State) (p : Nat) (x : Port) : (s.setPort p x).brims = s.brims := rfl
@[simp] theorem State.setPort_slots (s : State) (p : Nat) (x : Port) : (s.setPort p x).slots = s.slots := rfl
@[simp] theorem State.setPort_smb (s : State) (p : Nat) (x : Port) : (s.setPort p x).smb = s.smb := rfl
@[simp] theorem State.setPort_jtag (s : State) (p : Nat) (x : Port) : (s.setPort p x).jtag = s.jtag := rfl
@[simp] theorem State.setQueue_pending (s : State) (q : Nat) (x : Queue) : (s.setQueue q x).pending = s.pending := rfl
@[simp] theorem State.setQueue_freeCtr (s : State) (q : Nat) (x : Queue) : (s.setQueue q x).freeCtr = s.freeCtr := rfl
@[simp] theorem State.setQueue_out (s : State) (q : Nat) (x : Queue) : (s.setQueue q x).out = s.out := rfl
@[simp] theorem State.setQueue_mem (s : State) (q : Nat) (x : Queue) : (s.setQueue q x).mem = s.mem := rfl
@[simp] theorem State.setQueue_bus (s : State) (q : Nat) (x : Queue) : (s.setQueue q x).bus = s.bus := rfl
@[simp] theorem State.setQueue_cores (s : State) (q : Nat) (x : Queue) : (s.setQueue q x).cores = s.cores := rfl
@[simp] theorem State.setQueue_fields (s : State) (q : Nat) (x : Queue) : (s.setQueue q x).fields = s.fields := rfl
@[simp] theorem State.setQueue_edges (s : State) (q : Nat) (x : Queue) : (s.setQueue q x).edges = s.edges := rfl
@[simp] theorem State.setQueue_ports (s : State) (q : Nat) (x : Queue) : (s.setQueue q x).ports = s.ports := rfl
@[simp] theorem State.setQueue_winReqs (s : State) (q : Nat) (x : Queue) : (s.setQueue q x).winReqs = s.winReqs := rfl
@[simp] theorem State.setQueue_reqNo (s : State) (q : Nat) (x : Queue) : (s.setQueue q x).reqNo = s.reqNo := rfl
@[simp] theorem State.setQueue_owner (s : State) (q : Nat) (x : Queue) : (s.setQueue q x).owner = s.owner := rfl
@[simp] theorem State.setQueue_msgs (s : State) (q : Nat) (x : Queue) : (s.setQueue q x).msgs = s.msgs := rfl
@[simp] theorem State.setQueue_plans (s : State) (q : Nat) (x : Queue) : (s.setQueue q x).plans = s.plans := rfl
@[simp] theorem State.setQueue_planGens (s : State) (q : Nat) (x : Queue) : (s.setQueue q x).planGens = s.planGens := rfl
@[simp] theorem State.setQueue_jobs (s : State) (q : Nat) (x : Queue) : (s.setQueue q x).jobs = s.jobs := rfl
@[simp] theorem State.setQueue_streams (s : State) (q : Nat) (x : Queue) : (s.setQueue q x).streams = s.streams := rfl
@[simp] theorem State.setQueue_streamGens (s : State) (q : Nat) (x : Queue) : (s.setQueue q x).streamGens = s.streamGens := rfl
@[simp] theorem State.setQueue_staged (s : State) (q : Nat) (x : Queue) : (s.setQueue q x).staged = s.staged := rfl
@[simp] theorem State.setQueue_active (s : State) (q : Nat) (x : Queue) : (s.setQueue q x).active = s.active := rfl
@[simp] theorem State.setQueue_record (s : State) (q : Nat) (x : Queue) : (s.setQueue q x).record = s.record := rfl
@[simp] theorem State.setQueue_cfgGens (s : State) (q : Nat) (x : Queue) : (s.setQueue q x).cfgGens = s.cfgGens := rfl
@[simp] theorem State.setQueue_fabStaged (s : State) (q : Nat) (x : Queue) : (s.setQueue q x).fabStaged = s.fabStaged := rfl
@[simp] theorem State.setQueue_fabActive (s : State) (q : Nat) (x : Queue) : (s.setQueue q x).fabActive = s.fabActive := rfl
@[simp] theorem State.setQueue_fabGen (s : State) (q : Nat) (x : Queue) : (s.setQueue q x).fabGen = s.fabGen := rfl
@[simp] theorem State.setQueue_requests (s : State) (q : Nat) (x : Queue) : (s.setQueue q x).requests = s.requests := rfl
@[simp] theorem State.setQueue_fw (s : State) (q : Nat) (x : Queue) : (s.setQueue q x).fw = s.fw := rfl
@[simp] theorem State.setQueue_lanterns (s : State) (q : Nat) (x : Queue) : (s.setQueue q x).lanterns = s.lanterns := rfl
@[simp] theorem State.setQueue_limits (s : State) (q : Nat) (x : Queue) : (s.setQueue q x).limits = s.limits := rfl
@[simp] theorem State.setQueue_sensors (s : State) (q : Nat) (x : Queue) : (s.setQueue q x).sensors = s.sensors := rfl
@[simp] theorem State.setQueue_vigil (s : State) (q : Nat) (x : Queue) : (s.setQueue q x).vigil = s.vigil := rfl
@[simp] theorem State.setQueue_log (s : State) (q : Nat) (x : Queue) : (s.setQueue q x).log = s.log := rfl
@[simp] theorem State.setQueue_counters (s : State) (q : Nat) (x : Queue) : (s.setQueue q x).counters = s.counters := rfl
@[simp] theorem State.setQueue_mesh (s : State) (q : Nat) (x : Queue) : (s.setQueue q x).mesh = s.mesh := rfl
@[simp] theorem State.setQueue_brims (s : State) (q : Nat) (x : Queue) : (s.setQueue q x).brims = s.brims := rfl
@[simp] theorem State.setQueue_slots (s : State) (q : Nat) (x : Queue) : (s.setQueue q x).slots = s.slots := rfl
@[simp] theorem State.setQueue_smb (s : State) (q : Nat) (x : Queue) : (s.setQueue q x).smb = s.smb := rfl
@[simp] theorem State.setQueue_jtag (s : State) (q : Nat) (x : Queue) : (s.setQueue q x).jtag = s.jtag := rfl
@[simp] theorem State.setBrim_pending (s : State) (l : Nat) (x : Brim) : (s.setBrim l x).pending = s.pending := rfl
@[simp] theorem State.setBrim_freeCtr (s : State) (l : Nat) (x : Brim) : (s.setBrim l x).freeCtr = s.freeCtr := rfl
@[simp] theorem State.setBrim_out (s : State) (l : Nat) (x : Brim) : (s.setBrim l x).out = s.out := rfl
@[simp] theorem State.setBrim_mem (s : State) (l : Nat) (x : Brim) : (s.setBrim l x).mem = s.mem := rfl
@[simp] theorem State.setBrim_bus (s : State) (l : Nat) (x : Brim) : (s.setBrim l x).bus = s.bus := rfl
@[simp] theorem State.setBrim_cores (s : State) (l : Nat) (x : Brim) : (s.setBrim l x).cores = s.cores := rfl
@[simp] theorem State.setBrim_fields (s : State) (l : Nat) (x : Brim) : (s.setBrim l x).fields = s.fields := rfl
@[simp] theorem State.setBrim_edges (s : State) (l : Nat) (x : Brim) : (s.setBrim l x).edges = s.edges := rfl
@[simp] theorem State.setBrim_ports (s : State) (l : Nat) (x : Brim) : (s.setBrim l x).ports = s.ports := rfl
@[simp] theorem State.setBrim_winReqs (s : State) (l : Nat) (x : Brim) : (s.setBrim l x).winReqs = s.winReqs := rfl
@[simp] theorem State.setBrim_reqNo (s : State) (l : Nat) (x : Brim) : (s.setBrim l x).reqNo = s.reqNo := rfl
@[simp] theorem State.setBrim_owner (s : State) (l : Nat) (x : Brim) : (s.setBrim l x).owner = s.owner := rfl
@[simp] theorem State.setBrim_queues (s : State) (l : Nat) (x : Brim) : (s.setBrim l x).queues = s.queues := rfl
@[simp] theorem State.setBrim_msgs (s : State) (l : Nat) (x : Brim) : (s.setBrim l x).msgs = s.msgs := rfl
@[simp] theorem State.setBrim_plans (s : State) (l : Nat) (x : Brim) : (s.setBrim l x).plans = s.plans := rfl
@[simp] theorem State.setBrim_planGens (s : State) (l : Nat) (x : Brim) : (s.setBrim l x).planGens = s.planGens := rfl
@[simp] theorem State.setBrim_jobs (s : State) (l : Nat) (x : Brim) : (s.setBrim l x).jobs = s.jobs := rfl
@[simp] theorem State.setBrim_streams (s : State) (l : Nat) (x : Brim) : (s.setBrim l x).streams = s.streams := rfl
@[simp] theorem State.setBrim_streamGens (s : State) (l : Nat) (x : Brim) : (s.setBrim l x).streamGens = s.streamGens := rfl
@[simp] theorem State.setBrim_staged (s : State) (l : Nat) (x : Brim) : (s.setBrim l x).staged = s.staged := rfl
@[simp] theorem State.setBrim_active (s : State) (l : Nat) (x : Brim) : (s.setBrim l x).active = s.active := rfl
@[simp] theorem State.setBrim_record (s : State) (l : Nat) (x : Brim) : (s.setBrim l x).record = s.record := rfl
@[simp] theorem State.setBrim_cfgGens (s : State) (l : Nat) (x : Brim) : (s.setBrim l x).cfgGens = s.cfgGens := rfl
@[simp] theorem State.setBrim_fabStaged (s : State) (l : Nat) (x : Brim) : (s.setBrim l x).fabStaged = s.fabStaged := rfl
@[simp] theorem State.setBrim_fabActive (s : State) (l : Nat) (x : Brim) : (s.setBrim l x).fabActive = s.fabActive := rfl
@[simp] theorem State.setBrim_fabGen (s : State) (l : Nat) (x : Brim) : (s.setBrim l x).fabGen = s.fabGen := rfl
@[simp] theorem State.setBrim_requests (s : State) (l : Nat) (x : Brim) : (s.setBrim l x).requests = s.requests := rfl
@[simp] theorem State.setBrim_fw (s : State) (l : Nat) (x : Brim) : (s.setBrim l x).fw = s.fw := rfl
@[simp] theorem State.setBrim_lanterns (s : State) (l : Nat) (x : Brim) : (s.setBrim l x).lanterns = s.lanterns := rfl
@[simp] theorem State.setBrim_limits (s : State) (l : Nat) (x : Brim) : (s.setBrim l x).limits = s.limits := rfl
@[simp] theorem State.setBrim_sensors (s : State) (l : Nat) (x : Brim) : (s.setBrim l x).sensors = s.sensors := rfl
@[simp] theorem State.setBrim_vigil (s : State) (l : Nat) (x : Brim) : (s.setBrim l x).vigil = s.vigil := rfl
@[simp] theorem State.setBrim_log (s : State) (l : Nat) (x : Brim) : (s.setBrim l x).log = s.log := rfl
@[simp] theorem State.setBrim_counters (s : State) (l : Nat) (x : Brim) : (s.setBrim l x).counters = s.counters := rfl
@[simp] theorem State.setBrim_mesh (s : State) (l : Nat) (x : Brim) : (s.setBrim l x).mesh = s.mesh := rfl
@[simp] theorem State.setBrim_slots (s : State) (l : Nat) (x : Brim) : (s.setBrim l x).slots = s.slots := rfl
@[simp] theorem State.setBrim_smb (s : State) (l : Nat) (x : Brim) : (s.setBrim l x).smb = s.smb := rfl
@[simp] theorem State.setBrim_jtag (s : State) (l : Nat) (x : Brim) : (s.setBrim l x).jtag = s.jtag := rfl
@[simp] theorem State.setSlot_pending (s : State) (m : Nat) (x : Slot) : (s.setSlot m x).pending = s.pending := rfl
@[simp] theorem State.setSlot_freeCtr (s : State) (m : Nat) (x : Slot) : (s.setSlot m x).freeCtr = s.freeCtr := rfl
@[simp] theorem State.setSlot_out (s : State) (m : Nat) (x : Slot) : (s.setSlot m x).out = s.out := rfl
@[simp] theorem State.setSlot_mem (s : State) (m : Nat) (x : Slot) : (s.setSlot m x).mem = s.mem := rfl
@[simp] theorem State.setSlot_bus (s : State) (m : Nat) (x : Slot) : (s.setSlot m x).bus = s.bus := rfl
@[simp] theorem State.setSlot_cores (s : State) (m : Nat) (x : Slot) : (s.setSlot m x).cores = s.cores := rfl
@[simp] theorem State.setSlot_fields (s : State) (m : Nat) (x : Slot) : (s.setSlot m x).fields = s.fields := rfl
@[simp] theorem State.setSlot_edges (s : State) (m : Nat) (x : Slot) : (s.setSlot m x).edges = s.edges := rfl
@[simp] theorem State.setSlot_ports (s : State) (m : Nat) (x : Slot) : (s.setSlot m x).ports = s.ports := rfl
@[simp] theorem State.setSlot_winReqs (s : State) (m : Nat) (x : Slot) : (s.setSlot m x).winReqs = s.winReqs := rfl
@[simp] theorem State.setSlot_reqNo (s : State) (m : Nat) (x : Slot) : (s.setSlot m x).reqNo = s.reqNo := rfl
@[simp] theorem State.setSlot_owner (s : State) (m : Nat) (x : Slot) : (s.setSlot m x).owner = s.owner := rfl
@[simp] theorem State.setSlot_queues (s : State) (m : Nat) (x : Slot) : (s.setSlot m x).queues = s.queues := rfl
@[simp] theorem State.setSlot_msgs (s : State) (m : Nat) (x : Slot) : (s.setSlot m x).msgs = s.msgs := rfl
@[simp] theorem State.setSlot_plans (s : State) (m : Nat) (x : Slot) : (s.setSlot m x).plans = s.plans := rfl
@[simp] theorem State.setSlot_planGens (s : State) (m : Nat) (x : Slot) : (s.setSlot m x).planGens = s.planGens := rfl
@[simp] theorem State.setSlot_jobs (s : State) (m : Nat) (x : Slot) : (s.setSlot m x).jobs = s.jobs := rfl
@[simp] theorem State.setSlot_streams (s : State) (m : Nat) (x : Slot) : (s.setSlot m x).streams = s.streams := rfl
@[simp] theorem State.setSlot_streamGens (s : State) (m : Nat) (x : Slot) : (s.setSlot m x).streamGens = s.streamGens := rfl
@[simp] theorem State.setSlot_staged (s : State) (m : Nat) (x : Slot) : (s.setSlot m x).staged = s.staged := rfl
@[simp] theorem State.setSlot_active (s : State) (m : Nat) (x : Slot) : (s.setSlot m x).active = s.active := rfl
@[simp] theorem State.setSlot_record (s : State) (m : Nat) (x : Slot) : (s.setSlot m x).record = s.record := rfl
@[simp] theorem State.setSlot_cfgGens (s : State) (m : Nat) (x : Slot) : (s.setSlot m x).cfgGens = s.cfgGens := rfl
@[simp] theorem State.setSlot_fabStaged (s : State) (m : Nat) (x : Slot) : (s.setSlot m x).fabStaged = s.fabStaged := rfl
@[simp] theorem State.setSlot_fabActive (s : State) (m : Nat) (x : Slot) : (s.setSlot m x).fabActive = s.fabActive := rfl
@[simp] theorem State.setSlot_fabGen (s : State) (m : Nat) (x : Slot) : (s.setSlot m x).fabGen = s.fabGen := rfl
@[simp] theorem State.setSlot_requests (s : State) (m : Nat) (x : Slot) : (s.setSlot m x).requests = s.requests := rfl
@[simp] theorem State.setSlot_fw (s : State) (m : Nat) (x : Slot) : (s.setSlot m x).fw = s.fw := rfl
@[simp] theorem State.setSlot_lanterns (s : State) (m : Nat) (x : Slot) : (s.setSlot m x).lanterns = s.lanterns := rfl
@[simp] theorem State.setSlot_limits (s : State) (m : Nat) (x : Slot) : (s.setSlot m x).limits = s.limits := rfl
@[simp] theorem State.setSlot_sensors (s : State) (m : Nat) (x : Slot) : (s.setSlot m x).sensors = s.sensors := rfl
@[simp] theorem State.setSlot_vigil (s : State) (m : Nat) (x : Slot) : (s.setSlot m x).vigil = s.vigil := rfl
@[simp] theorem State.setSlot_log (s : State) (m : Nat) (x : Slot) : (s.setSlot m x).log = s.log := rfl
@[simp] theorem State.setSlot_counters (s : State) (m : Nat) (x : Slot) : (s.setSlot m x).counters = s.counters := rfl
@[simp] theorem State.setSlot_mesh (s : State) (m : Nat) (x : Slot) : (s.setSlot m x).mesh = s.mesh := rfl
@[simp] theorem State.setSlot_brims (s : State) (m : Nat) (x : Slot) : (s.setSlot m x).brims = s.brims := rfl
@[simp] theorem State.setSlot_smb (s : State) (m : Nat) (x : Slot) : (s.setSlot m x).smb = s.smb := rfl
@[simp] theorem State.setSlot_jtag (s : State) (m : Nat) (x : Slot) : (s.setSlot m x).jtag = s.jtag := rfl
@[simp] theorem State.setCounter_pending (s : State) (blk pos : Nat) (x : Counter) : (s.setCounter blk pos x).pending = s.pending := rfl
@[simp] theorem State.setCounter_freeCtr (s : State) (blk pos : Nat) (x : Counter) : (s.setCounter blk pos x).freeCtr = s.freeCtr := rfl
@[simp] theorem State.setCounter_out (s : State) (blk pos : Nat) (x : Counter) : (s.setCounter blk pos x).out = s.out := rfl
@[simp] theorem State.setCounter_mem (s : State) (blk pos : Nat) (x : Counter) : (s.setCounter blk pos x).mem = s.mem := rfl
@[simp] theorem State.setCounter_bus (s : State) (blk pos : Nat) (x : Counter) : (s.setCounter blk pos x).bus = s.bus := rfl
@[simp] theorem State.setCounter_cores (s : State) (blk pos : Nat) (x : Counter) : (s.setCounter blk pos x).cores = s.cores := rfl
@[simp] theorem State.setCounter_fields (s : State) (blk pos : Nat) (x : Counter) : (s.setCounter blk pos x).fields = s.fields := rfl
@[simp] theorem State.setCounter_edges (s : State) (blk pos : Nat) (x : Counter) : (s.setCounter blk pos x).edges = s.edges := rfl
@[simp] theorem State.setCounter_ports (s : State) (blk pos : Nat) (x : Counter) : (s.setCounter blk pos x).ports = s.ports := rfl
@[simp] theorem State.setCounter_winReqs (s : State) (blk pos : Nat) (x : Counter) : (s.setCounter blk pos x).winReqs = s.winReqs := rfl
@[simp] theorem State.setCounter_reqNo (s : State) (blk pos : Nat) (x : Counter) : (s.setCounter blk pos x).reqNo = s.reqNo := rfl
@[simp] theorem State.setCounter_owner (s : State) (blk pos : Nat) (x : Counter) : (s.setCounter blk pos x).owner = s.owner := rfl
@[simp] theorem State.setCounter_queues (s : State) (blk pos : Nat) (x : Counter) : (s.setCounter blk pos x).queues = s.queues := rfl
@[simp] theorem State.setCounter_msgs (s : State) (blk pos : Nat) (x : Counter) : (s.setCounter blk pos x).msgs = s.msgs := rfl
@[simp] theorem State.setCounter_plans (s : State) (blk pos : Nat) (x : Counter) : (s.setCounter blk pos x).plans = s.plans := rfl
@[simp] theorem State.setCounter_planGens (s : State) (blk pos : Nat) (x : Counter) : (s.setCounter blk pos x).planGens = s.planGens := rfl
@[simp] theorem State.setCounter_jobs (s : State) (blk pos : Nat) (x : Counter) : (s.setCounter blk pos x).jobs = s.jobs := rfl
@[simp] theorem State.setCounter_streams (s : State) (blk pos : Nat) (x : Counter) : (s.setCounter blk pos x).streams = s.streams := rfl
@[simp] theorem State.setCounter_streamGens (s : State) (blk pos : Nat) (x : Counter) : (s.setCounter blk pos x).streamGens = s.streamGens := rfl
@[simp] theorem State.setCounter_staged (s : State) (blk pos : Nat) (x : Counter) : (s.setCounter blk pos x).staged = s.staged := rfl
@[simp] theorem State.setCounter_active (s : State) (blk pos : Nat) (x : Counter) : (s.setCounter blk pos x).active = s.active := rfl
@[simp] theorem State.setCounter_record (s : State) (blk pos : Nat) (x : Counter) : (s.setCounter blk pos x).record = s.record := rfl
@[simp] theorem State.setCounter_cfgGens (s : State) (blk pos : Nat) (x : Counter) : (s.setCounter blk pos x).cfgGens = s.cfgGens := rfl
@[simp] theorem State.setCounter_fabStaged (s : State) (blk pos : Nat) (x : Counter) : (s.setCounter blk pos x).fabStaged = s.fabStaged := rfl
@[simp] theorem State.setCounter_fabActive (s : State) (blk pos : Nat) (x : Counter) : (s.setCounter blk pos x).fabActive = s.fabActive := rfl
@[simp] theorem State.setCounter_fabGen (s : State) (blk pos : Nat) (x : Counter) : (s.setCounter blk pos x).fabGen = s.fabGen := rfl
@[simp] theorem State.setCounter_requests (s : State) (blk pos : Nat) (x : Counter) : (s.setCounter blk pos x).requests = s.requests := rfl
@[simp] theorem State.setCounter_fw (s : State) (blk pos : Nat) (x : Counter) : (s.setCounter blk pos x).fw = s.fw := rfl
@[simp] theorem State.setCounter_lanterns (s : State) (blk pos : Nat) (x : Counter) : (s.setCounter blk pos x).lanterns = s.lanterns := rfl
@[simp] theorem State.setCounter_limits (s : State) (blk pos : Nat) (x : Counter) : (s.setCounter blk pos x).limits = s.limits := rfl
@[simp] theorem State.setCounter_sensors (s : State) (blk pos : Nat) (x : Counter) : (s.setCounter blk pos x).sensors = s.sensors := rfl
@[simp] theorem State.setCounter_vigil (s : State) (blk pos : Nat) (x : Counter) : (s.setCounter blk pos x).vigil = s.vigil := rfl
@[simp] theorem State.setCounter_log (s : State) (blk pos : Nat) (x : Counter) : (s.setCounter blk pos x).log = s.log := rfl
@[simp] theorem State.setCounter_mesh (s : State) (blk pos : Nat) (x : Counter) : (s.setCounter blk pos x).mesh = s.mesh := rfl
@[simp] theorem State.setCounter_brims (s : State) (blk pos : Nat) (x : Counter) : (s.setCounter blk pos x).brims = s.brims := rfl
@[simp] theorem State.setCounter_slots (s : State) (blk pos : Nat) (x : Counter) : (s.setCounter blk pos x).slots = s.slots := rfl
@[simp] theorem State.setCounter_smb (s : State) (blk pos : Nat) (x : Counter) : (s.setCounter blk pos x).smb = s.smb := rfl
@[simp] theorem State.setCounter_jtag (s : State) (blk pos : Nat) (x : Counter) : (s.setCounter blk pos x).jtag = s.jtag := rfl
@[simp] theorem State.fillMem_pending (s : State) (r : Region) : (s.fillMem r).pending = s.pending := rfl
@[simp] theorem State.fillMem_freeCtr (s : State) (r : Region) : (s.fillMem r).freeCtr = s.freeCtr := rfl
@[simp] theorem State.fillMem_out (s : State) (r : Region) : (s.fillMem r).out = s.out := rfl
@[simp] theorem State.fillMem_bus (s : State) (r : Region) : (s.fillMem r).bus = s.bus := rfl
@[simp] theorem State.fillMem_cores (s : State) (r : Region) : (s.fillMem r).cores = s.cores := rfl
@[simp] theorem State.fillMem_fields (s : State) (r : Region) : (s.fillMem r).fields = s.fields := rfl
@[simp] theorem State.fillMem_edges (s : State) (r : Region) : (s.fillMem r).edges = s.edges := rfl
@[simp] theorem State.fillMem_ports (s : State) (r : Region) : (s.fillMem r).ports = s.ports := rfl
@[simp] theorem State.fillMem_winReqs (s : State) (r : Region) : (s.fillMem r).winReqs = s.winReqs := rfl
@[simp] theorem State.fillMem_reqNo (s : State) (r : Region) : (s.fillMem r).reqNo = s.reqNo := rfl
@[simp] theorem State.fillMem_owner (s : State) (r : Region) : (s.fillMem r).owner = s.owner := rfl
@[simp] theorem State.fillMem_queues (s : State) (r : Region) : (s.fillMem r).queues = s.queues := rfl
@[simp] theorem State.fillMem_msgs (s : State) (r : Region) : (s.fillMem r).msgs = s.msgs := rfl
@[simp] theorem State.fillMem_plans (s : State) (r : Region) : (s.fillMem r).plans = s.plans := rfl
@[simp] theorem State.fillMem_planGens (s : State) (r : Region) : (s.fillMem r).planGens = s.planGens := rfl
@[simp] theorem State.fillMem_jobs (s : State) (r : Region) : (s.fillMem r).jobs = s.jobs := rfl
@[simp] theorem State.fillMem_streams (s : State) (r : Region) : (s.fillMem r).streams = s.streams := rfl
@[simp] theorem State.fillMem_streamGens (s : State) (r : Region) : (s.fillMem r).streamGens = s.streamGens := rfl
@[simp] theorem State.fillMem_staged (s : State) (r : Region) : (s.fillMem r).staged = s.staged := rfl
@[simp] theorem State.fillMem_active (s : State) (r : Region) : (s.fillMem r).active = s.active := rfl
@[simp] theorem State.fillMem_record (s : State) (r : Region) : (s.fillMem r).record = s.record := rfl
@[simp] theorem State.fillMem_cfgGens (s : State) (r : Region) : (s.fillMem r).cfgGens = s.cfgGens := rfl
@[simp] theorem State.fillMem_fabStaged (s : State) (r : Region) : (s.fillMem r).fabStaged = s.fabStaged := rfl
@[simp] theorem State.fillMem_fabActive (s : State) (r : Region) : (s.fillMem r).fabActive = s.fabActive := rfl
@[simp] theorem State.fillMem_fabGen (s : State) (r : Region) : (s.fillMem r).fabGen = s.fabGen := rfl
@[simp] theorem State.fillMem_requests (s : State) (r : Region) : (s.fillMem r).requests = s.requests := rfl
@[simp] theorem State.fillMem_fw (s : State) (r : Region) : (s.fillMem r).fw = s.fw := rfl
@[simp] theorem State.fillMem_lanterns (s : State) (r : Region) : (s.fillMem r).lanterns = s.lanterns := rfl
@[simp] theorem State.fillMem_limits (s : State) (r : Region) : (s.fillMem r).limits = s.limits := rfl
@[simp] theorem State.fillMem_sensors (s : State) (r : Region) : (s.fillMem r).sensors = s.sensors := rfl
@[simp] theorem State.fillMem_vigil (s : State) (r : Region) : (s.fillMem r).vigil = s.vigil := rfl
@[simp] theorem State.fillMem_log (s : State) (r : Region) : (s.fillMem r).log = s.log := rfl
@[simp] theorem State.fillMem_counters (s : State) (r : Region) : (s.fillMem r).counters = s.counters := rfl
@[simp] theorem State.fillMem_mesh (s : State) (r : Region) : (s.fillMem r).mesh = s.mesh := rfl
@[simp] theorem State.fillMem_brims (s : State) (r : Region) : (s.fillMem r).brims = s.brims := rfl
@[simp] theorem State.fillMem_slots (s : State) (r : Region) : (s.fillMem r).slots = s.slots := rfl
@[simp] theorem State.fillMem_smb (s : State) (r : Region) : (s.fillMem r).smb = s.smb := rfl
@[simp] theorem State.fillMem_jtag (s : State) (r : Region) : (s.fillMem r).jtag = s.jtag := rfl
@[simp] theorem State.writeWord_pending (s : State) (a : Nat) (w : Word) (e : Bool) : (s.writeWord a w e).pending = s.pending := rfl
@[simp] theorem State.writeWord_freeCtr (s : State) (a : Nat) (w : Word) (e : Bool) : (s.writeWord a w e).freeCtr = s.freeCtr := rfl
@[simp] theorem State.writeWord_out (s : State) (a : Nat) (w : Word) (e : Bool) : (s.writeWord a w e).out = s.out := rfl
@[simp] theorem State.writeWord_bus (s : State) (a : Nat) (w : Word) (e : Bool) : (s.writeWord a w e).bus = s.bus := rfl
@[simp] theorem State.writeWord_cores (s : State) (a : Nat) (w : Word) (e : Bool) : (s.writeWord a w e).cores = s.cores := rfl
@[simp] theorem State.writeWord_fields (s : State) (a : Nat) (w : Word) (e : Bool) : (s.writeWord a w e).fields = s.fields := rfl
@[simp] theorem State.writeWord_edges (s : State) (a : Nat) (w : Word) (e : Bool) : (s.writeWord a w e).edges = s.edges := rfl
@[simp] theorem State.writeWord_ports (s : State) (a : Nat) (w : Word) (e : Bool) : (s.writeWord a w e).ports = s.ports := rfl
@[simp] theorem State.writeWord_winReqs (s : State) (a : Nat) (w : Word) (e : Bool) : (s.writeWord a w e).winReqs = s.winReqs := rfl
@[simp] theorem State.writeWord_reqNo (s : State) (a : Nat) (w : Word) (e : Bool) : (s.writeWord a w e).reqNo = s.reqNo := rfl
@[simp] theorem State.writeWord_owner (s : State) (a : Nat) (w : Word) (e : Bool) : (s.writeWord a w e).owner = s.owner := rfl
@[simp] theorem State.writeWord_queues (s : State) (a : Nat) (w : Word) (e : Bool) : (s.writeWord a w e).queues = s.queues := rfl
@[simp] theorem State.writeWord_msgs (s : State) (a : Nat) (w : Word) (e : Bool) : (s.writeWord a w e).msgs = s.msgs := rfl
@[simp] theorem State.writeWord_plans (s : State) (a : Nat) (w : Word) (e : Bool) : (s.writeWord a w e).plans = s.plans := rfl
@[simp] theorem State.writeWord_planGens (s : State) (a : Nat) (w : Word) (e : Bool) : (s.writeWord a w e).planGens = s.planGens := rfl
@[simp] theorem State.writeWord_jobs (s : State) (a : Nat) (w : Word) (e : Bool) : (s.writeWord a w e).jobs = s.jobs := rfl
@[simp] theorem State.writeWord_streams (s : State) (a : Nat) (w : Word) (e : Bool) : (s.writeWord a w e).streams = s.streams := rfl
@[simp] theorem State.writeWord_streamGens (s : State) (a : Nat) (w : Word) (e : Bool) : (s.writeWord a w e).streamGens = s.streamGens := rfl
@[simp] theorem State.writeWord_staged (s : State) (a : Nat) (w : Word) (e : Bool) : (s.writeWord a w e).staged = s.staged := rfl
@[simp] theorem State.writeWord_active (s : State) (a : Nat) (w : Word) (e : Bool) : (s.writeWord a w e).active = s.active := rfl
@[simp] theorem State.writeWord_record (s : State) (a : Nat) (w : Word) (e : Bool) : (s.writeWord a w e).record = s.record := rfl
@[simp] theorem State.writeWord_cfgGens (s : State) (a : Nat) (w : Word) (e : Bool) : (s.writeWord a w e).cfgGens = s.cfgGens := rfl
@[simp] theorem State.writeWord_fabStaged (s : State) (a : Nat) (w : Word) (e : Bool) : (s.writeWord a w e).fabStaged = s.fabStaged := rfl
@[simp] theorem State.writeWord_fabActive (s : State) (a : Nat) (w : Word) (e : Bool) : (s.writeWord a w e).fabActive = s.fabActive := rfl
@[simp] theorem State.writeWord_fabGen (s : State) (a : Nat) (w : Word) (e : Bool) : (s.writeWord a w e).fabGen = s.fabGen := rfl
@[simp] theorem State.writeWord_requests (s : State) (a : Nat) (w : Word) (e : Bool) : (s.writeWord a w e).requests = s.requests := rfl
@[simp] theorem State.writeWord_fw (s : State) (a : Nat) (w : Word) (e : Bool) : (s.writeWord a w e).fw = s.fw := rfl
@[simp] theorem State.writeWord_lanterns (s : State) (a : Nat) (w : Word) (e : Bool) : (s.writeWord a w e).lanterns = s.lanterns := rfl
@[simp] theorem State.writeWord_limits (s : State) (a : Nat) (w : Word) (e : Bool) : (s.writeWord a w e).limits = s.limits := rfl
@[simp] theorem State.writeWord_sensors (s : State) (a : Nat) (w : Word) (e : Bool) : (s.writeWord a w e).sensors = s.sensors := rfl
@[simp] theorem State.writeWord_vigil (s : State) (a : Nat) (w : Word) (e : Bool) : (s.writeWord a w e).vigil = s.vigil := rfl
@[simp] theorem State.writeWord_log (s : State) (a : Nat) (w : Word) (e : Bool) : (s.writeWord a w e).log = s.log := rfl
@[simp] theorem State.writeWord_counters (s : State) (a : Nat) (w : Word) (e : Bool) : (s.writeWord a w e).counters = s.counters := rfl
@[simp] theorem State.writeWord_mesh (s : State) (a : Nat) (w : Word) (e : Bool) : (s.writeWord a w e).mesh = s.mesh := rfl
@[simp] theorem State.writeWord_brims (s : State) (a : Nat) (w : Word) (e : Bool) : (s.writeWord a w e).brims = s.brims := rfl
@[simp] theorem State.writeWord_slots (s : State) (a : Nat) (w : Word) (e : Bool) : (s.writeWord a w e).slots = s.slots := rfl
@[simp] theorem State.writeWord_smb (s : State) (a : Nat) (w : Word) (e : Bool) : (s.writeWord a w e).smb = s.smb := rfl
@[simp] theorem State.writeWord_jtag (s : State) (a : Nat) (w : Word) (e : Bool) : (s.writeWord a w e).jtag = s.jtag := rfl

/-! ### Reading what was set -/

@[simp] theorem State.bu_setBu (s : State) (f c u : Nat) (x : Bu) : (s.setBu f c u x).bu f c u = x := Sparse.get_set_same _ _ _ _
@[simp] theorem State.core_setCore (s : State) (f c : Nat) (x : Core) : (s.setCore f c x).core f c = x := Sparse.get_set_same _ _ _ _
@[simp] theorem State.field_setField (s : State) (f : Nat) (x : Field) : (s.setField f x).field f = x := Sparse.get_set_same _ _ _ _
@[simp] theorem State.edge_setEdge (s : State) (f : Nat) (x : Edge) : (s.setEdge f x).edge f = x := Sparse.get_set_same _ _ _ _
@[simp] theorem State.port_setPort (s : State) (p : Nat) (x : Port) : (s.setPort p x).port p = x := Sparse.get_set_same _ _ _ _
@[simp] theorem State.queue_setQueue (s : State) (q : Nat) (x : Queue) : (s.setQueue q x).queue q = x := Sparse.get_set_same _ _ _ _
@[simp] theorem State.brim_setBrim (s : State) (l : Nat) (x : Brim) : (s.setBrim l x).brim l = x := Sparse.get_set_same _ _ _ _
@[simp] theorem State.slot_setSlot (s : State) (m : Nat) (x : Slot) : (s.setSlot m x).slot m = x := Sparse.get_set_same _ _ _ _
@[simp] theorem State.counter_setCounter (s : State) (blk pos : Nat) (x : Counter) : (s.setCounter blk pos x).counter blk pos = x := Sparse.get_set_same _ _ _ _

/-- Another BU keeps its state. -/
theorem State.bu_setBu_ne (s : State) {f c u g d v : Nat} (x : Bu) (h : buKey g d v ≠ buKey f c u) :
    (s.setBu f c u x).bu g d v = s.bu g d v := Sparse.get_set_ne _ _ _ h
theorem State.core_setCore_ne (s : State) {f c g d : Nat} (x : Core) (h : g * 8 + d ≠ f * 8 + c) :
    (s.setCore f c x).core g d = s.core g d := Sparse.get_set_ne _ _ _ h
theorem State.field_setField_ne (s : State) {f j : Nat} (x : Field) (h : j ≠ f) : (s.setField f x).field j = s.field j :=
  Sparse.get_set_ne _ _ _ h
theorem State.edge_setEdge_ne (s : State) {f j : Nat} (x : Edge) (h : j ≠ f) : (s.setEdge f x).edge j = s.edge j :=
  Sparse.get_set_ne _ _ _ h
theorem State.port_setPort_ne (s : State) {p j : Nat} (x : Port) (h : j ≠ p) : (s.setPort p x).port j = s.port j :=
  Sparse.get_set_ne _ _ _ h
theorem State.queue_setQueue_ne (s : State) {q j : Nat} (x : Queue) (h : j ≠ q) : (s.setQueue q x).queue j = s.queue j :=
  Sparse.get_set_ne _ _ _ h
theorem State.brim_setBrim_ne (s : State) {l j : Nat} (x : Brim) (h : j ≠ l) : (s.setBrim l x).brim j = s.brim j :=
  Sparse.get_set_ne _ _ _ h
theorem State.slot_setSlot_ne (s : State) {m j : Nat} (x : Slot) (h : j ≠ m) : (s.setSlot m x).slot j = s.slot j :=
  Sparse.get_set_ne _ _ _ h
theorem State.counter_setCounter_ne (s : State) {blk pos b p : Nat} (x : Counter) (h : counterKey b p ≠ counterKey blk pos) :
    (s.setCounter blk pos x).counter b p = s.counter b p := Sparse.get_set_ne _ _ _ h

theorem buKey_inj {f c u g d v : Nat} (hc : c < 8) (hu : u < 128) (hd : d < 8) (hv : v < 128)
    (h : buKey f c u = buKey g d v) : f = g ∧ c = d ∧ u = v := by unfold buKey at h; omega

/-! ### Readers of parts that a setter leaves -/

@[simp] theorem State.setBu_get_core (s : State) (f c u : Nat) (b : Bu) (f1 c1 : Nat) : (s.setBu f c u b).core f1 c1 = s.core f1 c1 := rfl
@[simp] theorem State.setBu_get_field (s : State) (f c u : Nat) (b : Bu) (j : Nat) : (s.setBu f c u b).field j = s.field j := rfl
@[simp] theorem State.setBu_get_edge (s : State) (f c u : Nat) (b : Bu) (j : Nat) : (s.setBu f c u b).edge j = s.edge j := rfl
@[simp] theorem State.setBu_get_port (s : State) (f c u : Nat) (b : Bu) (j : Nat) : (s.setBu f c u b).port j = s.port j := rfl
@[simp] theorem State.setBu_get_queue (s : State) (f c u : Nat) (b : Bu) (j : Nat) : (s.setBu f c u b).queue j = s.queue j := rfl
@[simp] theorem State.setBu_get_brim (s : State) (f c u : Nat) (b : Bu) (j : Nat) : (s.setBu f c u b).brim j = s.brim j := rfl
@[simp] theorem State.setBu_get_slot (s : State) (f c u : Nat) (b : Bu) (j : Nat) : (s.setBu f c u b).slot j = s.slot j := rfl
@[simp] theorem State.setBu_get_counter (s : State) (f c u : Nat) (b : Bu) (b1 p1 : Nat) : (s.setBu f c u b).counter b1 p1 = s.counter b1 p1 := rfl
@[simp] theorem State.setCore_get_bu (s : State) (f c : Nat) (x : Core) (f1 c1 u1 : Nat) : (s.setCore f c x).bu f1 c1 u1 = s.bu f1 c1 u1 := rfl
@[simp] theorem State.setCore_get_field (s : State) (f c : Nat) (x : Core) (j : Nat) : (s.setCore f c x).field j = s.field j := rfl
@[simp] theorem State.setCore_get_edge (s : State) (f c : Nat) (x : Core) (j : Nat) : (s.setCore f c x).edge j = s.edge j := rfl
@[simp] theorem State.setCore_get_port (s : State) (f c : Nat) (x : Core) (j : Nat) : (s.setCore f c x).port j = s.port j := rfl
@[simp] theorem State.setCore_get_queue (s : State) (f c : Nat) (x : Core) (j : Nat) : (s.setCore f c x).queue j = s.queue j := rfl
@[simp] theorem State.setCore_get_brim (s : State) (f c : Nat) (x : Core) (j : Nat) : (s.setCore f c x).brim j = s.brim j := rfl
@[simp] theorem State.setCore_get_slot (s : State) (f c : Nat) (x : Core) (j : Nat) : (s.setCore f c x).slot j = s.slot j := rfl
@[simp] theorem State.setCore_get_counter (s : State) (f c : Nat) (x : Core) (b1 p1 : Nat) : (s.setCore f c x).counter b1 p1 = s.counter b1 p1 := rfl
@[simp] theorem State.setField_get_bu (s : State) (f : Nat) (x : Field) (f1 c1 u1 : Nat) : (s.setField f x).bu f1 c1 u1 = s.bu f1 c1 u1 := rfl
@[simp] theorem State.setField_get_core (s : State) (f : Nat) (x : Field) (f1 c1 : Nat) : (s.setField f x).core f1 c1 = s.core f1 c1 := rfl
@[simp] theorem State.setField_get_edge (s : State) (f : Nat) (x : Field) (j : Nat) : (s.setField f x).edge j = s.edge j := rfl
@[simp] theorem State.setField_get_port (s : State) (f : Nat) (x : Field) (j : Nat) : (s.setField f x).port j = s.port j := rfl
@[simp] theorem State.setField_get_queue (s : State) (f : Nat) (x : Field) (j : Nat) : (s.setField f x).queue j = s.queue j := rfl
@[simp] theorem State.setField_get_brim (s : State) (f : Nat) (x : Field) (j : Nat) : (s.setField f x).brim j = s.brim j := rfl
@[simp] theorem State.setField_get_slot (s : State) (f : Nat) (x : Field) (j : Nat) : (s.setField f x).slot j = s.slot j := rfl
@[simp] theorem State.setField_get_counter (s : State) (f : Nat) (x : Field) (b1 p1 : Nat) : (s.setField f x).counter b1 p1 = s.counter b1 p1 := rfl
@[simp] theorem State.setEdge_get_bu (s : State) (f : Nat) (x : Edge) (f1 c1 u1 : Nat) : (s.setEdge f x).bu f1 c1 u1 = s.bu f1 c1 u1 := rfl
@[simp] theorem State.setEdge_get_core (s : State) (f : Nat) (x : Edge) (f1 c1 : Nat) : (s.setEdge f x).core f1 c1 = s.core f1 c1 := rfl
@[simp] theorem State.setEdge_get_field (s : State) (f : Nat) (x : Edge) (j : Nat) : (s.setEdge f x).field j = s.field j := rfl
@[simp] theorem State.setEdge_get_port (s : State) (f : Nat) (x : Edge) (j : Nat) : (s.setEdge f x).port j = s.port j := rfl
@[simp] theorem State.setEdge_get_queue (s : State) (f : Nat) (x : Edge) (j : Nat) : (s.setEdge f x).queue j = s.queue j := rfl
@[simp] theorem State.setEdge_get_brim (s : State) (f : Nat) (x : Edge) (j : Nat) : (s.setEdge f x).brim j = s.brim j := rfl
@[simp] theorem State.setEdge_get_slot (s : State) (f : Nat) (x : Edge) (j : Nat) : (s.setEdge f x).slot j = s.slot j := rfl
@[simp] theorem State.setEdge_get_counter (s : State) (f : Nat) (x : Edge) (b1 p1 : Nat) : (s.setEdge f x).counter b1 p1 = s.counter b1 p1 := rfl
@[simp] theorem State.setPort_get_bu (s : State) (p : Nat) (x : Port) (f1 c1 u1 : Nat) : (s.setPort p x).bu f1 c1 u1 = s.bu f1 c1 u1 := rfl
@[simp] theorem State.setPort_get_core (s : State) (p : Nat) (x : Port) (f1 c1 : Nat) : (s.setPort p x).core f1 c1 = s.core f1 c1 := rfl
@[simp] theorem State.setPort_get_field (s : State) (p : Nat) (x : Port) (j : Nat) : (s.setPort p x).field j = s.field j := rfl
@[simp] theorem State.setPort_get_edge (s : State) (p : Nat) (x : Port) (j : Nat) : (s.setPort p x).edge j = s.edge j := rfl
@[simp] theorem State.setPort_get_queue (s : State) (p : Nat) (x : Port) (j : Nat) : (s.setPort p x).queue j = s.queue j := rfl
@[simp] theorem State.setPort_get_brim (s : State) (p : Nat) (x : Port) (j : Nat) : (s.setPort p x).brim j = s.brim j := rfl
@[simp] theorem State.setPort_get_slot (s : State) (p : Nat) (x : Port) (j : Nat) : (s.setPort p x).slot j = s.slot j := rfl
@[simp] theorem State.setPort_get_counter (s : State) (p : Nat) (x : Port) (b1 p1 : Nat) : (s.setPort p x).counter b1 p1 = s.counter b1 p1 := rfl
@[simp] theorem State.setQueue_get_bu (s : State) (q : Nat) (x : Queue) (f1 c1 u1 : Nat) : (s.setQueue q x).bu f1 c1 u1 = s.bu f1 c1 u1 := rfl
@[simp] theorem State.setQueue_get_core (s : State) (q : Nat) (x : Queue) (f1 c1 : Nat) : (s.setQueue q x).core f1 c1 = s.core f1 c1 := rfl
@[simp] theorem State.setQueue_get_field (s : State) (q : Nat) (x : Queue) (j : Nat) : (s.setQueue q x).field j = s.field j := rfl
@[simp] theorem State.setQueue_get_edge (s : State) (q : Nat) (x : Queue) (j : Nat) : (s.setQueue q x).edge j = s.edge j := rfl
@[simp] theorem State.setQueue_get_port (s : State) (q : Nat) (x : Queue) (j : Nat) : (s.setQueue q x).port j = s.port j := rfl
@[simp] theorem State.setQueue_get_brim (s : State) (q : Nat) (x : Queue) (j : Nat) : (s.setQueue q x).brim j = s.brim j := rfl
@[simp] theorem State.setQueue_get_slot (s : State) (q : Nat) (x : Queue) (j : Nat) : (s.setQueue q x).slot j = s.slot j := rfl
@[simp] theorem State.setQueue_get_counter (s : State) (q : Nat) (x : Queue) (b1 p1 : Nat) : (s.setQueue q x).counter b1 p1 = s.counter b1 p1 := rfl
@[simp] theorem State.setBrim_get_bu (s : State) (l : Nat) (x : Brim) (f1 c1 u1 : Nat) : (s.setBrim l x).bu f1 c1 u1 = s.bu f1 c1 u1 := rfl
@[simp] theorem State.setBrim_get_core (s : State) (l : Nat) (x : Brim) (f1 c1 : Nat) : (s.setBrim l x).core f1 c1 = s.core f1 c1 := rfl
@[simp] theorem State.setBrim_get_field (s : State) (l : Nat) (x : Brim) (j : Nat) : (s.setBrim l x).field j = s.field j := rfl
@[simp] theorem State.setBrim_get_edge (s : State) (l : Nat) (x : Brim) (j : Nat) : (s.setBrim l x).edge j = s.edge j := rfl
@[simp] theorem State.setBrim_get_port (s : State) (l : Nat) (x : Brim) (j : Nat) : (s.setBrim l x).port j = s.port j := rfl
@[simp] theorem State.setBrim_get_queue (s : State) (l : Nat) (x : Brim) (j : Nat) : (s.setBrim l x).queue j = s.queue j := rfl
@[simp] theorem State.setBrim_get_slot (s : State) (l : Nat) (x : Brim) (j : Nat) : (s.setBrim l x).slot j = s.slot j := rfl
@[simp] theorem State.setBrim_get_counter (s : State) (l : Nat) (x : Brim) (b1 p1 : Nat) : (s.setBrim l x).counter b1 p1 = s.counter b1 p1 := rfl
@[simp] theorem State.setSlot_get_bu (s : State) (m : Nat) (x : Slot) (f1 c1 u1 : Nat) : (s.setSlot m x).bu f1 c1 u1 = s.bu f1 c1 u1 := rfl
@[simp] theorem State.setSlot_get_core (s : State) (m : Nat) (x : Slot) (f1 c1 : Nat) : (s.setSlot m x).core f1 c1 = s.core f1 c1 := rfl
@[simp] theorem State.setSlot_get_field (s : State) (m : Nat) (x : Slot) (j : Nat) : (s.setSlot m x).field j = s.field j := rfl
@[simp] theorem State.setSlot_get_edge (s : State) (m : Nat) (x : Slot) (j : Nat) : (s.setSlot m x).edge j = s.edge j := rfl
@[simp] theorem State.setSlot_get_port (s : State) (m : Nat) (x : Slot) (j : Nat) : (s.setSlot m x).port j = s.port j := rfl
@[simp] theorem State.setSlot_get_queue (s : State) (m : Nat) (x : Slot) (j : Nat) : (s.setSlot m x).queue j = s.queue j := rfl
@[simp] theorem State.setSlot_get_brim (s : State) (m : Nat) (x : Slot) (j : Nat) : (s.setSlot m x).brim j = s.brim j := rfl
@[simp] theorem State.setSlot_get_counter (s : State) (m : Nat) (x : Slot) (b1 p1 : Nat) : (s.setSlot m x).counter b1 p1 = s.counter b1 p1 := rfl
@[simp] theorem State.setCounter_get_bu (s : State) (blk pos : Nat) (x : Counter) (f1 c1 u1 : Nat) : (s.setCounter blk pos x).bu f1 c1 u1 = s.bu f1 c1 u1 := rfl
@[simp] theorem State.setCounter_get_core (s : State) (blk pos : Nat) (x : Counter) (f1 c1 : Nat) : (s.setCounter blk pos x).core f1 c1 = s.core f1 c1 := rfl
@[simp] theorem State.setCounter_get_field (s : State) (blk pos : Nat) (x : Counter) (j : Nat) : (s.setCounter blk pos x).field j = s.field j := rfl
@[simp] theorem State.setCounter_get_edge (s : State) (blk pos : Nat) (x : Counter) (j : Nat) : (s.setCounter blk pos x).edge j = s.edge j := rfl
@[simp] theorem State.setCounter_get_port (s : State) (blk pos : Nat) (x : Counter) (j : Nat) : (s.setCounter blk pos x).port j = s.port j := rfl
@[simp] theorem State.setCounter_get_queue (s : State) (blk pos : Nat) (x : Counter) (j : Nat) : (s.setCounter blk pos x).queue j = s.queue j := rfl
@[simp] theorem State.setCounter_get_brim (s : State) (blk pos : Nat) (x : Counter) (j : Nat) : (s.setCounter blk pos x).brim j = s.brim j := rfl
@[simp] theorem State.setCounter_get_slot (s : State) (blk pos : Nat) (x : Counter) (j : Nat) : (s.setCounter blk pos x).slot j = s.slot j := rfl
@[simp] theorem State.fillMem_get_bu (s : State) (r : Region) (f1 c1 u1 : Nat) : (s.fillMem r).bu f1 c1 u1 = s.bu f1 c1 u1 := rfl
@[simp] theorem State.fillMem_get_core (s : State) (r : Region) (f1 c1 : Nat) : (s.fillMem r).core f1 c1 = s.core f1 c1 := rfl
@[simp] theorem State.fillMem_get_field (s : State) (r : Region) (j : Nat) : (s.fillMem r).field j = s.field j := rfl
@[simp] theorem State.fillMem_get_edge (s : State) (r : Region) (j : Nat) : (s.fillMem r).edge j = s.edge j := rfl
@[simp] theorem State.fillMem_get_port (s : State) (r : Region) (j : Nat) : (s.fillMem r).port j = s.port j := rfl
@[simp] theorem State.fillMem_get_queue (s : State) (r : Region) (j : Nat) : (s.fillMem r).queue j = s.queue j := rfl
@[simp] theorem State.fillMem_get_brim (s : State) (r : Region) (j : Nat) : (s.fillMem r).brim j = s.brim j := rfl
@[simp] theorem State.fillMem_get_slot (s : State) (r : Region) (j : Nat) : (s.fillMem r).slot j = s.slot j := rfl
@[simp] theorem State.fillMem_get_counter (s : State) (r : Region) (b1 p1 : Nat) : (s.fillMem r).counter b1 p1 = s.counter b1 p1 := rfl
@[simp] theorem State.writeWord_get_bu (s : State) (a : Nat) (w : Word) (e : Bool) (f1 c1 u1 : Nat) : (s.writeWord a w e).bu f1 c1 u1 = s.bu f1 c1 u1 := rfl
@[simp] theorem State.writeWord_get_core (s : State) (a : Nat) (w : Word) (e : Bool) (f1 c1 : Nat) : (s.writeWord a w e).core f1 c1 = s.core f1 c1 := rfl
@[simp] theorem State.writeWord_get_field (s : State) (a : Nat) (w : Word) (e : Bool) (j : Nat) : (s.writeWord a w e).field j = s.field j := rfl
@[simp] theorem State.writeWord_get_edge (s : State) (a : Nat) (w : Word) (e : Bool) (j : Nat) : (s.writeWord a w e).edge j = s.edge j := rfl
@[simp] theorem State.writeWord_get_port (s : State) (a : Nat) (w : Word) (e : Bool) (j : Nat) : (s.writeWord a w e).port j = s.port j := rfl
@[simp] theorem State.writeWord_get_queue (s : State) (a : Nat) (w : Word) (e : Bool) (j : Nat) : (s.writeWord a w e).queue j = s.queue j := rfl
@[simp] theorem State.writeWord_get_brim (s : State) (a : Nat) (w : Word) (e : Bool) (j : Nat) : (s.writeWord a w e).brim j = s.brim j := rfl
@[simp] theorem State.writeWord_get_slot (s : State) (a : Nat) (w : Word) (e : Bool) (j : Nat) : (s.writeWord a w e).slot j = s.slot j := rfl
@[simp] theorem State.writeWord_get_counter (s : State) (a : Nat) (w : Word) (e : Bool) (b1 p1 : Nat) : (s.writeWord a w e).counter b1 p1 = s.counter b1 p1 := rfl

/-! ### Outputs, counters and records -/

@[simp] theorem State.emit_pending (s : State) (p : Nat) (o : Out) : (s.emit p o).pending = s.pending := by
  unfold State.emit State.updPort; split <;> rfl
@[simp] theorem State.emit_freeCtr (s : State) (p : Nat) (o : Out) : (s.emit p o).freeCtr = s.freeCtr := by
  unfold State.emit State.updPort; split <;> rfl
@[simp] theorem State.emit_mem (s : State) (p : Nat) (o : Out) : (s.emit p o).mem = s.mem := by
  unfold State.emit State.updPort; split <;> rfl
@[simp] theorem State.emit_bus (s : State) (p : Nat) (o : Out) : (s.emit p o).bus = s.bus := by
  unfold State.emit State.updPort; split <;> rfl
@[simp] theorem State.emit_cores (s : State) (p : Nat) (o : Out) : (s.emit p o).cores = s.cores := by
  unfold State.emit State.updPort; split <;> rfl
@[simp] theorem State.emit_fields (s : State) (p : Nat) (o : Out) : (s.emit p o).fields = s.fields := by
  unfold State.emit State.updPort; split <;> rfl
@[simp] theorem State.emit_edges (s : State) (p : Nat) (o : Out) : (s.emit p o).edges = s.edges := by
  unfold State.emit State.updPort; split <;> rfl
@[simp] theorem State.emit_winReqs (s : State) (p : Nat) (o : Out) : (s.emit p o).winReqs = s.winReqs := by
  unfold State.emit State.updPort; split <;> rfl
@[simp] theorem State.emit_reqNo (s : State) (p : Nat) (o : Out) : (s.emit p o).reqNo = s.reqNo := by
  unfold State.emit State.updPort; split <;> rfl
@[simp] theorem State.emit_owner (s : State) (p : Nat) (o : Out) : (s.emit p o).owner = s.owner := by
  unfold State.emit State.updPort; split <;> rfl
@[simp] theorem State.emit_queues (s : State) (p : Nat) (o : Out) : (s.emit p o).queues = s.queues := by
  unfold State.emit State.updPort; split <;> rfl
@[simp] theorem State.emit_msgs (s : State) (p : Nat) (o : Out) : (s.emit p o).msgs = s.msgs := by
  unfold State.emit State.updPort; split <;> rfl
@[simp] theorem State.emit_plans (s : State) (p : Nat) (o : Out) : (s.emit p o).plans = s.plans := by
  unfold State.emit State.updPort; split <;> rfl
@[simp] theorem State.emit_planGens (s : State) (p : Nat) (o : Out) : (s.emit p o).planGens = s.planGens := by
  unfold State.emit State.updPort; split <;> rfl
@[simp] theorem State.emit_jobs (s : State) (p : Nat) (o : Out) : (s.emit p o).jobs = s.jobs := by
  unfold State.emit State.updPort; split <;> rfl
@[simp] theorem State.emit_streams (s : State) (p : Nat) (o : Out) : (s.emit p o).streams = s.streams := by
  unfold State.emit State.updPort; split <;> rfl
@[simp] theorem State.emit_streamGens (s : State) (p : Nat) (o : Out) : (s.emit p o).streamGens = s.streamGens := by
  unfold State.emit State.updPort; split <;> rfl
@[simp] theorem State.emit_staged (s : State) (p : Nat) (o : Out) : (s.emit p o).staged = s.staged := by
  unfold State.emit State.updPort; split <;> rfl
@[simp] theorem State.emit_active (s : State) (p : Nat) (o : Out) : (s.emit p o).active = s.active := by
  unfold State.emit State.updPort; split <;> rfl
@[simp] theorem State.emit_record (s : State) (p : Nat) (o : Out) : (s.emit p o).record = s.record := by
  unfold State.emit State.updPort; split <;> rfl
@[simp] theorem State.emit_cfgGens (s : State) (p : Nat) (o : Out) : (s.emit p o).cfgGens = s.cfgGens := by
  unfold State.emit State.updPort; split <;> rfl
@[simp] theorem State.emit_fabStaged (s : State) (p : Nat) (o : Out) : (s.emit p o).fabStaged = s.fabStaged := by
  unfold State.emit State.updPort; split <;> rfl
@[simp] theorem State.emit_fabActive (s : State) (p : Nat) (o : Out) : (s.emit p o).fabActive = s.fabActive := by
  unfold State.emit State.updPort; split <;> rfl
@[simp] theorem State.emit_fabGen (s : State) (p : Nat) (o : Out) : (s.emit p o).fabGen = s.fabGen := by
  unfold State.emit State.updPort; split <;> rfl
@[simp] theorem State.emit_requests (s : State) (p : Nat) (o : Out) : (s.emit p o).requests = s.requests := by
  unfold State.emit State.updPort; split <;> rfl
@[simp] theorem State.emit_fw (s : State) (p : Nat) (o : Out) : (s.emit p o).fw = s.fw := by
  unfold State.emit State.updPort; split <;> rfl
@[simp] theorem State.emit_lanterns (s : State) (p : Nat) (o : Out) : (s.emit p o).lanterns = s.lanterns := by
  unfold State.emit State.updPort; split <;> rfl
@[simp] theorem State.emit_limits (s : State) (p : Nat) (o : Out) : (s.emit p o).limits = s.limits := by
  unfold State.emit State.updPort; split <;> rfl
@[simp] theorem State.emit_sensors (s : State) (p : Nat) (o : Out) : (s.emit p o).sensors = s.sensors := by
  unfold State.emit State.updPort; split <;> rfl
@[simp] theorem State.emit_vigil (s : State) (p : Nat) (o : Out) : (s.emit p o).vigil = s.vigil := by
  unfold State.emit State.updPort; split <;> rfl
@[simp] theorem State.emit_log (s : State) (p : Nat) (o : Out) : (s.emit p o).log = s.log := by
  unfold State.emit State.updPort; split <;> rfl
@[simp] theorem State.emit_counters (s : State) (p : Nat) (o : Out) : (s.emit p o).counters = s.counters := by
  unfold State.emit State.updPort; split <;> rfl
@[simp] theorem State.emit_mesh (s : State) (p : Nat) (o : Out) : (s.emit p o).mesh = s.mesh := by
  unfold State.emit State.updPort; split <;> rfl
@[simp] theorem State.emit_brims (s : State) (p : Nat) (o : Out) : (s.emit p o).brims = s.brims := by
  unfold State.emit State.updPort; split <;> rfl
@[simp] theorem State.emit_slots (s : State) (p : Nat) (o : Out) : (s.emit p o).slots = s.slots := by
  unfold State.emit State.updPort; split <;> rfl
@[simp] theorem State.emit_smb (s : State) (p : Nat) (o : Out) : (s.emit p o).smb = s.smb := by
  unfold State.emit State.updPort; split <;> rfl
@[simp] theorem State.emit_jtag (s : State) (p : Nat) (o : Out) : (s.emit p o).jtag = s.jtag := by
  unfold State.emit State.updPort; split <;> rfl
@[simp] theorem State.emit_get_bu (s : State) (p : Nat) (o : Out) (f1 c1 u1 : Nat) : (s.emit p o).bu f1 c1 u1 = s.bu f1 c1 u1 := by
  simp [State.bu]
@[simp] theorem State.emit_get_core (s : State) (p : Nat) (o : Out) (f1 c1 : Nat) : (s.emit p o).core f1 c1 = s.core f1 c1 := by
  simp [State.core]
@[simp] theorem State.emit_get_field (s : State) (p : Nat) (o : Out) (j : Nat) : (s.emit p o).field j = s.field j := by
  simp [State.field]
@[simp] theorem State.emit_get_edge (s : State) (p : Nat) (o : Out) (j : Nat) : (s.emit p o).edge j = s.edge j := by
  simp [State.edge]
@[simp] theorem State.emit_get_queue (s : State) (p : Nat) (o : Out) (j : Nat) : (s.emit p o).queue j = s.queue j := by
  simp [State.queue]
@[simp] theorem State.emit_get_brim (s : State) (p : Nat) (o : Out) (j : Nat) : (s.emit p o).brim j = s.brim j := by
  simp [State.brim]
@[simp] theorem State.emit_get_slot (s : State) (p : Nat) (o : Out) (j : Nat) : (s.emit p o).slot j = s.slot j := by
  simp [State.slot]
@[simp] theorem State.emit_get_counter (s : State) (p : Nat) (o : Out) (b1 p1 : Nat) : (s.emit p o).counter b1 p1 = s.counter b1 p1 := by
  simp [State.counter]
@[simp] theorem State.sendMsix_pending (s : State) (p v : Nat) : (s.sendMsix p v).pending = s.pending := by
  unfold State.sendMsix; dsimp only; split; split; rfl; rfl; simp
@[simp] theorem State.sendMsix_freeCtr (s : State) (p v : Nat) : (s.sendMsix p v).freeCtr = s.freeCtr := by
  unfold State.sendMsix; dsimp only; split; split; rfl; rfl; simp
@[simp] theorem State.sendMsix_mem (s : State) (p v : Nat) : (s.sendMsix p v).mem = s.mem := by
  unfold State.sendMsix; dsimp only; split; split; rfl; rfl; simp
@[simp] theorem State.sendMsix_bus (s : State) (p v : Nat) : (s.sendMsix p v).bus = s.bus := by
  unfold State.sendMsix; dsimp only; split; split; rfl; rfl; simp
@[simp] theorem State.sendMsix_cores (s : State) (p v : Nat) : (s.sendMsix p v).cores = s.cores := by
  unfold State.sendMsix; dsimp only; split; split; rfl; rfl; simp
@[simp] theorem State.sendMsix_fields (s : State) (p v : Nat) : (s.sendMsix p v).fields = s.fields := by
  unfold State.sendMsix; dsimp only; split; split; rfl; rfl; simp
@[simp] theorem State.sendMsix_edges (s : State) (p v : Nat) : (s.sendMsix p v).edges = s.edges := by
  unfold State.sendMsix; dsimp only; split; split; rfl; rfl; simp
@[simp] theorem State.sendMsix_winReqs (s : State) (p v : Nat) : (s.sendMsix p v).winReqs = s.winReqs := by
  unfold State.sendMsix; dsimp only; split; split; rfl; rfl; simp
@[simp] theorem State.sendMsix_reqNo (s : State) (p v : Nat) : (s.sendMsix p v).reqNo = s.reqNo := by
  unfold State.sendMsix; dsimp only; split; split; rfl; rfl; simp
@[simp] theorem State.sendMsix_owner (s : State) (p v : Nat) : (s.sendMsix p v).owner = s.owner := by
  unfold State.sendMsix; dsimp only; split; split; rfl; rfl; simp
@[simp] theorem State.sendMsix_queues (s : State) (p v : Nat) : (s.sendMsix p v).queues = s.queues := by
  unfold State.sendMsix; dsimp only; split; split; rfl; rfl; simp
@[simp] theorem State.sendMsix_msgs (s : State) (p v : Nat) : (s.sendMsix p v).msgs = s.msgs := by
  unfold State.sendMsix; dsimp only; split; split; rfl; rfl; simp
@[simp] theorem State.sendMsix_plans (s : State) (p v : Nat) : (s.sendMsix p v).plans = s.plans := by
  unfold State.sendMsix; dsimp only; split; split; rfl; rfl; simp
@[simp] theorem State.sendMsix_planGens (s : State) (p v : Nat) : (s.sendMsix p v).planGens = s.planGens := by
  unfold State.sendMsix; dsimp only; split; split; rfl; rfl; simp
@[simp] theorem State.sendMsix_jobs (s : State) (p v : Nat) : (s.sendMsix p v).jobs = s.jobs := by
  unfold State.sendMsix; dsimp only; split; split; rfl; rfl; simp
@[simp] theorem State.sendMsix_streams (s : State) (p v : Nat) : (s.sendMsix p v).streams = s.streams := by
  unfold State.sendMsix; dsimp only; split; split; rfl; rfl; simp
@[simp] theorem State.sendMsix_streamGens (s : State) (p v : Nat) : (s.sendMsix p v).streamGens = s.streamGens := by
  unfold State.sendMsix; dsimp only; split; split; rfl; rfl; simp
@[simp] theorem State.sendMsix_staged (s : State) (p v : Nat) : (s.sendMsix p v).staged = s.staged := by
  unfold State.sendMsix; dsimp only; split; split; rfl; rfl; simp
@[simp] theorem State.sendMsix_active (s : State) (p v : Nat) : (s.sendMsix p v).active = s.active := by
  unfold State.sendMsix; dsimp only; split; split; rfl; rfl; simp
@[simp] theorem State.sendMsix_record (s : State) (p v : Nat) : (s.sendMsix p v).record = s.record := by
  unfold State.sendMsix; dsimp only; split; split; rfl; rfl; simp
@[simp] theorem State.sendMsix_cfgGens (s : State) (p v : Nat) : (s.sendMsix p v).cfgGens = s.cfgGens := by
  unfold State.sendMsix; dsimp only; split; split; rfl; rfl; simp
@[simp] theorem State.sendMsix_fabStaged (s : State) (p v : Nat) : (s.sendMsix p v).fabStaged = s.fabStaged := by
  unfold State.sendMsix; dsimp only; split; split; rfl; rfl; simp
@[simp] theorem State.sendMsix_fabActive (s : State) (p v : Nat) : (s.sendMsix p v).fabActive = s.fabActive := by
  unfold State.sendMsix; dsimp only; split; split; rfl; rfl; simp
@[simp] theorem State.sendMsix_fabGen (s : State) (p v : Nat) : (s.sendMsix p v).fabGen = s.fabGen := by
  unfold State.sendMsix; dsimp only; split; split; rfl; rfl; simp
@[simp] theorem State.sendMsix_requests (s : State) (p v : Nat) : (s.sendMsix p v).requests = s.requests := by
  unfold State.sendMsix; dsimp only; split; split; rfl; rfl; simp
@[simp] theorem State.sendMsix_fw (s : State) (p v : Nat) : (s.sendMsix p v).fw = s.fw := by
  unfold State.sendMsix; dsimp only; split; split; rfl; rfl; simp
@[simp] theorem State.sendMsix_lanterns (s : State) (p v : Nat) : (s.sendMsix p v).lanterns = s.lanterns := by
  unfold State.sendMsix; dsimp only; split; split; rfl; rfl; simp
@[simp] theorem State.sendMsix_limits (s : State) (p v : Nat) : (s.sendMsix p v).limits = s.limits := by
  unfold State.sendMsix; dsimp only; split; split; rfl; rfl; simp
@[simp] theorem State.sendMsix_sensors (s : State) (p v : Nat) : (s.sendMsix p v).sensors = s.sensors := by
  unfold State.sendMsix; dsimp only; split; split; rfl; rfl; simp
@[simp] theorem State.sendMsix_vigil (s : State) (p v : Nat) : (s.sendMsix p v).vigil = s.vigil := by
  unfold State.sendMsix; dsimp only; split; split; rfl; rfl; simp
@[simp] theorem State.sendMsix_log (s : State) (p v : Nat) : (s.sendMsix p v).log = s.log := by
  unfold State.sendMsix; dsimp only; split; split; rfl; rfl; simp
@[simp] theorem State.sendMsix_counters (s : State) (p v : Nat) : (s.sendMsix p v).counters = s.counters := by
  unfold State.sendMsix; dsimp only; split; split; rfl; rfl; simp
@[simp] theorem State.sendMsix_mesh (s : State) (p v : Nat) : (s.sendMsix p v).mesh = s.mesh := by
  unfold State.sendMsix; dsimp only; split; split; rfl; rfl; simp
@[simp] theorem State.sendMsix_brims (s : State) (p v : Nat) : (s.sendMsix p v).brims = s.brims := by
  unfold State.sendMsix; dsimp only; split; split; rfl; rfl; simp
@[simp] theorem State.sendMsix_slots (s : State) (p v : Nat) : (s.sendMsix p v).slots = s.slots := by
  unfold State.sendMsix; dsimp only; split; split; rfl; rfl; simp
@[simp] theorem State.sendMsix_smb (s : State) (p v : Nat) : (s.sendMsix p v).smb = s.smb := by
  unfold State.sendMsix; dsimp only; split; split; rfl; rfl; simp
@[simp] theorem State.sendMsix_jtag (s : State) (p v : Nat) : (s.sendMsix p v).jtag = s.jtag := by
  unfold State.sendMsix; dsimp only; split; split; rfl; rfl; simp
@[simp] theorem State.sendMsix_get_bu (s : State) (p v : Nat) (f1 c1 u1 : Nat) : (s.sendMsix p v).bu f1 c1 u1 = s.bu f1 c1 u1 := by
  simp [State.bu]
@[simp] theorem State.sendMsix_get_core (s : State) (p v : Nat) (f1 c1 : Nat) : (s.sendMsix p v).core f1 c1 = s.core f1 c1 := by
  simp [State.core]
@[simp] theorem State.sendMsix_get_field (s : State) (p v : Nat) (j : Nat) : (s.sendMsix p v).field j = s.field j := by
  simp [State.field]
@[simp] theorem State.sendMsix_get_edge (s : State) (p v : Nat) (j : Nat) : (s.sendMsix p v).edge j = s.edge j := by
  simp [State.edge]
@[simp] theorem State.sendMsix_get_queue (s : State) (p v : Nat) (j : Nat) : (s.sendMsix p v).queue j = s.queue j := by
  simp [State.queue]
@[simp] theorem State.sendMsix_get_brim (s : State) (p v : Nat) (j : Nat) : (s.sendMsix p v).brim j = s.brim j := by
  simp [State.brim]
@[simp] theorem State.sendMsix_get_slot (s : State) (p v : Nat) (j : Nat) : (s.sendMsix p v).slot j = s.slot j := by
  simp [State.slot]
@[simp] theorem State.sendMsix_get_counter (s : State) (p v : Nat) (b1 p1 : Nat) : (s.sendMsix p v).counter b1 p1 = s.counter b1 p1 := by
  simp [State.counter]
@[simp] theorem State.raise_pending (s : State) (p i : Nat) : (s.raise p i).pending = s.pending := by
  unfold State.raise; dsimp only; split; rfl; split; rfl; simp
@[simp] theorem State.raise_freeCtr (s : State) (p i : Nat) : (s.raise p i).freeCtr = s.freeCtr := by
  unfold State.raise; dsimp only; split; rfl; split; rfl; simp
@[simp] theorem State.raise_mem (s : State) (p i : Nat) : (s.raise p i).mem = s.mem := by
  unfold State.raise; dsimp only; split; rfl; split; rfl; simp
@[simp] theorem State.raise_bus (s : State) (p i : Nat) : (s.raise p i).bus = s.bus := by
  unfold State.raise; dsimp only; split; rfl; split; rfl; simp
@[simp] theorem State.raise_cores (s : State) (p i : Nat) : (s.raise p i).cores = s.cores := by
  unfold State.raise; dsimp only; split; rfl; split; rfl; simp
@[simp] theorem State.raise_fields (s : State) (p i : Nat) : (s.raise p i).fields = s.fields := by
  unfold State.raise; dsimp only; split; rfl; split; rfl; simp
@[simp] theorem State.raise_edges (s : State) (p i : Nat) : (s.raise p i).edges = s.edges := by
  unfold State.raise; dsimp only; split; rfl; split; rfl; simp
@[simp] theorem State.raise_winReqs (s : State) (p i : Nat) : (s.raise p i).winReqs = s.winReqs := by
  unfold State.raise; dsimp only; split; rfl; split; rfl; simp
@[simp] theorem State.raise_reqNo (s : State) (p i : Nat) : (s.raise p i).reqNo = s.reqNo := by
  unfold State.raise; dsimp only; split; rfl; split; rfl; simp
@[simp] theorem State.raise_owner (s : State) (p i : Nat) : (s.raise p i).owner = s.owner := by
  unfold State.raise; dsimp only; split; rfl; split; rfl; simp
@[simp] theorem State.raise_queues (s : State) (p i : Nat) : (s.raise p i).queues = s.queues := by
  unfold State.raise; dsimp only; split; rfl; split; rfl; simp
@[simp] theorem State.raise_msgs (s : State) (p i : Nat) : (s.raise p i).msgs = s.msgs := by
  unfold State.raise; dsimp only; split; rfl; split; rfl; simp
@[simp] theorem State.raise_plans (s : State) (p i : Nat) : (s.raise p i).plans = s.plans := by
  unfold State.raise; dsimp only; split; rfl; split; rfl; simp
@[simp] theorem State.raise_planGens (s : State) (p i : Nat) : (s.raise p i).planGens = s.planGens := by
  unfold State.raise; dsimp only; split; rfl; split; rfl; simp
@[simp] theorem State.raise_jobs (s : State) (p i : Nat) : (s.raise p i).jobs = s.jobs := by
  unfold State.raise; dsimp only; split; rfl; split; rfl; simp
@[simp] theorem State.raise_streams (s : State) (p i : Nat) : (s.raise p i).streams = s.streams := by
  unfold State.raise; dsimp only; split; rfl; split; rfl; simp
@[simp] theorem State.raise_streamGens (s : State) (p i : Nat) : (s.raise p i).streamGens = s.streamGens := by
  unfold State.raise; dsimp only; split; rfl; split; rfl; simp
@[simp] theorem State.raise_staged (s : State) (p i : Nat) : (s.raise p i).staged = s.staged := by
  unfold State.raise; dsimp only; split; rfl; split; rfl; simp
@[simp] theorem State.raise_active (s : State) (p i : Nat) : (s.raise p i).active = s.active := by
  unfold State.raise; dsimp only; split; rfl; split; rfl; simp
@[simp] theorem State.raise_record (s : State) (p i : Nat) : (s.raise p i).record = s.record := by
  unfold State.raise; dsimp only; split; rfl; split; rfl; simp
@[simp] theorem State.raise_cfgGens (s : State) (p i : Nat) : (s.raise p i).cfgGens = s.cfgGens := by
  unfold State.raise; dsimp only; split; rfl; split; rfl; simp
@[simp] theorem State.raise_fabStaged (s : State) (p i : Nat) : (s.raise p i).fabStaged = s.fabStaged := by
  unfold State.raise; dsimp only; split; rfl; split; rfl; simp
@[simp] theorem State.raise_fabActive (s : State) (p i : Nat) : (s.raise p i).fabActive = s.fabActive := by
  unfold State.raise; dsimp only; split; rfl; split; rfl; simp
@[simp] theorem State.raise_fabGen (s : State) (p i : Nat) : (s.raise p i).fabGen = s.fabGen := by
  unfold State.raise; dsimp only; split; rfl; split; rfl; simp
@[simp] theorem State.raise_requests (s : State) (p i : Nat) : (s.raise p i).requests = s.requests := by
  unfold State.raise; dsimp only; split; rfl; split; rfl; simp
@[simp] theorem State.raise_fw (s : State) (p i : Nat) : (s.raise p i).fw = s.fw := by
  unfold State.raise; dsimp only; split; rfl; split; rfl; simp
@[simp] theorem State.raise_lanterns (s : State) (p i : Nat) : (s.raise p i).lanterns = s.lanterns := by
  unfold State.raise; dsimp only; split; rfl; split; rfl; simp
@[simp] theorem State.raise_limits (s : State) (p i : Nat) : (s.raise p i).limits = s.limits := by
  unfold State.raise; dsimp only; split; rfl; split; rfl; simp
@[simp] theorem State.raise_sensors (s : State) (p i : Nat) : (s.raise p i).sensors = s.sensors := by
  unfold State.raise; dsimp only; split; rfl; split; rfl; simp
@[simp] theorem State.raise_vigil (s : State) (p i : Nat) : (s.raise p i).vigil = s.vigil := by
  unfold State.raise; dsimp only; split; rfl; split; rfl; simp
@[simp] theorem State.raise_log (s : State) (p i : Nat) : (s.raise p i).log = s.log := by
  unfold State.raise; dsimp only; split; rfl; split; rfl; simp
@[simp] theorem State.raise_counters (s : State) (p i : Nat) : (s.raise p i).counters = s.counters := by
  unfold State.raise; dsimp only; split; rfl; split; rfl; simp
@[simp] theorem State.raise_mesh (s : State) (p i : Nat) : (s.raise p i).mesh = s.mesh := by
  unfold State.raise; dsimp only; split; rfl; split; rfl; simp
@[simp] theorem State.raise_brims (s : State) (p i : Nat) : (s.raise p i).brims = s.brims := by
  unfold State.raise; dsimp only; split; rfl; split; rfl; simp
@[simp] theorem State.raise_slots (s : State) (p i : Nat) : (s.raise p i).slots = s.slots := by
  unfold State.raise; dsimp only; split; rfl; split; rfl; simp
@[simp] theorem State.raise_smb (s : State) (p i : Nat) : (s.raise p i).smb = s.smb := by
  unfold State.raise; dsimp only; split; rfl; split; rfl; simp
@[simp] theorem State.raise_jtag (s : State) (p i : Nat) : (s.raise p i).jtag = s.jtag := by
  unfold State.raise; dsimp only; split; rfl; split; rfl; simp
@[simp] theorem State.raise_get_bu (s : State) (p i : Nat) (f1 c1 u1 : Nat) : (s.raise p i).bu f1 c1 u1 = s.bu f1 c1 u1 := by
  simp [State.bu]
@[simp] theorem State.raise_get_core (s : State) (p i : Nat) (f1 c1 : Nat) : (s.raise p i).core f1 c1 = s.core f1 c1 := by
  simp [State.core]
@[simp] theorem State.raise_get_field (s : State) (p i : Nat) (j : Nat) : (s.raise p i).field j = s.field j := by
  simp [State.field]
@[simp] theorem State.raise_get_edge (s : State) (p i : Nat) (j : Nat) : (s.raise p i).edge j = s.edge j := by
  simp [State.edge]
@[simp] theorem State.raise_get_queue (s : State) (p i : Nat) (j : Nat) : (s.raise p i).queue j = s.queue j := by
  simp [State.queue]
@[simp] theorem State.raise_get_brim (s : State) (p i : Nat) (j : Nat) : (s.raise p i).brim j = s.brim j := by
  simp [State.brim]
@[simp] theorem State.raise_get_slot (s : State) (p i : Nat) (j : Nat) : (s.raise p i).slot j = s.slot j := by
  simp [State.slot]
@[simp] theorem State.raise_get_counter (s : State) (p i : Nat) (b1 p1 : Nat) : (s.raise p i).counter b1 p1 = s.counter b1 p1 := by
  simp [State.counter]
@[simp] theorem State.raiseAll_pending (s : State) (i : Nat) : (s.raiseAll i).pending = s.pending := by
  simp [State.raiseAll]
@[simp] theorem State.raiseAll_freeCtr (s : State) (i : Nat) : (s.raiseAll i).freeCtr = s.freeCtr := by
  simp [State.raiseAll]
@[simp] theorem State.raiseAll_mem (s : State) (i : Nat) : (s.raiseAll i).mem = s.mem := by
  simp [State.raiseAll]
@[simp] theorem State.raiseAll_bus (s : State) (i : Nat) : (s.raiseAll i).bus = s.bus := by
  simp [State.raiseAll]
@[simp] theorem State.raiseAll_cores (s : State) (i : Nat) : (s.raiseAll i).cores = s.cores := by
  simp [State.raiseAll]
@[simp] theorem State.raiseAll_fields (s : State) (i : Nat) : (s.raiseAll i).fields = s.fields := by
  simp [State.raiseAll]
@[simp] theorem State.raiseAll_edges (s : State) (i : Nat) : (s.raiseAll i).edges = s.edges := by
  simp [State.raiseAll]
@[simp] theorem State.raiseAll_winReqs (s : State) (i : Nat) : (s.raiseAll i).winReqs = s.winReqs := by
  simp [State.raiseAll]
@[simp] theorem State.raiseAll_reqNo (s : State) (i : Nat) : (s.raiseAll i).reqNo = s.reqNo := by
  simp [State.raiseAll]
@[simp] theorem State.raiseAll_owner (s : State) (i : Nat) : (s.raiseAll i).owner = s.owner := by
  simp [State.raiseAll]
@[simp] theorem State.raiseAll_queues (s : State) (i : Nat) : (s.raiseAll i).queues = s.queues := by
  simp [State.raiseAll]
@[simp] theorem State.raiseAll_msgs (s : State) (i : Nat) : (s.raiseAll i).msgs = s.msgs := by
  simp [State.raiseAll]
@[simp] theorem State.raiseAll_plans (s : State) (i : Nat) : (s.raiseAll i).plans = s.plans := by
  simp [State.raiseAll]
@[simp] theorem State.raiseAll_planGens (s : State) (i : Nat) : (s.raiseAll i).planGens = s.planGens := by
  simp [State.raiseAll]
@[simp] theorem State.raiseAll_jobs (s : State) (i : Nat) : (s.raiseAll i).jobs = s.jobs := by
  simp [State.raiseAll]
@[simp] theorem State.raiseAll_streams (s : State) (i : Nat) : (s.raiseAll i).streams = s.streams := by
  simp [State.raiseAll]
@[simp] theorem State.raiseAll_streamGens (s : State) (i : Nat) : (s.raiseAll i).streamGens = s.streamGens := by
  simp [State.raiseAll]
@[simp] theorem State.raiseAll_staged (s : State) (i : Nat) : (s.raiseAll i).staged = s.staged := by
  simp [State.raiseAll]
@[simp] theorem State.raiseAll_active (s : State) (i : Nat) : (s.raiseAll i).active = s.active := by
  simp [State.raiseAll]
@[simp] theorem State.raiseAll_record (s : State) (i : Nat) : (s.raiseAll i).record = s.record := by
  simp [State.raiseAll]
@[simp] theorem State.raiseAll_cfgGens (s : State) (i : Nat) : (s.raiseAll i).cfgGens = s.cfgGens := by
  simp [State.raiseAll]
@[simp] theorem State.raiseAll_fabStaged (s : State) (i : Nat) : (s.raiseAll i).fabStaged = s.fabStaged := by
  simp [State.raiseAll]
@[simp] theorem State.raiseAll_fabActive (s : State) (i : Nat) : (s.raiseAll i).fabActive = s.fabActive := by
  simp [State.raiseAll]
@[simp] theorem State.raiseAll_fabGen (s : State) (i : Nat) : (s.raiseAll i).fabGen = s.fabGen := by
  simp [State.raiseAll]
@[simp] theorem State.raiseAll_requests (s : State) (i : Nat) : (s.raiseAll i).requests = s.requests := by
  simp [State.raiseAll]
@[simp] theorem State.raiseAll_fw (s : State) (i : Nat) : (s.raiseAll i).fw = s.fw := by
  simp [State.raiseAll]
@[simp] theorem State.raiseAll_lanterns (s : State) (i : Nat) : (s.raiseAll i).lanterns = s.lanterns := by
  simp [State.raiseAll]
@[simp] theorem State.raiseAll_limits (s : State) (i : Nat) : (s.raiseAll i).limits = s.limits := by
  simp [State.raiseAll]
@[simp] theorem State.raiseAll_sensors (s : State) (i : Nat) : (s.raiseAll i).sensors = s.sensors := by
  simp [State.raiseAll]
@[simp] theorem State.raiseAll_vigil (s : State) (i : Nat) : (s.raiseAll i).vigil = s.vigil := by
  simp [State.raiseAll]
@[simp] theorem State.raiseAll_log (s : State) (i : Nat) : (s.raiseAll i).log = s.log := by
  simp [State.raiseAll]
@[simp] theorem State.raiseAll_counters (s : State) (i : Nat) : (s.raiseAll i).counters = s.counters := by
  simp [State.raiseAll]
@[simp] theorem State.raiseAll_mesh (s : State) (i : Nat) : (s.raiseAll i).mesh = s.mesh := by
  simp [State.raiseAll]
@[simp] theorem State.raiseAll_brims (s : State) (i : Nat) : (s.raiseAll i).brims = s.brims := by
  simp [State.raiseAll]
@[simp] theorem State.raiseAll_slots (s : State) (i : Nat) : (s.raiseAll i).slots = s.slots := by
  simp [State.raiseAll]
@[simp] theorem State.raiseAll_smb (s : State) (i : Nat) : (s.raiseAll i).smb = s.smb := by
  simp [State.raiseAll]
@[simp] theorem State.raiseAll_jtag (s : State) (i : Nat) : (s.raiseAll i).jtag = s.jtag := by
  simp [State.raiseAll]
@[simp] theorem State.raiseAll_get_bu (s : State) (i : Nat) (f1 c1 u1 : Nat) : (s.raiseAll i).bu f1 c1 u1 = s.bu f1 c1 u1 := by
  simp [State.bu]
@[simp] theorem State.raiseAll_get_core (s : State) (i : Nat) (f1 c1 : Nat) : (s.raiseAll i).core f1 c1 = s.core f1 c1 := by
  simp [State.core]
@[simp] theorem State.raiseAll_get_field (s : State) (i : Nat) (j : Nat) : (s.raiseAll i).field j = s.field j := by
  simp [State.field]
@[simp] theorem State.raiseAll_get_edge (s : State) (i : Nat) (j : Nat) : (s.raiseAll i).edge j = s.edge j := by
  simp [State.edge]
@[simp] theorem State.raiseAll_get_queue (s : State) (i : Nat) (j : Nat) : (s.raiseAll i).queue j = s.queue j := by
  simp [State.queue]
@[simp] theorem State.raiseAll_get_brim (s : State) (i : Nat) (j : Nat) : (s.raiseAll i).brim j = s.brim j := by
  simp [State.brim]
@[simp] theorem State.raiseAll_get_slot (s : State) (i : Nat) (j : Nat) : (s.raiseAll i).slot j = s.slot j := by
  simp [State.slot]
@[simp] theorem State.raiseAll_get_counter (s : State) (i : Nat) (b1 p1 : Nat) : (s.raiseAll i).counter b1 p1 = s.counter b1 p1 := by
  simp [State.counter]
@[simp] theorem State.count_pending (s : State) (blk pos n : Nat) : (s.count blk pos n).pending = s.pending := by
  unfold State.count; dsimp only; split; rfl; split; rfl; split; rfl; simp
@[simp] theorem State.count_freeCtr (s : State) (blk pos n : Nat) : (s.count blk pos n).freeCtr = s.freeCtr := by
  unfold State.count; dsimp only; split; rfl; split; rfl; split; rfl; simp
@[simp] theorem State.count_mem (s : State) (blk pos n : Nat) : (s.count blk pos n).mem = s.mem := by
  unfold State.count; dsimp only; split; rfl; split; rfl; split; rfl; simp
@[simp] theorem State.count_bus (s : State) (blk pos n : Nat) : (s.count blk pos n).bus = s.bus := by
  unfold State.count; dsimp only; split; rfl; split; rfl; split; rfl; simp
@[simp] theorem State.count_cores (s : State) (blk pos n : Nat) : (s.count blk pos n).cores = s.cores := by
  unfold State.count; dsimp only; split; rfl; split; rfl; split; rfl; simp
@[simp] theorem State.count_fields (s : State) (blk pos n : Nat) : (s.count blk pos n).fields = s.fields := by
  unfold State.count; dsimp only; split; rfl; split; rfl; split; rfl; simp
@[simp] theorem State.count_edges (s : State) (blk pos n : Nat) : (s.count blk pos n).edges = s.edges := by
  unfold State.count; dsimp only; split; rfl; split; rfl; split; rfl; simp
@[simp] theorem State.count_winReqs (s : State) (blk pos n : Nat) : (s.count blk pos n).winReqs = s.winReqs := by
  unfold State.count; dsimp only; split; rfl; split; rfl; split; rfl; simp
@[simp] theorem State.count_reqNo (s : State) (blk pos n : Nat) : (s.count blk pos n).reqNo = s.reqNo := by
  unfold State.count; dsimp only; split; rfl; split; rfl; split; rfl; simp
@[simp] theorem State.count_owner (s : State) (blk pos n : Nat) : (s.count blk pos n).owner = s.owner := by
  unfold State.count; dsimp only; split; rfl; split; rfl; split; rfl; simp
@[simp] theorem State.count_queues (s : State) (blk pos n : Nat) : (s.count blk pos n).queues = s.queues := by
  unfold State.count; dsimp only; split; rfl; split; rfl; split; rfl; simp
@[simp] theorem State.count_msgs (s : State) (blk pos n : Nat) : (s.count blk pos n).msgs = s.msgs := by
  unfold State.count; dsimp only; split; rfl; split; rfl; split; rfl; simp
@[simp] theorem State.count_plans (s : State) (blk pos n : Nat) : (s.count blk pos n).plans = s.plans := by
  unfold State.count; dsimp only; split; rfl; split; rfl; split; rfl; simp
@[simp] theorem State.count_planGens (s : State) (blk pos n : Nat) : (s.count blk pos n).planGens = s.planGens := by
  unfold State.count; dsimp only; split; rfl; split; rfl; split; rfl; simp
@[simp] theorem State.count_jobs (s : State) (blk pos n : Nat) : (s.count blk pos n).jobs = s.jobs := by
  unfold State.count; dsimp only; split; rfl; split; rfl; split; rfl; simp
@[simp] theorem State.count_streams (s : State) (blk pos n : Nat) : (s.count blk pos n).streams = s.streams := by
  unfold State.count; dsimp only; split; rfl; split; rfl; split; rfl; simp
@[simp] theorem State.count_streamGens (s : State) (blk pos n : Nat) : (s.count blk pos n).streamGens = s.streamGens := by
  unfold State.count; dsimp only; split; rfl; split; rfl; split; rfl; simp
@[simp] theorem State.count_staged (s : State) (blk pos n : Nat) : (s.count blk pos n).staged = s.staged := by
  unfold State.count; dsimp only; split; rfl; split; rfl; split; rfl; simp
@[simp] theorem State.count_active (s : State) (blk pos n : Nat) : (s.count blk pos n).active = s.active := by
  unfold State.count; dsimp only; split; rfl; split; rfl; split; rfl; simp
@[simp] theorem State.count_record (s : State) (blk pos n : Nat) : (s.count blk pos n).record = s.record := by
  unfold State.count; dsimp only; split; rfl; split; rfl; split; rfl; simp
@[simp] theorem State.count_cfgGens (s : State) (blk pos n : Nat) : (s.count blk pos n).cfgGens = s.cfgGens := by
  unfold State.count; dsimp only; split; rfl; split; rfl; split; rfl; simp
@[simp] theorem State.count_fabStaged (s : State) (blk pos n : Nat) : (s.count blk pos n).fabStaged = s.fabStaged := by
  unfold State.count; dsimp only; split; rfl; split; rfl; split; rfl; simp
@[simp] theorem State.count_fabActive (s : State) (blk pos n : Nat) : (s.count blk pos n).fabActive = s.fabActive := by
  unfold State.count; dsimp only; split; rfl; split; rfl; split; rfl; simp
@[simp] theorem State.count_fabGen (s : State) (blk pos n : Nat) : (s.count blk pos n).fabGen = s.fabGen := by
  unfold State.count; dsimp only; split; rfl; split; rfl; split; rfl; simp
@[simp] theorem State.count_requests (s : State) (blk pos n : Nat) : (s.count blk pos n).requests = s.requests := by
  unfold State.count; dsimp only; split; rfl; split; rfl; split; rfl; simp
@[simp] theorem State.count_fw (s : State) (blk pos n : Nat) : (s.count blk pos n).fw = s.fw := by
  unfold State.count; dsimp only; split; rfl; split; rfl; split; rfl; simp
@[simp] theorem State.count_lanterns (s : State) (blk pos n : Nat) : (s.count blk pos n).lanterns = s.lanterns := by
  unfold State.count; dsimp only; split; rfl; split; rfl; split; rfl; simp
@[simp] theorem State.count_limits (s : State) (blk pos n : Nat) : (s.count blk pos n).limits = s.limits := by
  unfold State.count; dsimp only; split; rfl; split; rfl; split; rfl; simp
@[simp] theorem State.count_sensors (s : State) (blk pos n : Nat) : (s.count blk pos n).sensors = s.sensors := by
  unfold State.count; dsimp only; split; rfl; split; rfl; split; rfl; simp
@[simp] theorem State.count_vigil (s : State) (blk pos n : Nat) : (s.count blk pos n).vigil = s.vigil := by
  unfold State.count; dsimp only; split; rfl; split; rfl; split; rfl; simp
@[simp] theorem State.count_log (s : State) (blk pos n : Nat) : (s.count blk pos n).log = s.log := by
  unfold State.count; dsimp only; split; rfl; split; rfl; split; rfl; simp
@[simp] theorem State.count_mesh (s : State) (blk pos n : Nat) : (s.count blk pos n).mesh = s.mesh := by
  unfold State.count; dsimp only; split; rfl; split; rfl; split; rfl; simp
@[simp] theorem State.count_brims (s : State) (blk pos n : Nat) : (s.count blk pos n).brims = s.brims := by
  unfold State.count; dsimp only; split; rfl; split; rfl; split; rfl; simp
@[simp] theorem State.count_slots (s : State) (blk pos n : Nat) : (s.count blk pos n).slots = s.slots := by
  unfold State.count; dsimp only; split; rfl; split; rfl; split; rfl; simp
@[simp] theorem State.count_smb (s : State) (blk pos n : Nat) : (s.count blk pos n).smb = s.smb := by
  unfold State.count; dsimp only; split; rfl; split; rfl; split; rfl; simp
@[simp] theorem State.count_jtag (s : State) (blk pos n : Nat) : (s.count blk pos n).jtag = s.jtag := by
  unfold State.count; dsimp only; split; rfl; split; rfl; split; rfl; simp
@[simp] theorem State.count_get_bu (s : State) (blk pos n : Nat) (f1 c1 u1 : Nat) : (s.count blk pos n).bu f1 c1 u1 = s.bu f1 c1 u1 := by
  simp [State.bu]
@[simp] theorem State.count_get_core (s : State) (blk pos n : Nat) (f1 c1 : Nat) : (s.count blk pos n).core f1 c1 = s.core f1 c1 := by
  simp [State.core]
@[simp] theorem State.count_get_field (s : State) (blk pos n : Nat) (j : Nat) : (s.count blk pos n).field j = s.field j := by
  simp [State.field]
@[simp] theorem State.count_get_edge (s : State) (blk pos n : Nat) (j : Nat) : (s.count blk pos n).edge j = s.edge j := by
  simp [State.edge]
@[simp] theorem State.count_get_queue (s : State) (blk pos n : Nat) (j : Nat) : (s.count blk pos n).queue j = s.queue j := by
  simp [State.queue]
@[simp] theorem State.count_get_brim (s : State) (blk pos n : Nat) (j : Nat) : (s.count blk pos n).brim j = s.brim j := by
  simp [State.brim]
@[simp] theorem State.count_get_slot (s : State) (blk pos n : Nat) (j : Nat) : (s.count blk pos n).slot j = s.slot j := by
  simp [State.slot]
@[simp] theorem State.logFault_pending (s : State) (r : Rec) : (s.logFault r).pending = s.pending := by
  unfold State.logFault; dsimp only; (repeat' split) <;> simp
@[simp] theorem State.logFault_freeCtr (s : State) (r : Rec) : (s.logFault r).freeCtr = s.freeCtr := by
  unfold State.logFault; dsimp only; (repeat' split) <;> simp
@[simp] theorem State.logFault_mem (s : State) (r : Rec) : (s.logFault r).mem = s.mem := by
  unfold State.logFault; dsimp only; (repeat' split) <;> simp
@[simp] theorem State.logFault_bus (s : State) (r : Rec) : (s.logFault r).bus = s.bus := by
  unfold State.logFault; dsimp only; (repeat' split) <;> simp
@[simp] theorem State.logFault_cores (s : State) (r : Rec) : (s.logFault r).cores = s.cores := by
  unfold State.logFault; dsimp only; (repeat' split) <;> simp
@[simp] theorem State.logFault_fields (s : State) (r : Rec) : (s.logFault r).fields = s.fields := by
  unfold State.logFault; dsimp only; (repeat' split) <;> simp
@[simp] theorem State.logFault_edges (s : State) (r : Rec) : (s.logFault r).edges = s.edges := by
  unfold State.logFault; dsimp only; (repeat' split) <;> simp
@[simp] theorem State.logFault_winReqs (s : State) (r : Rec) : (s.logFault r).winReqs = s.winReqs := by
  unfold State.logFault; dsimp only; (repeat' split) <;> simp
@[simp] theorem State.logFault_reqNo (s : State) (r : Rec) : (s.logFault r).reqNo = s.reqNo := by
  unfold State.logFault; dsimp only; (repeat' split) <;> simp
@[simp] theorem State.logFault_owner (s : State) (r : Rec) : (s.logFault r).owner = s.owner := by
  unfold State.logFault; dsimp only; (repeat' split) <;> simp
@[simp] theorem State.logFault_queues (s : State) (r : Rec) : (s.logFault r).queues = s.queues := by
  unfold State.logFault; dsimp only; (repeat' split) <;> simp
@[simp] theorem State.logFault_msgs (s : State) (r : Rec) : (s.logFault r).msgs = s.msgs := by
  unfold State.logFault; dsimp only; (repeat' split) <;> simp
@[simp] theorem State.logFault_plans (s : State) (r : Rec) : (s.logFault r).plans = s.plans := by
  unfold State.logFault; dsimp only; (repeat' split) <;> simp
@[simp] theorem State.logFault_planGens (s : State) (r : Rec) : (s.logFault r).planGens = s.planGens := by
  unfold State.logFault; dsimp only; (repeat' split) <;> simp
@[simp] theorem State.logFault_jobs (s : State) (r : Rec) : (s.logFault r).jobs = s.jobs := by
  unfold State.logFault; dsimp only; (repeat' split) <;> simp
@[simp] theorem State.logFault_streams (s : State) (r : Rec) : (s.logFault r).streams = s.streams := by
  unfold State.logFault; dsimp only; (repeat' split) <;> simp
@[simp] theorem State.logFault_streamGens (s : State) (r : Rec) : (s.logFault r).streamGens = s.streamGens := by
  unfold State.logFault; dsimp only; (repeat' split) <;> simp
@[simp] theorem State.logFault_staged (s : State) (r : Rec) : (s.logFault r).staged = s.staged := by
  unfold State.logFault; dsimp only; (repeat' split) <;> simp
@[simp] theorem State.logFault_active (s : State) (r : Rec) : (s.logFault r).active = s.active := by
  unfold State.logFault; dsimp only; (repeat' split) <;> simp
@[simp] theorem State.logFault_record (s : State) (r : Rec) : (s.logFault r).record = s.record := by
  unfold State.logFault; dsimp only; (repeat' split) <;> simp
@[simp] theorem State.logFault_cfgGens (s : State) (r : Rec) : (s.logFault r).cfgGens = s.cfgGens := by
  unfold State.logFault; dsimp only; (repeat' split) <;> simp
@[simp] theorem State.logFault_fabStaged (s : State) (r : Rec) : (s.logFault r).fabStaged = s.fabStaged := by
  unfold State.logFault; dsimp only; (repeat' split) <;> simp
@[simp] theorem State.logFault_fabActive (s : State) (r : Rec) : (s.logFault r).fabActive = s.fabActive := by
  unfold State.logFault; dsimp only; (repeat' split) <;> simp
@[simp] theorem State.logFault_fabGen (s : State) (r : Rec) : (s.logFault r).fabGen = s.fabGen := by
  unfold State.logFault; dsimp only; (repeat' split) <;> simp
@[simp] theorem State.logFault_requests (s : State) (r : Rec) : (s.logFault r).requests = s.requests := by
  unfold State.logFault; dsimp only; (repeat' split) <;> simp
@[simp] theorem State.logFault_fw (s : State) (r : Rec) : (s.logFault r).fw = s.fw := by
  unfold State.logFault; dsimp only; (repeat' split) <;> simp
@[simp] theorem State.logFault_lanterns (s : State) (r : Rec) : (s.logFault r).lanterns = s.lanterns := by
  unfold State.logFault; dsimp only; (repeat' split) <;> simp
@[simp] theorem State.logFault_limits (s : State) (r : Rec) : (s.logFault r).limits = s.limits := by
  unfold State.logFault; dsimp only; (repeat' split) <;> simp
@[simp] theorem State.logFault_sensors (s : State) (r : Rec) : (s.logFault r).sensors = s.sensors := by
  unfold State.logFault; dsimp only; (repeat' split) <;> simp
@[simp] theorem State.logFault_vigil (s : State) (r : Rec) : (s.logFault r).vigil = s.vigil := by
  unfold State.logFault; dsimp only; (repeat' split) <;> simp
@[simp] theorem State.logFault_mesh (s : State) (r : Rec) : (s.logFault r).mesh = s.mesh := by
  unfold State.logFault; dsimp only; (repeat' split) <;> simp
@[simp] theorem State.logFault_brims (s : State) (r : Rec) : (s.logFault r).brims = s.brims := by
  unfold State.logFault; dsimp only; (repeat' split) <;> simp
@[simp] theorem State.logFault_slots (s : State) (r : Rec) : (s.logFault r).slots = s.slots := by
  unfold State.logFault; dsimp only; (repeat' split) <;> simp
@[simp] theorem State.logFault_smb (s : State) (r : Rec) : (s.logFault r).smb = s.smb := by
  unfold State.logFault; dsimp only; (repeat' split) <;> simp
@[simp] theorem State.logFault_jtag (s : State) (r : Rec) : (s.logFault r).jtag = s.jtag := by
  unfold State.logFault; dsimp only; (repeat' split) <;> simp
@[simp] theorem State.logFault_get_bu (s : State) (r : Rec) (f1 c1 u1 : Nat) : (s.logFault r).bu f1 c1 u1 = s.bu f1 c1 u1 := by
  simp [State.bu]
@[simp] theorem State.logFault_get_core (s : State) (r : Rec) (f1 c1 : Nat) : (s.logFault r).core f1 c1 = s.core f1 c1 := by
  simp [State.core]
@[simp] theorem State.logFault_get_field (s : State) (r : Rec) (j : Nat) : (s.logFault r).field j = s.field j := by
  simp [State.field]
@[simp] theorem State.logFault_get_edge (s : State) (r : Rec) (j : Nat) : (s.logFault r).edge j = s.edge j := by
  simp [State.edge]
@[simp] theorem State.logFault_get_queue (s : State) (r : Rec) (j : Nat) : (s.logFault r).queue j = s.queue j := by
  simp [State.queue]
@[simp] theorem State.logFault_get_brim (s : State) (r : Rec) (j : Nat) : (s.logFault r).brim j = s.brim j := by
  simp [State.brim]
@[simp] theorem State.logFault_get_slot (s : State) (r : Rec) (j : Nat) : (s.logFault r).slot j = s.slot j := by
  simp [State.slot]
@[simp] theorem State.countCorrected_pending (s : State) (blk pos : Nat) : (s.countCorrected blk pos).pending = s.pending := by
  unfold State.countCorrected; dsimp only; split <;> simp
@[simp] theorem State.countCorrected_freeCtr (s : State) (blk pos : Nat) : (s.countCorrected blk pos).freeCtr = s.freeCtr := by
  unfold State.countCorrected; dsimp only; split <;> simp
@[simp] theorem State.countCorrected_mem (s : State) (blk pos : Nat) : (s.countCorrected blk pos).mem = s.mem := by
  unfold State.countCorrected; dsimp only; split <;> simp
@[simp] theorem State.countCorrected_bus (s : State) (blk pos : Nat) : (s.countCorrected blk pos).bus = s.bus := by
  unfold State.countCorrected; dsimp only; split <;> simp
@[simp] theorem State.countCorrected_cores (s : State) (blk pos : Nat) : (s.countCorrected blk pos).cores = s.cores := by
  unfold State.countCorrected; dsimp only; split <;> simp
@[simp] theorem State.countCorrected_fields (s : State) (blk pos : Nat) : (s.countCorrected blk pos).fields = s.fields := by
  unfold State.countCorrected; dsimp only; split <;> simp
@[simp] theorem State.countCorrected_edges (s : State) (blk pos : Nat) : (s.countCorrected blk pos).edges = s.edges := by
  unfold State.countCorrected; dsimp only; split <;> simp
@[simp] theorem State.countCorrected_winReqs (s : State) (blk pos : Nat) : (s.countCorrected blk pos).winReqs = s.winReqs := by
  unfold State.countCorrected; dsimp only; split <;> simp
@[simp] theorem State.countCorrected_reqNo (s : State) (blk pos : Nat) : (s.countCorrected blk pos).reqNo = s.reqNo := by
  unfold State.countCorrected; dsimp only; split <;> simp
@[simp] theorem State.countCorrected_owner (s : State) (blk pos : Nat) : (s.countCorrected blk pos).owner = s.owner := by
  unfold State.countCorrected; dsimp only; split <;> simp
@[simp] theorem State.countCorrected_queues (s : State) (blk pos : Nat) : (s.countCorrected blk pos).queues = s.queues := by
  unfold State.countCorrected; dsimp only; split <;> simp
@[simp] theorem State.countCorrected_msgs (s : State) (blk pos : Nat) : (s.countCorrected blk pos).msgs = s.msgs := by
  unfold State.countCorrected; dsimp only; split <;> simp
@[simp] theorem State.countCorrected_plans (s : State) (blk pos : Nat) : (s.countCorrected blk pos).plans = s.plans := by
  unfold State.countCorrected; dsimp only; split <;> simp
@[simp] theorem State.countCorrected_planGens (s : State) (blk pos : Nat) : (s.countCorrected blk pos).planGens = s.planGens := by
  unfold State.countCorrected; dsimp only; split <;> simp
@[simp] theorem State.countCorrected_jobs (s : State) (blk pos : Nat) : (s.countCorrected blk pos).jobs = s.jobs := by
  unfold State.countCorrected; dsimp only; split <;> simp
@[simp] theorem State.countCorrected_streams (s : State) (blk pos : Nat) : (s.countCorrected blk pos).streams = s.streams := by
  unfold State.countCorrected; dsimp only; split <;> simp
@[simp] theorem State.countCorrected_streamGens (s : State) (blk pos : Nat) : (s.countCorrected blk pos).streamGens = s.streamGens := by
  unfold State.countCorrected; dsimp only; split <;> simp
@[simp] theorem State.countCorrected_staged (s : State) (blk pos : Nat) : (s.countCorrected blk pos).staged = s.staged := by
  unfold State.countCorrected; dsimp only; split <;> simp
@[simp] theorem State.countCorrected_active (s : State) (blk pos : Nat) : (s.countCorrected blk pos).active = s.active := by
  unfold State.countCorrected; dsimp only; split <;> simp
@[simp] theorem State.countCorrected_record (s : State) (blk pos : Nat) : (s.countCorrected blk pos).record = s.record := by
  unfold State.countCorrected; dsimp only; split <;> simp
@[simp] theorem State.countCorrected_cfgGens (s : State) (blk pos : Nat) : (s.countCorrected blk pos).cfgGens = s.cfgGens := by
  unfold State.countCorrected; dsimp only; split <;> simp
@[simp] theorem State.countCorrected_fabStaged (s : State) (blk pos : Nat) : (s.countCorrected blk pos).fabStaged = s.fabStaged := by
  unfold State.countCorrected; dsimp only; split <;> simp
@[simp] theorem State.countCorrected_fabActive (s : State) (blk pos : Nat) : (s.countCorrected blk pos).fabActive = s.fabActive := by
  unfold State.countCorrected; dsimp only; split <;> simp
@[simp] theorem State.countCorrected_fabGen (s : State) (blk pos : Nat) : (s.countCorrected blk pos).fabGen = s.fabGen := by
  unfold State.countCorrected; dsimp only; split <;> simp
@[simp] theorem State.countCorrected_requests (s : State) (blk pos : Nat) : (s.countCorrected blk pos).requests = s.requests := by
  unfold State.countCorrected; dsimp only; split <;> simp
@[simp] theorem State.countCorrected_fw (s : State) (blk pos : Nat) : (s.countCorrected blk pos).fw = s.fw := by
  unfold State.countCorrected; dsimp only; split <;> simp
@[simp] theorem State.countCorrected_lanterns (s : State) (blk pos : Nat) : (s.countCorrected blk pos).lanterns = s.lanterns := by
  unfold State.countCorrected; dsimp only; split <;> simp
@[simp] theorem State.countCorrected_limits (s : State) (blk pos : Nat) : (s.countCorrected blk pos).limits = s.limits := by
  unfold State.countCorrected; dsimp only; split <;> simp
@[simp] theorem State.countCorrected_sensors (s : State) (blk pos : Nat) : (s.countCorrected blk pos).sensors = s.sensors := by
  unfold State.countCorrected; dsimp only; split <;> simp
@[simp] theorem State.countCorrected_vigil (s : State) (blk pos : Nat) : (s.countCorrected blk pos).vigil = s.vigil := by
  unfold State.countCorrected; dsimp only; split <;> simp
@[simp] theorem State.countCorrected_mesh (s : State) (blk pos : Nat) : (s.countCorrected blk pos).mesh = s.mesh := by
  unfold State.countCorrected; dsimp only; split <;> simp
@[simp] theorem State.countCorrected_brims (s : State) (blk pos : Nat) : (s.countCorrected blk pos).brims = s.brims := by
  unfold State.countCorrected; dsimp only; split <;> simp
@[simp] theorem State.countCorrected_slots (s : State) (blk pos : Nat) : (s.countCorrected blk pos).slots = s.slots := by
  unfold State.countCorrected; dsimp only; split <;> simp
@[simp] theorem State.countCorrected_smb (s : State) (blk pos : Nat) : (s.countCorrected blk pos).smb = s.smb := by
  unfold State.countCorrected; dsimp only; split <;> simp
@[simp] theorem State.countCorrected_jtag (s : State) (blk pos : Nat) : (s.countCorrected blk pos).jtag = s.jtag := by
  unfold State.countCorrected; dsimp only; split <;> simp
@[simp] theorem State.countCorrected_get_bu (s : State) (blk pos : Nat) (f1 c1 u1 : Nat) : (s.countCorrected blk pos).bu f1 c1 u1 = s.bu f1 c1 u1 := by
  simp [State.bu]
@[simp] theorem State.countCorrected_get_core (s : State) (blk pos : Nat) (f1 c1 : Nat) : (s.countCorrected blk pos).core f1 c1 = s.core f1 c1 := by
  simp [State.core]
@[simp] theorem State.countCorrected_get_field (s : State) (blk pos : Nat) (j : Nat) : (s.countCorrected blk pos).field j = s.field j := by
  simp [State.field]
@[simp] theorem State.countCorrected_get_edge (s : State) (blk pos : Nat) (j : Nat) : (s.countCorrected blk pos).edge j = s.edge j := by
  simp [State.edge]
@[simp] theorem State.countCorrected_get_queue (s : State) (blk pos : Nat) (j : Nat) : (s.countCorrected blk pos).queue j = s.queue j := by
  simp [State.queue]
@[simp] theorem State.countCorrected_get_brim (s : State) (blk pos : Nat) (j : Nat) : (s.countCorrected blk pos).brim j = s.brim j := by
  simp [State.brim]
@[simp] theorem State.countCorrected_get_slot (s : State) (blk pos : Nat) (j : Nat) : (s.countCorrected blk pos).slot j = s.slot j := by
  simp [State.slot]

end Sys2Proof.Machine
end

