-- ==== Sys2Proof/Laws/Shared.lean ====
section
/-! SUPPORT. What the shared operations can do, said once: the form of a command, a message and its completion, a word read and
written. -/

namespace Sys2Proof.Machine

/-! ### The form of a command -/

theorem onPart_next {ps : List Part} {ok : Bool} {s t : State} {f : State → State} :
    onPart ps ok s f = .next t ↔ ok = true ∧ t = s.within ps (f s) := by
  unfold onPart; cases ok
  · simp
  · simp [eq_comm]

/-- A command completes where its operands are well formed, and leaves the queue. -/
theorem onPart_completes (ps : List Part) {ok : Bool} (s : State) (f : State → State) :
    (ok = true → ∃ t, onPart ps ok s f = .next t ∧ t.pending = s.pending) ∧
    (ok = false → onPart ps ok s f = .fault .noSuchPart) :=
  ⟨fun h => ⟨_, onPart_next.2 ⟨h, rfl⟩, State.within_pending s _ ps⟩, fun h => by subst h; rfl⟩

theorem onUnit_next {ps : List Part} {ok : Bool} {s t : State} {f : State → State} :
    onUnit ps ok s f = .next t ↔ ok = true ∧ t = s.within ([.out, .ports, .vigil] ++ ps) (s.noteState (f s)) := onPart_next

theorem onUnit_completes (ps : List Part) {ok : Bool} (s : State) (f : State → State) :
    (ok = true → ∃ t, onUnit ps ok s f = .next t ∧ t.pending = s.pending) ∧
    (ok = false → onUnit ps ok s f = .fault .noSuchPart) := onPart_completes _ s _

theorem onMsg_next {op : Nat} {ps : List Part} {id : MsgId} {body : Msg → State → State} {s t : State} :
    onMsg op ps id body s = .next t ↔
      id.src ≤ 1024 ∧ t = s.within ([.out, .ports, .vigil] ++ (finishParts ++ ps)) (s.noteState (s.onMessage id op body)) := by
  unfold onMsg; rw [onUnit_next]; simp [msgIdOk]

theorem onMsg_completes (op : Nat) (ps : List Part) (id : MsgId) (body : Msg → State → State) (s : State) :
    (msgIdOk id = true → ∃ t, onMsg op ps id body s = .next t ∧ t.pending = s.pending) ∧
    (msgIdOk id = false → onMsg op ps id body s = .fault .noSuchPart) := onUnit_completes _ s _

/-- A row with a self-test outcome and a message. -/
theorem onTestedMsg_completes (ok : Bool) (op : Nat) (ps : List Part) (id : MsgId) (body : Msg → State → State) (s : State) :
    let o := if ok then onMsg op ps id body s else .fault .noSuchPart
    ((ok && msgIdOk id) = true → ∃ t, o = .next t ∧ t.pending = s.pending) ∧
    ((ok && msgIdOk id) = false → o = .fault .noSuchPart) := by
  cases ok
  · simp
  · exact onMsg_completes op ps id body s

/-- A part that a command does not list stays. -/
theorem onPart_mem {ps : List Part} {ok : Bool} {s t : State} {f : State → State} (h : onPart ps ok s f = .next t) :
    t.mem = if Part.mem ∈ ps then (f s).mem else s.mem := by
  rw [onPart_next] at h; rw [h.2, State.within_mem]

/-! ### Messages (R283, R292, R301) -/

/-- A message that is there, may be applied and passes the shared checks has its row's effect. -/
theorem State.onMessage_apply {s : State} {id : MsgId} {op : Nat} {body : Msg → State → State} {m : Msg} {x : MsgSpec}
    (hm : s.msg id = some m) (hx : msgSpec op = some x) (ho : sqOp m.entry = op) (ha : s.mayApply m = true)
    (hs : s.sharedStatus m x = stOK) : s.onMessage id op body = body m s := by
  simp [State.onMessage, hm, hx, ho, ha, hs]

/-- One that fails a shared check completes with that status and has no other effect. -/
theorem State.onMessage_refuse {s : State} {id : MsgId} {op : Nat} {body : Msg → State → State} {m : Msg} {x : MsgSpec}
    (hm : s.msg id = some m) (hx : msgSpec op = some x) (ho : sqOp m.entry = op) (ha : s.mayApply m = true)
    (hs : s.sharedStatus m x ≠ stOK) : s.onMessage id op body = s.finish m (s.sharedStatus m x) [] := by
  simp [State.onMessage, hm, hx, ho, ha, hs]

/-- A message that is not there has no effect. -/
theorem State.onMessage_none {s : State} {id : MsgId} {op : Nat} {body : Msg → State → State} (hm : s.msg id = none) :
    s.onMessage id op body = s := by
  simp [State.onMessage, hm]

/-! ### Stored words (R75 to R77, R420) -/

theorem Stored.judge_clean {x : Stored} (hp : x.poison = false) (hd : x.data = x.good) : x.judge = (.clean, x.data) := by
  simp [Stored.judge, hp, hd]

theorem Stored.judge_poisoned {x : Stored} (hp : x.poison = true) : x.judge = (.poisoned, x.data) := by
  simp [Stored.judge, hp]

/-- A clean word reads as stored, and its read changes nothing. -/
theorem State.readWord_clean {s : State} {a : Nat} {who : Who} (hp : (s.mem.get a).poison = false)
    (hd : (s.mem.get a).data = (s.mem.get a).good) : s.readWord a who = (s, (s.mem.get a).data, false) := by
  simp only [State.readWord, Stored.judge_clean hp hd]

/-- So do clean words in a row. -/
theorem State.readWords_clean {s : State} {a : Nat} {who : Who} {n : Nat}
    (h : ∀ k < n, (s.mem.get (a + k)).poison = false ∧ (s.mem.get (a + k)).data = (s.mem.get (a + k)).good) :
    s.readWords a who n = (s, (List.range n).map fun k => ((s.mem.get (a + k)).data, false)) := by
  induction n generalizing a with
  | zero => rfl
  | succ n ih =>
    have h0 : (s.mem.get a).poison = false ∧ (s.mem.get a).data = (s.mem.get a).good := h 0 (Nat.succ_pos n)
    have hr := State.readWord_clean (who := who) h0.1 h0.2
    have he (k : Nat) : a + 1 + k = a + (k + 1) := by omega
    have := ih (a := a + 1) (fun k hk => by rw [he]; exact h (k + 1) (by omega))
    simp only [State.readWords]
    rw [hr]; dsimp only; rw [this]
    simp [List.range_succ_eq_map, Function.comp, he]

theorem State.writeWord_get (s : State) (a b : Nat) (w : Word) (p : Bool) :
    (s.writeWord a w p).mem.get b = if b = a then { data := w, good := w, poison := p } else s.mem.get b := by
  simp only [State.writeWord]; split
  · rename_i h; rw [h]; exact Memory.get_set_same _ _ _
  · rename_i h; exact Memory.get_set_ne _ _ h

/-- Consecutive words written: each in its place, and every other word of memory unchanged. -/
theorem State.writeWords_get (s : State) (a b : Nat) (ws : List (Word × Bool)) :
    (s.writeWords a ws).mem.get b =
      if a ≤ b then (match ws[b - a]? with | some w => { data := w.1, good := w.1, poison := w.2 } | none => s.mem.get b)
      else s.mem.get b := by
  induction ws generalizing s a with
  | nil => simp [State.writeWords]
  | cons w ws ih =>
    obtain ⟨w, p⟩ := w
    rw [State.writeWords, ih, State.writeWord_get]
    by_cases h1 : a + 1 ≤ b
    · have : b - a = (b - (a + 1)) + 1 := by omega
      rw [if_pos h1, if_neg (show b ≠ a by omega), if_pos (show a ≤ b by omega), this, List.getElem?_cons_succ]
    · rw [if_neg h1]
      by_cases h2 : b = a
      · subst h2; simp
      · rw [if_neg h2, if_neg (by omega)]

/-! ### The canonical form of memory -/

theorem State.fillMem_wf (s : State) (r : Region) (h : s.mem.wf = true) : (s.fillMem r).mem.wf = true := Memory.fill_wf _ _ h

theorem State.writeWord_wf (s : State) (a : Nat) (w : Word) (p : Bool) (h : s.mem.wf = true) : (s.writeWord a w p).mem.wf = true :=
  Memory.set_wf _ _ _ h

theorem State.writeWords_wf (s : State) (a : Nat) (ws : List (Word × Bool)) (h : s.mem.wf = true) : (s.writeWords a ws).mem.wf = true := by
  induction ws generalizing s a with
  | nil => exact h
  | cons w ws ih => exact ih _ _ (State.writeWord_wf s a w.1 w.2 h)

theorem State.setBankRow_wf (s : State) (f c u row : Nat) (d : RowData) (h : s.mem.wf = true) : (s.setBankRow f c u row d).mem.wf = true :=
  State.writeWords_wf _ _ _ h

/-- What a read of a word makes of memory: as it was, or that word rewritten. -/
theorem State.readWord_mem (s : State) (a : Nat) (who : Who) :
    (s.readWord a who).1.mem = s.mem ∨ ∃ v, (s.readWord a who).1.mem = s.mem.set a v := by
  unfold State.readWord; dsimp only
  generalize (s.mem.get a).judge = j
  obtain ⟨k, w⟩ := j
  cases k <;> dsimp only
  · exact .inl rfl
  · left; cases placeOf a <;> dsimp only <;> exact State.count_mem _ _ _ _
  · cases placeOf a <;> dsimp only
    · left; rw [State.updBu, State.setBu_mem]; exact State.countCorrected_mem _ _ _
    · exact .inr ⟨_, rfl⟩
    · left; exact State.countCorrected_mem _ _ _
    · exact .inl rfl
  · right
    refine ⟨{ s.mem.get a with poison := true }, ?_⟩
    rw [State.logFault_mem]
    cases placeOf a <;> dsimp only
    · rw [State.updBu, State.setBu_mem, State.count_mem]
    · rw [State.count_mem]
    · rw [State.count_mem]

theorem State.readWord_wf (s : State) (a : Nat) (who : Who) (h : s.mem.wf = true) : (s.readWord a who).1.mem.wf = true := by
  rcases State.readWord_mem s a who with e | ⟨v, e⟩
  · rw [e]; exact h
  · rw [e]; exact Memory.set_wf _ _ _ h

theorem State.readWords_wf (s : State) (a : Nat) (who : Who) (n : Nat) (h : s.mem.wf = true) : (s.readWords a who n).1.mem.wf = true := by
  induction n generalizing s a with
  | zero => exact h
  | succ n ih => exact ih _ _ (State.readWord_wf s a who h)

theorem State.bankRow_wf (s : State) (f c u row : Nat) (who : Who) (h : s.mem.wf = true) : (s.bankRow f c u row who).1.mem.wf = true := by
  simp only [State.bankRow]; exact State.readWords_wf s (rowAddr f c u row) who 8 h

theorem State.comWords_wf (s : State) (f off n : Nat) (who : Who) (h : s.mem.wf = true) : (s.comWords f off n who).1.mem.wf = true := by
  simp only [State.comWords]; exact State.readWords_wf s (commonsAddr f + off / 8) who n h

/-- Counting a refused partial write leaves memory. -/
theorem State.refuse_mem (t : State) (a : Nat) : (match placeOf a with
    | .bank f _ _ _ _ => t.count (fieldBlock f) 8 1
    | .commons f _ => t.count (fieldBlock f) 8 1
    | _ => t).mem = t.mem := by cases placeOf a <;> simp

theorem State.mergeRead_wf (s : State) (a : Nat) (bs : List (Option Byte)) (ep was : Bool) (r : Word × Bool) (h : s.mem.wf = true) :
    (s.mergeRead a bs ep was r).mem.wf = true := by
  unfold State.mergeRead
  by_cases h1 : r.2 = true
  · rw [if_pos h1]; cases was
    · exact (congrArg Memory.wf (State.refuse_mem _ a)).trans h
    · exact (congrArg Memory.wf (State.refuse_mem _ a)).trans (by rw [if_pos rfl, State.logFault_mem]; exact h)
  · rw [if_neg h1]; exact State.writeWord_wf _ _ _ _ h

theorem State.mergeWord_wf (s : State) (a : Nat) (bs : List (Option Byte)) (ep : Bool) (h : s.mem.wf = true) :
    (s.mergeWord a bs ep).mem.wf = true := by
  unfold State.mergeWord; dsimp only
  split
  · exact h
  split
  · exact State.writeWord_wf _ _ _ _ h
  · exact State.mergeRead_wf _ _ _ _ _ _ (State.readWord_wf s a _ h)

/-- A fold whose every step keeps the form keeps it. -/
theorem State.foldl_wf {α : Type} {g : State → α → State} (hg : ∀ s x, s.mem.wf = true → (g s x).mem.wf = true) (l : List α) (s : State)
    (h : s.mem.wf = true) : (l.foldl g s).mem.wf = true := by
  induction l generalizing s with
  | nil => exact h
  | cons x l ih => exact ih _ (hg s x h)

theorem State.writeBytes_wf (s : State) (a byte : Nat) (bs : List (Option Byte)) (ep : Bool) (h : s.mem.wf = true) :
    (s.writeBytes a byte bs ep).mem.wf = true := State.foldl_wf (fun _ _ h => State.mergeWord_wf _ _ _ _ h) _ _ h

theorem State.readRowBytes_wf (s : State) (a byte len : Nat) (who : Who) (h : s.mem.wf = true) :
    (s.readRowBytes a byte len who).1.mem.wf = true := by
  simp only [State.readRowBytes]; exact State.readWords_wf s a who 8 h

theorem State.writeRowBytes_wf (s : State) (a byte : Nat) (bs : List (Option Byte)) (ep : Bool) (h : s.mem.wf = true) :
    (s.writeRowBytes a byte bs ep).mem.wf = true := by
  unfold State.writeRowBytes; dsimp only
  split
  · exact State.writeBytes_wf _ _ _ _ _ h
  · refine State.foldl_wf (fun s p hs => ?_) _ _ (State.readWords_wf s a _ 8 h)
    split
    · exact hs
    split
    · exact State.writeWord_wf _ _ _ _ hs
    · exact State.mergeRead_wf _ _ _ _ _ _ hs

theorem State.readNext_wf {a : Nat} {who : Who} (r : State × List (Word × Bool) × Bool) (i : Nat) (h : r.1.mem.wf = true) :
    (State.readNext a who r i).1.mem.wf = true := by
  unfold State.readNext; dsimp only
  split
  · exact Memory.set_wf _ _ _ h
  · exact State.readWord_wf _ _ _ h

theorem State.readLine_wf (s : State) (a : Nat) (who : Who) (h : s.mem.wf = true) : (s.readLine a who).1.mem.wf = true := by
  have hs : ∀ (l : List Nat) (r : State × List (Word × Bool) × Bool), r.1.mem.wf = true →
      (l.foldl (State.readNext a who) r).1.mem.wf = true := fun l => by
    induction l with
    | nil => exact fun _ h => h
    | cons i l ih => exact fun r h => ih _ (State.readNext_wf r i h)
  simp only [State.readLine]; exact hs (List.range 8) (s, [], false) h

end Sys2Proof.Machine
end

