-- ==== Sys2Proof/Machine/Outside.lean ====
section
/-! DEFINITION. What the unit shows outside beside its commands' answers: the indicator outputs (R454), SMBALERT_L (R456), the bound of
its input power (R396), the contacts of its connectors (R451 to R453) and of its boundary register (R459), and the configuration identity of
its ports (R327). -/

namespace Sys2Proof.Machine

/-- What an indicator does (Table 19-6): dark, lit, lit and dark by turns at a frequency in Hz, lit 100 ms of every 4 s, or dark 100 ms of
every second. -/
inductive Lamp where
  | dark
  | lit
  | hertz (n : Nat)
  | flash
  | wink
deriving DecidableEq, Repr

/-- IND_STATUS. -/
def State.indStatus (s : State) : Lamp :=
  match s.stateCode with
  | 1 => .flash
  | 2 => .hertz 4
  | 3 => .hertz 1
  | 4 => .lit
  | 5 => .wink
  | _ => .dark

/-- IND_FAULT. -/
def State.indFault (s : State) : Lamp :=
  if s.vigil.phase = .off then .dark
  else if s.vigil.faulted then .lit
  else if s.sensors.leak then .hertz 4
  else if s.vigil.degraded then .hertz 1
  else .dark

/-- IND_REPLACE. -/
def State.indReplace (s : State) : Lamp := if s.vigil.phase ≠ .off && s.vigil.replace then .lit else .dark

/-- IND_LINK: lit while every brim link that no source disables is ACTIVE. -/
def State.indLink (s : State) : Lamp :=
  if s.vigil.phase = .off then .dark
  else if (List.range 64).all fun l => s.linkOff l || (s.brim l).st = .active then .lit
  else .hertz 1

/-- IND_PORT of a port. DEDUCED: its data link is up outside OFF, since a command that takes it down is a whole reset of the port (log
entry 111). -/
def State.indPort (s : State) (_p : Nat) : Lamp := if s.vigil.phase = .off then .dark else .lit

/-- R456: SMBALERT_L is asserted while a completion waits to be read. -/
def State.alertLow (s : State) : Bool := s.vigil.phase ≠ .off && !s.smb.completions.isEmpty

/-- R456: what the endpoint answers at the Alert Response Address: its own address, while SMBALERT_L is asserted. -/
def State.alertResponse (s : State) : Option Nat := if s.alertLow then some 0x4C else none

/-- Table 16-9: the input power in watts that the unit draws at most. HELD and READY have a typical figure alone, so the unit's maximum. -/
def State.powerBound (s : State) : Nat :=
  match s.stateCode with
  | 0 => 0
  | 1 => 40
  | 2 => 1500
  | 5 => min 24000 (900 + s.effPool + 3100)
  | _ => 24000

/-- The connectors of Table 19-3 that carry signals: a host port's, the one of the brim link segment at a place of linkSegments, a bulk
slot's, and J40. -/
inductive Connector where
  | host (p : Nat)
  | brim (i : Nat)
  | bulk (m : Nat)
  | management
deriving DecidableEq, Repr

/-- A contact: its connector, its row (0 to 2 for A to C, 0 on J40) and its number. -/
structure Contact where
  on : Connector
  row : Nat := 2
  number : Nat
deriving DecidableEq, Repr

/-- R452: the contacts of lane position `n` in row A, for TX, or B, for RX: P and N, between two grounds. -/
def laneContacts (on : Connector) (row n : Nat) : List Contact := (List.range 4).map fun i => { on, row, number := 4 * n + 1 + i }

/-- Table 19-4, R23: the lane position of a lane of a host port, of a brim link, of a bulk slot. -/
def hostLane (p lane : Nat) : Connector × Nat := (.host p, lane)
def brimLane (l lane : Nat) : Connector × Nat := (.brim (l / 4), 8 * (l % 4) + lane)
def bulkLane (m lane : Nat) : Connector × Nat := (.bulk m, lane)

/-- R459: the contacts of the boundary register's cells, from TDI to TDO. -/
def boundaryContacts : List Contact :=
  ([2, 3, 4, 12, 13, 14, 15, 16, 17].map fun n => { on := .management, row := 0, number := n }) ++
  ((List.range 4).flatMap fun p => [{ on := .host p, number := 5 }, { on := .host p, number := 6 }]) ++
  ((List.range 16).flatMap fun i => (List.range 4).map fun n => { on := .brim i, number := n + 1 }) ++
  (List.range 16).map fun m => { on := .bulk m, number := 10 }

/-- Table 14-1. -/
structure Identity where
  vendor : Nat := 0x1F7E
  device : Nat := 0x3106
  revision : Nat := 0xB0
  classCode : Nat := 0x120000
  subVendor : Nat := 0x1F7E
  subsystem : Nat := 0x3106
  /-- Bytes of the memory BARs; the other BARs and the expansion ROM are absent. -/
  bar0 : Nat := 2 ^ 22
  bar2 : Nat := 2 ^ 34
  interruptPin : Nat := 0
  serial : Word
deriving DecidableEq, Repr

/-- R327: the identity that every port presents, with the serial number of the unit. -/
def portIdentity : Identity := { serial := Config.serial }

end Sys2Proof.Machine
end

