-- ==== Sys2Proof/Tests/Slice0.lean ====
section
/-! SUPPORT. The model's own tests: a state and operands that meet the premises of each statement, terms that the checks of WellFormed
refuse, and worked values of the spec. -/

namespace Sys2Proof.Tests

open Sys2Proof.Machine Sys2Proof.Claims

-- one theorem after another: run together, their kernels would need a stack each
set_option Elab.async false


/-- What holds of the default and of every entry holds of every value. -/
theorem sparse_all {α : Type} (p : α → Prop) (d : α) (l : Sparse α) (k : Nat) (hd : p d) (h : ∀ q ∈ l, p q.2) : p (Sparse.get d l k) := by
  induction l with
  | nil => exact hd
  | cons q l ih =>
    simp only [Sparse.get, Sparse.find] at ih ⊢
    split
    · exact h q (List.mem_cons_self ..)
    · exact ih fun x hx => h x (List.mem_cons_of_mem _ hx)

/-! ### Bank units -/

/-- A word from an opcode and its fields, each a value and its lowest bit. -/
def ins (op : Nat) (fs : List (Nat × Nat)) : Word := mkWord op fs

/-- Words at the start of a row, the rest of it 0. -/
def rowCells (f c u row : Nat) (ws : List Nat) : Sparse Stored :=
  ws.zipIdx.map fun p => (rowAddr f c u row + p.2, { data := BitVec.ofNat 64 p.1, good := BitVec.ofNat 64 p.1 })

/-- A core at run whose FIFO holds one word of port 1 for BU 5, with that BU's state and words of its memory. -/
def front (w : Word) (b : Bu := {}) (cells : Sparse Stored := []) : State :=
  { State.reset with
    cores := [(0, { level := .run, fifo := [{ port := 1, bu := some 5, w }] })], bus := [(5, b)], mem := { cells } }

/-- A plane register whose 512 bits are those of a number. -/
def planeOf (i n : Nat) : Nat × Plane := (i, { bits := BitVec.ofNat 512 n })

/-- A group of 4 slots open in register 1 at base 2. -/
def open1 (pair msb sr : Bool) : Group := { isOpen := true, base := 2, count := 4, pair, msb, sr }

/-- A BU with a few planes, scalars and accumulator words, and a group. -/
def someBu (g : Group) : Bu :=
  { planes := [planeOf 1 0xF0F0, planeOf 2 0xFF00, planeOf 3 0xCCCC, (4, { bits := 0xAAAA, poison := 3 })]
    scalars := [(0, { val := 0xFFFE }), (1, { val := 0xFFF9 }), (3, { val := 7 })]
    acc := [(32, { data := 5, good := 5 }), (48, { data := 0x7FFFFFF0, good := 0x7FFFFFF0, sat := 1 })]
    groups := [(1, g)] }


/-! ### Passes -/

/-- A descriptor from its fields, each a value and its lowest bit. -/
def descOf (fs : List (Nat × Nat)) : Desc := fs.foldl (fun d p => d ||| (BitVec.ofNat 1024 p.1 <<< p.2)) 0

/-- A plan of queue pair 7 with one segment, resident in field 0: its rows from row 0, its commons from byte 4,096, its
completion records at 8,192 beyond that. -/
def plan0 (n : Nat := 1) : Plan :=
  { owner := 7, gen := 3, sealed := true, flags := 0, seed := 0, segs := [{ inLen := 16, outLen := 64, inField := 0, inOff := 0 }]
    fields := [{ field := 0, rowBase := 0, rows := 4096, comBase := 4096, comLen := 65536, done := 8192, passes := n,
                 cores := [(0, n)], segs := [[(0, n)]] }]
    addr := 0, len := 0 }

/-- A handle of a job of queue pair 7. -/
def job7 : Word := 0x0001000000070003

/-- A job on that plan. -/
def jobOf (st : JobState := .running) : Job :=
  { handle := job7, msg := some ⟨7, 0⟩, plan := 0, seg := 0, st, time := 0, rank := 7, left := 1 }

/-- A pass of it. -/
def passOf (d : Desc) : WinPass := { serial := 4, idx := 0, desc := d, job := job7, plan := 0 }

/-- Words of field 0's commons within the plan's window, each 64 bits, from a byte offset. -/
def comCells (off : Nat) (ws : List Nat) : Sparse Stored :=
  ws.zipIdx.map fun p => (commonsAddr 0 + (4096 + off) / 8 + p.2, { data := BitVec.ofNat 64 p.1, good := BitVec.ofNat 64 p.1 })

/-- Core 0 of field 0 at run with passes in its window, the plan and the job. -/
def atCore (ws : List WinPass) (cells : Sparse Stored := []) (b : Bu := {}) : State :=
  { State.reset with
    cores := [(0, { level := .run, window := ws, serials := 9 })], bus := [(5, b)], mem := { cells }, plans := [(0, plan0)]
    jobs := [jobOf], edges := [(0, { level := .run })] }

/-! ### Messages -/

/-- A submission entry: opcode, tag 0xABCD1234, and fields, each a value and its lowest bit. -/
def entryOf (op : Nat) (fs : List (Nat × Nat)) : Entry :=
  fs.foldl (fun e p => e ||| (BitVec.ofNat 512 p.1 <<< p.2)) (BitVec.ofNat 512 (op + 0xABCD1234 * 2 ^ 32))

/-- A fetched message of a queue pair, or of management (1,024). -/
def msgOf (src op : Nat) (fs : List (Nat × Nat) := []) (live : Bool := true) (applied : Bool := false) : Msg :=
  { id := ⟨src, 0⟩, time := 0, rank := src, entry := entryOf op fs, live, applied
    slots := if op = 0x0603 then 2 else if op = 0x0805 then 4 else 1 }

/-- The unit with one fetched message, and its queue pair created. -/
def atMsg (m : Msg) : State :=
  { State.reset with
    msgs := [m], queues := [(m.id.src, { st := .active, sqBase := 0x10000, cqBase := 0x20000, sqLog2 := 4, cqLog2 := 4, h := 1, t := 1 })] }
/-- The state that a command leaves; the state itself where it stops. -/
def ran (i : Instr) (s : State) : State := match exec i s with
  | .next t => t
  | _ => s

/-! ### Bank units: states that meet the premises -/

/-- Row 3 of BU 5, eight clean words. -/
def row3 : Sparse Stored := rowCells 0 0 5 3 [0x1111, 0x2222, 0xFFFFFFFFFFFFFFFF, 0x8000, 5, 6, 7, 0x7FFF80010001FFFF]

theorem front_meets (w : Word) (b : Bu) (m : Sparse Stored) : HostFront (front w b m) 0 0 5 w :=
  ⟨by decide, by decide, by decide, rfl, rfl, _, _, rfl, rfl, rfl⟩

theorem row3_clean (w : Word) (b : Bu) : rowClean (front w b row3) 0 0 5 3 := by
  have h : ∀ k < 8, (Memory.get { cells := row3 } (rowAddr 0 0 5 3 + k)).poison = false ∧
    (Memory.get { cells := row3 } (rowAddr 0 0 5 3 + k)).data = (Memory.get { cells := row3 } (rowAddr 0 0 5 3 + k)).good := by
    decide +kernel
  exact h

/-- A plane word on P2 and P3 into P1, in a row form, with its predicate on. -/
def planeWord (op rm : Nat) : Word := ins op [(1, 53), (2, 49), (3, 45), (rm, 43), (3, 31), (4, 27), (1, 26), (1, 24), (0x96, 16)]

theorem planeWord_fields : ∀ op ∈ [0x01, 0x02, 0x03, 0x04, 0x05, 0x06, 0x07, 0x08], ∀ rm < 4,
    insOp (planeWord op rm) = op ∧ insRm (planeWord op rm) = rm ∧ insRow (planeWord op rm) = 3 := by decide +kernel

/-- PlaneWordsCompute and PlaneWordsTest: each opcode in each row form. -/
theorem witness_PlaneWords : ∀ op ∈ [0x01, 0x02, 0x03, 0x04, 0x05, 0x06, 0x07, 0x08], ∀ rm < 4, let w := planeWord op rm
    HostFront (front w (someBu {}) row3) 0 0 5 w ∧ rowClean (front w (someBu {}) row3) 0 0 5 (insRow w) ∧ insOp w = op ∧ insRm w = rm :=
  fun op ho rm hr => let h := planeWord_fields op ho rm hr
    ⟨front_meets _ _ _, by rw [h.2.2]; exact row3_clean _ _, h.1, h.2.1⟩

/-- RowWordsWrite: ROWCP, and TBUILD over every lane and over enabled ones. -/
def rowcpWord : Word := ins 0x09 [(3, 31), (7, 19)]
def tbuildWord (lm : Nat) : Word := ins 0x16 [(3, 31), (1, 45), (2, 43), (2, 27), (lm, 16)]
theorem witness_RowWordsWrite : insOp rowcpWord = 0x09 ∧ insRow rowcpWord = 3 ∧ insDrow rowcpWord = 7 ∧
    (∀ lm < 2, insOp (tbuildWord lm) = 0x16 ∧ insRow (tbuildWord lm) = 3 ∧ insLm (tbuildWord lm) = decide (lm = 1)) ∧
    ∀ w b, HostFront (front w b row3) 0 0 5 w ∧ rowClean (front w b row3) 0 0 5 3 :=
  ⟨by decide +kernel, by decide +kernel, by decide +kernel, by decide +kernel, fun _ _ => ⟨front_meets _ _ _, row3_clean _ _⟩⟩

/-- A word of format B on group 1, slot 2, row 3. -/
def slotWordOf (op mode imm : Nat) : Word := ins op [(1, 54), (2, 48), (2, 45), (1, 43), (3, 31), (5, 23), (mode, 17), (imm, 0)]

theorem slot_meets (op mode imm : Nat) (pair : Bool) (hg : insGrpB (slotWordOf op mode imm) = 1)
    (hs : insSlot (slotWordOf op mode imm) = 2) (n : Nat) (hn : n ≤ 16) :
    SlotReady ((front (slotWordOf op mode imm) (someBu (open1 pair false false)) row3).bu 0 0 5) (slotWordOf op mode imm) n := by
  have h : ∀ q, ∀ l < 16, ((someBu (open1 q false false)).accWord (slotWord q ((open1 q false false).abs 2) l)).data =
    ((someBu (open1 q false false)).accWord (slotWord q ((open1 q false false).abs 2) l)).good := by decide +kernel
  refine ⟨?_, ?_, fun l hl => ?_⟩
  · rw [hg]; rfl
  · rw [hg, hs]; cases pair <;> exact (by decide : 2 < 4)
  · rw [hg, hs]; exact h pair l (Nat.lt_of_lt_of_le hl hn)

/-- LookupAccumulates, Mac16Accumulates (with a row, and a pure order step), PreloadAndSelect and PairPreloadAndSelect. -/
theorem witness_SlotWords : ∀ op ∈ [0x10, 0x12, 0x14, 0x15], ∀ mode ∈ [0, 1, 2, 3, 4], ∀ imm ∈ [0, 0x31], ∀ pair : Bool,
    let w := slotWordOf op mode imm
    let s := front w (someBu (open1 pair false false)) row3
    HostFront s 0 0 5 w ∧ insOp w = op ∧ insMode w = mode ∧ insImm16 w = imm ∧ insLm w = false ∧ rowClean s 0 0 5 (insRow w) ∧
    SlotReady (s.bu 0 0 5) w 16 ∧ insX w < 2 ^ insG w ∧ ((s.bu 0 0 5).group (insGrpB w)).pair = pair ∧ insSlot w % 2 = 0 ∧
    insSlot w + 1 < ((s.bu 0 0 5).group (insGrpB w)).count ∧ (s.bu 0 0 5).settled = 0 := by
  have h : ∀ op ∈ [0x10, 0x12, 0x14, 0x15], ∀ mode ∈ [0, 1, 2, 3, 4], ∀ imm ∈ [0, 0x31], let w := slotWordOf op mode imm
    insOp w = op ∧ insMode w = mode ∧ insImm16 w = imm ∧ insLm w = false ∧ insRow w = 3 ∧ insX w < 2 ^ insG w ∧ insGrpB w = 1 ∧
    insSlot w = 2 := by decide +kernel
  intro op ho mode hm imm hi pair
  obtain ⟨h1, h2, h3, h4, h5, h6, h7, h8⟩ := h op ho mode hm imm hi
  refine ⟨front_meets _ _ _, h1, h2, h3, h4, by rw [h5]; exact row3_clean _ _, slot_meets op mode imm pair h7 h8 16 (Nat.le_refl _), h6,
    ?_, by rw [h8], ?_, rfl⟩
  · rw [h7]; rfl
  · rw [h7, h8]; cases pair <;> exact (by decide : 3 < 4)

/-- ControlWordsAct: each opcode, with the group open or closed as its clause asks. -/
theorem witness_ControlWords :
    (∀ w b, HostFront (front w b []) 0 0 5 w) ∧ insOp (ins 0x00 []) = 0x00 ∧ insOp (ins 0x24 [(7, 52)]) = 0x24 ∧ insOp (ins 0x25 [(0, 52)]) = 0x25 ∧
    (insOp (ins 0x22 [(1, 55)]) = 0x22 ∧ ((someBu (open1 true false false)).group (insGrpC (ins 0x22 [(1, 55)]))).isOpen = true) ∧
    let w := ins 0x21 [(2, 55), (30, 0), (2, 5)]
    insOp w = 0x21 ∧ ((someBu (open1 true false false)).group (insGrpC w)).isOpen = false ∧
      ∀ k < 8, ((someBu (open1 true false false)).group k).isOpen = true → ((someBu (open1 true false false)).group k).base +
        (((someBu (open1 true false false)).group k).count + 1) / 2 ≤ goBase w := by
  refine ⟨fun _ _ => front_meets _ _ _, ?_⟩
  decide +kernel

/-- BroadcastIsEachBu: a broadcast SADD at the front. -/
theorem witness_BroadcastIsEachBu : let w := ins 0x25 [(1, 52), (7, 0)]
    let s := { front w with cores := [(0, { level := .run, fifo := [{ port := 1, bu := none, w }] })] }
    (Instr.sadd ⟨0, 0, none⟩ .host w).ok = true ∧ (s.core 0 0).level = .run ∧ (s.field 0).cmdEnding = false ∧
    (s.core 0 0).fifo = [{ port := 1, bu := none, w }] := ⟨by decide +kernel, rfl, rfl, rfl⟩

/-- InvalidWordDiscarded: a LOOKUP to a group that is not open. -/
theorem witness_InvalidWordDiscarded : let w := slotWordOf 0x10 0 0
    HostFront (front w) 0 0 5 w ∧ (Instr.lookup ⟨0, 0, some 5⟩ .host w).ok = true ∧ groupOk ((front w).bu 0 0 5) w = false :=
  ⟨front_meets _ _ _, by decide +kernel, by decide +kernel⟩

/-- CommandModeEnds: the last waiting word of a field whose command mode is ending. -/
theorem witness_CommandModeEnds : let s := { front 0 with fields := [(0, { cmdMode := some 7, cmdEnding := true })] }
    insOp 0 = 0x00 ∧ (s.core 0 0).level = .run ∧ (s.field 0).cmdEnding = true ∧
    (∃ q, (s.core 0 0).fifo = [q] ∧ q.bu = some 5 ∧ q.w = 0) ∧ ∀ d < 8, d ≠ 0 → (s.core 0 d).fifo = [] :=
  ⟨by decide +kernel, rfl, rfl, ⟨_, rfl, rfl, rfl⟩, by decide⟩

/-- YieldPointServes: nine waiting accesses at the edges of their rows; and none, with a corrected word to write back. -/
theorem witness_YieldPointServes :
    (let s := front (ins 0x20 []) { queue := List.replicate 9 { port := 1, write := true, row := 4095, byte := 56, bytes := List.replicate 8 (some 1) } }
     ∀ x ∈ (s.bu 0 0 5).queue, x.row < 4096 ∧ x.byte + x.len ≤ 64 ∧ x.byte + x.bytes.length ≤ 64) ∧
    (let a := rowAddr 0 0 5 9
     let s := front (ins 0x20 []) { scrub := [(a, { data := 5, good := 4 })] } [(a, { data := 5, good := 4 })]
     (s.bu 0 0 5).queue = [] ∧ (s.bu 0 0 5).scrub = [(a, s.mem.get a)] ∧ (s.mem.get a).poison = false ∧
       popcount ((s.mem.get a).data ^^^ (s.mem.get a).good) = 1) ∧
    insOp (ins 0x20 []) = 0x20 := by decide +kernel

/-! ### Worked values of the bank unit -/

/-- R85: PLOGIC with the truth table of exclusive or (imm8 = 0110b). -/
theorem test_plogic_xor : (match exec (.plogic ⟨0, 0, some 5⟩ .host (ins 0x01 [(1, 53), (2, 49), (3, 45), (6, 16)]))
      (front (ins 0x01 [(1, 53), (2, 49), (3, 45), (6, 16)]) (someBu {})) with
    | .next t => decide (((t.bu 0 0 5).plane 1).bits = 0xFF00 ^^^ 0xCCCC) | _ => false) = true := by decide +kernel

/-- R93: PRELOAD of -2 in every lane, and SADD wraps at 32 bits. -/
theorem test_sadd_wraps : (match exec (.sadd ⟨0, 0, some 5⟩ .host (ins 0x25 [(1, 52), (0xFFFFFFFF, 0)]))
      (front (ins 0x25 [(1, 52), (0xFFFFFFFF, 0)]) (someBu {})) with
    | .next t => decide (((t.bu 0 0 5).scalar 1).val = 0xFFF8) | _ => false) = true := by decide +kernel

/-- R81: adding past the top of an INT32 slot clamps and sets SAT. -/
theorem test_slot_clamps : added false { val := 0x7FFFFFF0, sat := false, poison := false } 0x20 false =
    { val := 0x7FFFFFFF, sat := true, poison := false } := by decide

/-- R59: for G = 3, x = 5 (bits 101) takes +T[1], and x = 2 (bits 010) takes -T[3 - 2]. -/
theorem test_contribution : contribution 3 5 (fun k => 10 + k) = 11 ∧ contribution 3 2 (fun k => 10 + k) = -11 := by decide

/-- R78: poison of a sum reaches the result plane. -/
theorem test_poison_spreads : (match exec (.padd ⟨0, 0, some 5⟩ .host (ins 0x02 [(1, 53), (4, 49), (3, 45)]))
      (front (ins 0x02 [(1, 53), (4, 49), (3, 45)]) (someBu {})) with
    | .next t => decide (((t.bu 0 0 5).plane 1).poison = 3 ∧ ((t.bu 0 0 5).plane 1).bits = 0x6666) | _ => false) = true := by decide +kernel

/-- PreloadAndSelect, CSEL: the index slots' words have no error either, and S0 and S3 no poison. -/
theorem witness_Csel : let b := someBu (open1 false false false)
    (∀ l < 16, (b.accWord (slotWord false ((open1 false false false).abs 2 + 1) l)).data =
      (b.accWord (slotWord false ((open1 false false false).abs 2 + 1) l)).good) ∧
    (b.scalar 0).poison = false ∧ (b.scalar 3).poison = false := by decide +kernel

/-! ### Core sequencers: states that meet the premises -/

def begun (d : Desc) : WinPass := { passOf d with started := true }

theorem running_meets (d : Desc) (m : Sparse Stored) (b : Bu) : Claims.Running (atCore [begun d] m b) 0 0 0 (begun d) :=
  ⟨by decide, by decide, rfl, rfl, rfl⟩

/-- SequencerWordsAct: PBCAST of a payload, and DRAIN of two word-rows of a group that every BU has open. -/
def drainState : State := { atCore [begun 0] with bus := (List.range 128).map fun u => (u, someBu (open1 false false false)) }
theorem witness_SequencerWordsAct : let w := ins 0x23 [(1, 55), (2, 6), (1, 0)]
    insOp (ins 0x0A [(3, 53)]) = 0x0A ∧ seqOk 0 (ins 0x0A [(3, 53)]) = true ∧ insOp w = 0x23 ∧ seqOk 0 w = true ∧ Desc.idxMode 0 = 0 ∧
    insGrpC w = 1 ∧ drCount w = 2 ∧
    (∀ u < 128, groupOk (drainState.bu 0 0 u) w = true ∧ ((drainState.bu 0 0 u).group (insGrpC w)).pair = false ∧
      ((drainState.bu 0 0 u).group (insGrpC w)).csel = 0) ∧
    ∀ i, ((someBu (open1 false false false)).accWord i).data = ((someBu (open1 false false false)).accWord i).good :=
  ⟨by decide +kernel, by decide +kernel, by decide +kernel, by decide +kernel, by decide +kernel, by decide +kernel, by decide +kernel,
    by decide +kernel, fun i => sparse_all (fun x : AccWord => x.data = x.good) _ _ i rfl (by decide +kernel)⟩
theorem witness_SequencerRuns : Claims.Running drainState 0 0 0 (begun 0) := ⟨by decide, by decide, rfl, rfl, rfl⟩

/-- A SPARSE pass with one bitmap card of two lanes: lane 0 has the groups 0, 1 and 47, lane 1 none. -/
def dSparse : Desc := descOf [(2, 0), (1, 18), (1, 20), (2, 22), (4163, 32), (128, 160), (1, 800), (1, 816), (0x2000, 768), (1, 224), (16, 144)]
def lookupsW : Word := ins 0x11 [(1, 54), (2, 48), (2, 45), (1, 43), (3, 31), (1, 27)]
def sparseState (records : Nat) : State :=
  atCore [begun dSparse] (comCells 0x2000 [0x0003010200030000, 0x10000, 3] ++ row3 ++ rowCells 0 0 5 2048 [records])
    (someBu (open1 false false false))
theorem witness_LookupsAccumulates :
    let s := sparseState 0x8000000300050001
    insOp lookupsW = 0x11 ∧ seqOk dSparse lookupsW = true ∧ insRow lookupsW = 3 ∧ (s.core 0 0).held = [] ∧ (s.core 0 0).drains = [] ∧
    (∀ k < 8, (s.mem.get (rowAddr 0 0 5 3 + k)).data = (s.mem.get (rowAddr 0 0 5 3 + k)).good ∧
      (s.mem.get (rowAddr 0 0 5 3 + k)).poison = false) ∧
    ((s.bu 0 0 5).group (insGrpB lookupsW)).isOpen = true ∧ insSlot lookupsW < ((s.bu 0 0 5).group (insGrpB lookupsW)).count ∧
    ((s.bu 0 0 5).plane (insPaB lookupsW)).poison = 0 ∧ s.lookupsFault ⟨0, 0, some 5⟩ 0 0 = none ∧
    (s.passCard 0 0 0 0).isSome = true := by decide +kernel
/-- Its places in row 2 of the window; and, with metadata whose record ends after a block, the check that fails. -/
theorem test_lookups_places : (sparseState 0x8000000300050001).cardPlaces 0 0 0 5 0 0 2 0 = some 47 ∧
    (sparseState 0x8000000300050001).cardPlaces 0 0 0 5 0 0 0 1 = none ∧
    ((sparseState 1).lookupsFault ⟨0, 0, some 5⟩ 0 0).map (·.code) = some 0x0402 := by decide +kernel
theorem witness_LookupsRuns (r : Nat) : Claims.Running (sparseState r) 0 0 0 (begun dSparse) := ⟨by decide, by decide, rfl, rfl, rfl⟩

/-- EscmacResolves: an entry whose position lies within the window, and one past the last. -/
def escBu (n : Nat) : Bu := { someBu (open1 false false false) with
  planes := [], scalars := [(4, { val := 600 }), (7, { val := BitVec.ofNat 32 n })] }
def escRow : Sparse Stored := rowCells 0 0 5 3 [0x1234 * 2 ^ 32 + 700, 0x1234 * 2 ^ 32 + 1400]
theorem witness_EscmacResolves : let w := ins 0x13 [(1, 54), (2, 45), (1, 43), (3, 31), (1, 27), (3 * 32 + 2, 0)]
    let s := fun n => atCore [begun 0] escRow (escBu n)
    let b := escBu 5
    insOp w = 0x13 ∧ seqOk 0 w = true ∧ insRow w = 3 ∧ (s 5).core 0 0 = { level := .run, window := [begun 0], serials := 9 } ∧
    (∀ k < 8, ((s 5).mem.get (rowAddr 0 0 5 3 + k)).data = ((s 5).mem.get (rowAddr 0 0 5 3 + k)).good) ∧
    (∀ k < 8, (b.scalar k).poison = false) ∧ (b.group 1).isOpen = true ∧ insSlot w < (b.group 1).count ∧
    rowNum (s 5) 0 0 5 3 0 32 = 700 ∧ (b.scalar 4).val = 600 ∧ (b.scalar 7).val = 5 ∧
    -- the entry's number is 8 * (3 - 3) + 0: below 5 it acts, at S7 = 0 it stops
    8 * (insRow w % 2048 - insImm16 w / 32) + insX w / 2 = 0 ∧ ((escBu 0).scalar 7).val = 0 := by decide +kernel

/-- The plan's part in field 0. -/
def part0 : PlanField := (plan0.fields[0]?).getD {
  field := 0, rowBase := 0, rows := 0, comBase := 0, comLen := 0, done := 0, passes := 0, cores := [], segs := [] }

/-- DescriptorFetchFills: the next pass of a run, its 16 descriptor words clean. -/
def dPlane : Desc := descOf [(4, 0), (1, 128)]
def atFetch : State := { atCore [] (comCells 0 ((List.range 16).map fun k => fld dPlane (64 * k) 64)) with
  cores := [(0, { level := .run, run := [(job7, 0)], serials := 9 })] }
theorem witness_DescriptorFetchFills :
    (atFetch.core 0 0).run = [(job7, 0)] ∧ (atFetch.core 0 0).level = .run ∧ (atFetch.core 0 0).stopped = false ∧
    (atFetch.core 0 0).window.length < 4 ∧ atFetch.job job7 = some jobOf ∧ atFetch.planField jobOf.plan 0 = some part0 ∧
    (atFetch.field 0).health = .healthy ∧ ∀ k < 16, let a := commonsAddr 0 + (part0.comBase + 128 * 0) / 8 + k
      (atFetch.mem.get a).data = (atFetch.mem.get a).good ∧ (atFetch.mem.get a).poison = false := by decide +kernel

theorem alone_meets (d : Desc) (k : Nat) (m : Sparse Stored) (h : Desc.kind d = k ∧ Desc.deps d = [] ∧ Desc.lantern d ≤ 2) :
    Claims.Alone (atCore [passOf d] m) 0 0 (passOf d) k :=
  ⟨by decide, by decide, rfl, rfl, h.1, rfl, rfl, rfl, rfl, h.2.1, h.2.2, rfl⟩

/-- PlanePassRepeats: one SADD word five times. -/
def dRepeat : Desc := descOf [(4, 0), (0x1000, 832), (1, 864), (5, 880)]
def saddWord : Word := ins 0x25 [(1, 52), (0x30000, 0)]
theorem witness_PlanePassRepeats : let s := atCore [passOf dRepeat] (comCells 0x1000 [saddWord.toNat])
    Claims.Alone s 0 0 (passOf dRepeat) 4 ∧ s.planField 0 0 = some part0 ∧ Desc.plLen dRepeat = 1 ∧ insOp saddWord = 0x25 ∧
    wordOk saddWord = true ∧ s.mem.get (commonsAddr 0 + (part0.comBase + Desc.plOff dRepeat) / 8) = { data := saddWord, good := saddWord } ∧
    (s.counter (coreBlock 0 0) 1).val + Desc.plRep dRepeat < 2 ^ 48 - 1 :=
  ⟨alone_meets _ _ _ (by decide +kernel), by decide +kernel, by decide +kernel, by decide +kernel, by decide +kernel, by decide +kernel,
    by decide +kernel⟩

/-- BankPassesRun, RouteAndEdgePasses: a pass of each kind, alone; a DRAIN with a destination. -/
theorem witness_PassesStart : (∀ k ∈ [1, 2, 3, 5, 7, 8], Claims.Alone (atCore [passOf (descOf [(k, 0)])]) 0 0 (passOf (descOf [(k, 0)])) k) ∧
    Claims.Alone (atCore [passOf (descOf [(10, 0), (2, 640), (1, 128)])]) 0 0 (passOf (descOf [(10, 0), (2, 640), (1, 128)])) 10 ∧
    Desc.dest (descOf [(10, 0), (2, 640), (1, 128)]) ≠ 0 := by
  have h : ∀ k ∈ [1, 2, 3, 5, 7, 8], Desc.kind (descOf [(k, 0)]) = k ∧ Desc.deps (descOf [(k, 0)]) = [] ∧ Desc.lantern (descOf [(k, 0)]) ≤ 2 := by
    decide +kernel
  exact ⟨fun k hk => alone_meets _ _ _ (h k hk), alone_meets _ _ _ (by decide +kernel), by decide +kernel⟩

/-- BankPassesRun, the clause of an opened group: a MAC16 descriptor that the checks pass, with no vector, opening its group and keeping
it. Its pass was run outside the kernel: it ends without a fault, with nothing left to issue. -/
def dOpen : Desc := descOf [(5, 0), (1, 4), (1, 6), (2, 9), (3, 12), (1, 17), (2, 18), (2, 20), (2, 22), (1, 27), (4163, 32), (132, 48),
  (132, 64), (1, 80), (16, 144), (4, 160), (11, 224), (1, 240), (4096, 256), (64, 288)]
theorem witness_BankPassOpens : Claims.Alone (atCore [passOf dOpen]) 0 0 (passOf dOpen) 5 ∧ descOk dOpen = true ∧ Desc.opens dOpen = true ∧
    Desc.dest dOpen = 0 :=
  ⟨alone_meets _ _ _ (by decide +kernel), by decide +kernel, by decide +kernel, by decide +kernel⟩

/-- RouteAndEdgePasses: a ROUTE that reads 2, predicted not at all, rightly and wrongly, with one pass after it. -/
def dRoute : Desc := descOf [(7, 0), (0x1000, 832), (2, 864)]
def route (p : Option Nat) : WinPass := { passOf dRoute with started := true, issued := true, predicted := p }
def after : WinPass := { passOf dPlane with serial := 5, idx := 1 }
theorem witness_RouteResolves : ∀ p ∈ [none, some 2, some 1], let s := atCore [route p, after] (comCells 0x1000 [0x12340002])
    (s.core 0 0).window = [route p, after] ∧ after.serial ≠ (route p).serial ∧ Desc.kind (route p).desc = 7 ∧ (route p).resolved = none ∧
    Desc.deps (route p).desc = [] ∧ Desc.lantern (route p).desc ≤ 2 ∧ s.planField (route p).plan 0 = some part0 ∧
    s.mem.get (commonsAddr 0 + (part0.comBase + Desc.rtOff (route p).desc) / 8) = { data := 0x12340002, good := 0x12340002 } ∧
    0x12340002 % 65536 < 2 ^ 15 ∧ (0x12340002 : Word).toNat % 65536 < 2 ^ Desc.rtArms (route p).desc ∧ (route p).predicted = p := by
  decide +kernel

/-- PassCommits: a head that is done, and one that holds a fault. -/
def headOf (e : Option PassFault) : WinPass := { passOf dPlane with started := true, issued := true, fault := e, idx := 3 }
theorem witness_PassCommits : ∀ e ∈ [none, some { code := 0x0402 }], let s := atCore [headOf e]
    (s.core 0 0).window = [headOf e] ∧ s.planField (headOf e).plan 0 = some part0 ∧ s.job (headOf e).job = some jobOf ∧ (headOf e).fault = e ∧
    Desc.kind (headOf e).desc ≤ 5 ∧ (headOf e).todo = [] ∧ (s.core 0 0).drains = [] ∧ jobOf.isEnded = false := by decide +kernel

/-- DrainPathAdvances, DrainFormsVector: word-rows left, the last of a task, and the last task of a tile of 4 outputs. -/
def dDrain : Desc := descOf [(10, 0), (4 + 8 * 16, 64), (2, 640), (3, 656), (0x3000, 672), (2, 736), (4, 752), (100, 144), (2, 128)]
def taskOf (rows : Nat) (last : Bool) : DrainTask :=
  { serial := 4, vec := 1, rows, last, outs := (List.range 4).map fun (i : Nat) => { val := Int.ofNat i * 900 - 1000, bu := i, lane := 0, slot := 0, out := i } }
theorem witness_DrainsReachTheirPlace : ∀ rows ∈ [2, 1], ∀ last : Bool, let wp := begun dDrain
    let s0 := atCore [wp]
    let s := { s0 with cores := [(0, { (s0.core 0 0) with drains := [taskOf rows last], closing := [(1, 4), (1, 9)] })] }
    (s.core 0 0).drains = [taskOf rows last] ∧ (s.core 0 0).window = [wp] ∧ wp.serial = (taskOf rows last).serial ∧
    s.planField wp.plan 0 = some part0 ∧ Desc.dest wp.desc = 2 ∧ Fmt.ofWord (Desc.fmtO wp.desc) = ⟨4, 8, false, 0, 0⟩ ∧
    Desc.form wp.desc = 0 ∧ Desc.layout wp.desc = false ∧ Desc.ftab wp.desc = false ∧ Desc.idxMode wp.desc = 0 ∧ Desc.settle wp.desc ≠ 2 ∧
    Desc.escFatal wp.desc = false ∧ (Sparse.get [] wp.tile 1 ++ (taskOf rows last).outs).length ≤ 64 * Desc.limit wp.desc ∧
    wp.waits = false ∧ Sparse.get [] wp.tile 1 = [] ∧ (∀ d < 8, d ≠ 0 → (s.core 0 d).drains = []) ∧
    ∀ o ∈ Sparse.get [] wp.tile 1 ++ (taskOf rows last).outs, o.masked = false ∧ o.poison = false ∧ o.sat = false := by decide +kernel

/-- DrainPathAdvances: a settled TABLE pass with four words left before its planes end. -/
def leftOver : List Todo := [.word (ins 0x10 []) 0 none false, .settle 0 0, .word (ins 0x10 []) 1 none false, .sparse 0 0 0 0 0]
theorem witness_CoreSettledSkip :
    let wp : WinPass := { begun (descOf [(1, 0)]) with atSettle := true, todo := leftOver ++ [.planesEnd] }
    let s := atCore [wp]
    (s.core 0 0).window = [wp] ∧ wp.atSettle = true ∧ wp.fault = none ∧ Desc.kind wp.desc = 1 ∧ (s.planField wp.plan 0).isSome = true ∧
    .planesEnd ∉ leftOver ∧ (s.counter (coreBlock 0 0) 10).val + todoCost leftOver < 2 ^ 48 - 1 := by decide +kernel

/-! ### Worked values of the sequencer and the drain path -/

/-- R124: 5 / 2 and -5 / 2 round to nearest even, and 7 / 2 to 4. -/
theorem test_roundShift_even : roundShift 5 1 0 0 = 2 ∧ roundShift (-5) 1 0 0 = -2 ∧ roundShift 7 1 0 0 = 4 := by decide +kernel

/-! ### Edge units and lanterns: states that meet the premises -/

/-- A posted EDGE pass of K elements with scratch slots at 0x2000. -/
def edgeDesc (k : Nat) : Desc := descOf [(8, 0), (k, 160), (4, 912), (0x2000, 928)]
def edgePass (k : Nat) : WinPass := { passOf (edgeDesc k) with started := true, issued := true }
def edgeState (k : Nat) (v : Sparse EdgeElt) (m : Sparse Stored := []) : State :=
  { atCore [edgePass k] m with edges := [(0, { level := .run, postings := [(0, 4)], v })] }

theorem edge_meets (k : Nat) (v : Sparse EdgeElt) (m : Sparse Stored) (w : Word) (hk : k ≤ 4096) (hd : Desc.k (edgeDesc k) = k)
    (hw : edgeWordOk k (Desc.edNscr (edgeDesc k)) w = true) : EdgeRuns (edgeState k v m) 0 w k :=
  ⟨by decide, hk, rfl, 0, edgePass k, part0, rfl, hd, hw⟩

/-- An edge word of an operation, with operand type, form of b, register d (2), register a (1), and constant. -/
def edgeWord (op type bsrc imm : Nat) : Word :=
  [(type, 54), (bsrc, 52), (2, 48), (1, 44), (imm, 0)].foldl (fun w p => w ||| (BitVec.ofNat 64 p.1 <<< p.2)) (BitVec.ofNat 64 op <<< 56)

/-- V1 and V0 with a normal number, both zeros, a subnormal, both infinities, NaN, and the largest finite numbers. -/
def edgeVals : List Nat := [0x3F800000, 0, 0x80000000, 0x00000001, 0x7F800000, 0xFF800000, 0x7FC00001, 0x7F7FFFFF, 0xFF7FFFFF, 0xC0490FDB]
def edgeRegs : Sparse EdgeElt :=
  (edgeVals.zipIdx.map fun p => (p.2, { bits := BitVec.ofNat 32 p.1 })) ++
  (edgeVals.reverse.zipIdx.map fun p => (4096 + p.2, { bits := BitVec.ofNat 32 p.1 }))

/-- EdgeSelects, EdgeSumsRoundOnce, EdgeQuotientsRoundOnce, EdgeSpecialValues: each operation, K at 1 and at its ends. -/
theorem witness_EdgeWords : (∀ op ∈ [0x01, 0x02, 0x03, 0x04, 0x05, 0x06, 0x07, 0x08, 0x09, 0x10, 0x11, 0x12, 0x13, 0x14, 0x15, 0x16, 0x17],
    ediOp (edgeWord op 0 0 0) = op ∧ EdgeRuns (edgeState 10 edgeRegs) 0 (edgeWord op 0 0 0) 10) ∧
    EdgeRuns (edgeState 4096 []) 0 (edgeWord 0x01 2 2 0x3F800000) 4096 := by
  have h : ∀ op ∈ [0x01, 0x02, 0x03, 0x04, 0x05, 0x06, 0x07, 0x08, 0x09, 0x10, 0x11, 0x12, 0x13, 0x14, 0x15, 0x16, 0x17],
    ediOp (edgeWord op 0 0 0) = op ∧ edgeWordOk 10 (Desc.edNscr (edgeDesc 10)) (edgeWord op 0 0 0) = true := by decide +kernel
  exact ⟨fun op ho => ⟨(h op ho).1, edge_meets _ _ _ _ (by decide) (by decide +kernel) (h op ho).2⟩,
    edge_meets _ _ _ _ (by decide) (by decide +kernel) (by decide +kernel)⟩

/-- What the clauses ask of operands: finite ones, NaN, infinities against zeros, negative ones. -/
theorem witness_EdgeOperands : let s := edgeState 10 edgeRegs
    (code s 0 1 0 = 0xC0490FDB ∧ finite (code s 0 1 0) ∧ (code s 0 1 0).testBit 31 = true ∧ code s 0 1 0 ≠ 0x80000000) ∧
    (isNan (code s 0 1 3)) ∧ (code s 0 1 4 = 0xFF800000 ∧ code s 0 1 5 = 0x7F800000) ∧ (code s 0 1 8 = 0 ∧ code s 0 1 7 = 0x80000000) ∧
    (0 < units (code s 0 1 9) ∧ units (code s 0 1 0) ≠ 0) := by
  simp only [finite, isNan]; decide +kernel

/-- EdgeSumsRoundOnce, FMA: an addend that is finite; EdgeReductions: K of 1, of 3 and of 10. -/
theorem witness_EdgeReductions : (∀ i < 3, finite (code (edgeState 3 []) 0 2 i)) ∧ ∀ op ∈ [0x20, 0x21, 0x22], ∀ k ∈ [1, 3, 10],
    0 < k ∧ ediOp (edgeWord op 0 0 0) = op ∧ EdgeRuns (edgeState k edgeRegs) 0 (edgeWord op 0 0 0) k := by
  have h : ∀ op ∈ [0x20, 0x21, 0x22], ∀ k ∈ [1, 3, 10], 0 < k ∧ k ≤ 4096 ∧ ediOp (edgeWord op 0 0 0) = op ∧
    Desc.k (edgeDesc k) = k ∧ edgeWordOk k (Desc.edNscr (edgeDesc k)) (edgeWord op 0 0 0) = true := by decide +kernel
  exact ⟨by simp only [finite]; decide +kernel,
    fun op ho k hk => let q := h op ho k hk; ⟨q.1, q.2.2.1, edge_meets _ _ _ _ q.2.1 q.2.2.2.1 q.2.2.2.2⟩⟩

/-- EdgeScratch: LD and ST of 3 elements in slot 1, in each container. -/
def scratchWord (op type : Nat) : Word :=
  [(type, 54), (if op = 0x30 then 2 else 0, 48), (if op = 0x31 then 1 else 0, 44), (1, 0)].foldl
    (fun w p => w ||| (BitVec.ofNat 64 p.1 <<< p.2)) (BitVec.ofNat 64 op <<< 56)
theorem witness_EdgeScratch : ∀ op ∈ [0x30, 0x31], ∀ type < 3, let w := scratchWord op type
    let s := edgeState 3 edgeRegs (comCells 0x6000 [0x3C12FE0145678901, 0x3F800000])
    (s.edge 0).level = .run ∧ s.posted 0 = some (0, edgePass 3, part0) ∧ Desc.k (edgePass 3).desc = 3 ∧ ediOp w = op ∧ ediType w = type ∧
    edgeWordOk 3 (Desc.edNscr (edgePass 3).desc) w = true ∧
    ∀ i < 2, let a := commonsAddr 0 + (part0.comBase + Desc.edScr (edgePass 3).desc + ediImm w * 0x4000) / 8 + i
      (s.mem.get a).data = (s.mem.get a).good ∧ (s.mem.get a).poison = false := by decide +kernel

/-- EdgePostingCopies: six elements, one COPY. -/
def copyPass : WinPass := { passOf (descOf [(8, 0), (6, 160), (1, 128), (10, 48), (10, 64), (1, 864), (0x1000, 832), (0x3000, 256), (0x5000, 960)])
  with started := true, issued := true }
def copyState : State :=
  { atCore [copyPass] (comCells 0x1000 [0x0901000000000000] ++ comCells 0x3000 [0x3F8000003F123456, 0x7F80000080000000, 0x100000002]) with
    edges := [(0, { level := .run, postings := [(0, 4)] })] }
theorem witness_EdgePostingCopies : let d := copyPass.desc
    (copyState.edge 0).postings = [(0, copyPass.serial)] ∧ (copyState.core 0 0).window = [copyPass] ∧
    copyState.planField copyPass.plan 0 = some part0 ∧ Desc.n d = 1 ∧ Desc.k d = 6 ∧ Desc.edLen d = 1 ∧ Desc.edPro d = 0 ∧
    Fmt.ofWord (Desc.fmtX d) = ⟨10, 0, false, 0, 0⟩ ∧ Fmt.ofWord (Desc.fmtO d) = ⟨10, 0, false, 0, 0⟩ ∧ Desc.xsrc d = false ∧
    Desc.xlay d = false ∧
    copyState.mem.get (commonsAddr 0 + (part0.comBase + Desc.edProg d) / 8) = { data := 0x0901000000000000, good := 0x0901000000000000 } ∧
    ∀ i < 3, let a := commonsAddr 0 + (part0.comBase + Desc.xbase d) / 8 + i
      (copyState.mem.get a).data = (copyState.mem.get a).good ∧ (copyState.mem.get a).poison = false ∧
      ∀ h < 2, fld (copyState.mem.get a).data (32 * h) 32 % 2 ^ 31 ≤ 0x7F800000 := by decide +kernel

/-- EdgePostingRuns, EdgePostingWords: an edge unit at run and one that wakes, and a program word that breaks R218. -/
theorem witness_EdgePostings : copyState.posted 0 = some (0, copyPass, part0) ∧ Desc.k copyPass.desc ≤ 4096 ∧ (copyState.edge 0).level = .run ∧
    copyPass.fault = none ∧ edgeWordOk 6 (Desc.edNscr copyPass.desc) 0 = false ∧
    ({ copyState with edges := [(0, { postings := [(0, 4)] })] }.edge 0).level ≠ .run ∧
    { copyState with edges := [(0, { postings := [(0, 4)] })] }.posted 0 = some (0, copyPass, part0) := by decide +kernel

/-- A head that asks for lanterns. -/
def asks (n : Nat) : WinPass := { passOf (descOf [(4, 0), (n + 2, 88)]) with lantern := .asked, asked := 55 }
def lampState (n : Nat) (rows : List (Nat × Nat)) (lent held pool : Nat) : State :=
  { atCore [asks n] with
    lanterns := { rows }, fields := [(0, { lent, heldL := held })], requests := [(0, { pool := some pool })] }

/-- LanternRequestAnswered: the four answers, each at the edge of its condition. -/
theorem witness_LanternRequestAnswered : ∀ p ∈ [(8, [], 8, 0, 20000), (9, [(0, 8)], 8, 0, 20000), (9, [(0, 7)], 8, 0, 20000), (200, [], 0, 0, 1600)],
    let s := lampState p.1 p.2.1 p.2.2.1 p.2.2.2.1 p.2.2.2.2
    let wp := asks p.1
    (s.core 0 0).window = [wp] ∧ wp.lantern = .asked ∧ wp.skipped = false ∧ s.lanterns.queue = [] ∧ s.isTick wp.job = false ∧
    Desc.lantern wp.desc = p.1 + 2 ∧ 0 < p.1 ∧ s.poolUsed ≤ s.effPool := by decide +kernel
theorem witness_LanternAnswers :
    (let s := lampState 8 [] 8 0 20000; 8 ≤ (s.field 0).lent - (s.field 0).heldL) ∧
    (let s := lampState 9 [(0, 8)] 8 0 20000; (s.field 0).lent - (s.field 0).heldL < 9 ∧ (9 - 8 + 7) / 8 * 8 ≤ s.rowPool (s.physOf 0).1) ∧
    (let s := lampState 9 [(0, 7)] 8 0 20000; s.rowPool (s.physOf 0).1 < 8 ∧ 64 ≤ s.freePool) ∧
    (let s := lampState 200 [] 0 0 1600; s.rowPool (s.physOf 0).1 < 200 ∧ s.freePool < 256) := by decide +kernel
/-- A row none of whose fields routes any more. -/
def failedRow : State := { lampState 9 [] 8 0 20000 with
  fields := (List.range 96).map fun f => (f, { health := .failed .service true, lent := if f = 0 then 8 else 0 }) }
theorem witness_LanternNoPool : (¬∃ g < 96, (failedRow.field g).health = .healthy ∧ (failedRow.physOf g).1 = (failedRow.physOf 0).1) ∧
    (failedRow.core 0 0).window = [asks 9] ∧ failedRow.lanterns.queue = [] ∧ failedRow.isTick (asks 9).job = false ∧
    (failedRow.field 0).lent - (failedRow.field 0).heldL < 9 ∧ 8 ≤ failedRow.freePool ∧ failedRow.poolUsed ≤ failedRow.effPool := by
  refine ⟨?_, by decide +kernel⟩
  rintro ⟨g, hg, h, -⟩
  revert g; decide +kernel

/-- LanternTimersAct. -/
theorem witness_LanternTimersAct : let s := lampState 9 [(0, 16)] 8 3 20000
    (s.core 0 0).window = [asks 9] ∧ (asks 9).fault = none ∧ s.job (asks 9).job = some jobOf ∧ jobOf.paused = false ∧
    jobOf.isEnded = false ∧ s.lanterns.queue = [] := by decide +kernel

/-! ### Worked values of the edge unit -/

/-- R212, R215: 1 + 2^-24 is a tie, and rounds to the even 1.0; 1 + 3 * 2^-24 is one too, and rounds up. -/
theorem test_fp32_ties : fp32.round false (2 ^ 24 + 1) (2 ^ 24) = 0x3F800000 ∧ fp32.round false (2 ^ 24 + 3) (2 ^ 24) = 0x3F800002 := by
  decide +kernel

/-- R212: narrowing to BF16 ties to even, and 65,520 is too large for FP16. -/
theorem test_narrow : bf16.narrow 0x3F808000 = 0x3F80 ∧ bf16.narrow 0x3F818000 = 0x3F82 ∧ fp16.narrow 0x477FF000 = 0x7C00 := by decide +kernel

/-- R216: exp 0 is 1, and the logarithm of 1 is 0. -/
theorem test_exp_log : fpExp (fp32.decode 0) = 0x3F800000 ∧ fpLog 0 (fp32.decode 0x3F800000) = 0 := by decide +kernel

/-! ### Messages: states that meet the premises -/

theorem rings_settled (l : Sparse Queue) (q : Nat) (h : ∀ p ∈ l, p.2.h = p.2.t) : (Sparse.get {} l q).h = (Sparse.get {} l q).t :=
  sparse_all (fun x : Queue => x.h = x.t) {} l q rfl h

/-- Next, as a check. -/
def nextOk (s : State) (m : Msg) (op : Nat) : Bool := decide (
  (m ∈ s.msgs ∧ sqOp m.entry = op ∧ m.id.src ≤ 1024 ∧ m.slots = (if op = 0x0603 then 2 else if op = 0x0805 then 4 else 1) ∧
    (∀ o ∈ s.msgs, o = m ∨ o.id ≠ m.id ∧ sqOp o.entry ≠ 0x0102) ∧
    (m.id.src < 1024 → (s.queue m.id.src).st ≠ .uncreated ∧ (s.queue m.id.src).w < 65536 ∧ (s.port (s.ownerOf m.id.src)).d3 = false)) ∧
  m.applied = false ∧ s.vigil.phase = .up ∧ s.vigil.bootRom = false ∧ s.smb.waiting = [] ∧ (∀ p ∈ s.queues, p.2.h = p.2.t) ∧
  ∀ o ∈ s.msgs, o = m ∨ o.applied = true ∧ (sqFence m.entry = false ∨ o.id.src ≠ m.id.src))

theorem next_of {s : State} {m : Msg} {op : Nat} (h : nextOk s m op = true) : Next s m op := by
  have h := of_decide_eq_true h
  exact ⟨h.1, h.2.1, h.2.2.1, h.2.2.2.1, h.2.2.2.2.1, fun q => rings_settled s.queues q h.2.2.2.2.2.1, h.2.2.2.2.2.2⟩

/-- QueryMessagesAnswer, through a host queue, an admin queue and management. -/
theorem witness_QueryMessagesAnswer : ∀ op ∈ [0x0001, 0x0002, 0x0703, 0x0901, 0x0B02], ∀ src ∈ [0, 1023, 1024],
    Next (atMsg (msgOf src op)) (msgOf src op) op ∧ sqHandle (msgOf src op).entry = 0 := by
  have h : ∀ op ∈ [0x0001, 0x0002, 0x0703, 0x0901, 0x0B02], ∀ src ∈ [0, 1023, 1024],
      sqOp (msgOf src op).entry = op ∧ sqHandle (msgOf src op).entry = 0 ∧ src ≤ 1024 := by decide +kernel
  intro op ho src hs
  refine ⟨next_of ?_, (h op ho src hs).2.1⟩
  revert op src; decide +kernel

/-- MessagesAreRefused: every row, through an admin queue, a host queue and management, with a handle that names nothing. -/
theorem witness_MessagesAreRefused : ∀ op ∈ Claims.messageRows.map (·.1), ∀ src ∈ [2, 7, 1024],
    let m := msgOf src op [(0xFF, 64)] false
    Next (atMsg m) m op ∧ sqHandle m.entry = 0xFF ∧ m.live = false ∧ selfTestOk ⟨[], []⟩ = true := by
  have h : ∀ op ∈ Claims.messageRows.map (·.1), ∀ src ∈ [2, 7, 1024], sqHandle (msgOf src op [(0xFF, 64)] false).entry = 0xFF := by
    decide +kernel
  intro op ho src hs
  refine ⟨next_of ?_, h op ho src hs, rfl, by decide⟩
  revert op src; decide +kernel
theorem witness_DmaReadTimeout : readsPayload 0x0201 = true := by decide

/-- A state with a message, its own queue pair, and another. -/
def withQueues (s : State) : State := { s with
  queues := s.queues ++ [(6, { st := .active, gen := 9, cqBase := 0x40000, cqLog2 := 5, sqLog2 := 6, h := 3, t := 3, w := 2, r := 1 })]
  plans := [(0, { plan0 with owner := 6 })] }

/-- QueueMessagesAct. -/
def createMsg : Msg := msgOf 2 0x0101 [(1022, 128), (16, 144), (4, 152), (256, 160), (77, 176), (0, 192), (0xFFFFFFFFFFFFF000, 256)]
theorem witness_QueueCreate : let s := atMsg createMsg
    Next s createMsg 0x0101 ∧ sqHandle createMsg.entry = 0 ∧ eNum createMsg.entry 16 2 = 1022 ∧ s.ownerOf 1022 = 2 ∧
    (s.queue 1022).st = .uncreated ∧ eByte createMsg.entry 18 = 16 ∧ eByte createMsg.entry 19 = 4 ∧ eNum createMsg.entry 20 2 = 256 ∧
    eNum createMsg.entry 24 8 % 4096 = 0 ∧ eNum createMsg.entry 32 8 % 4096 = 0 :=
  ⟨next_of (by decide +kernel), by decide +kernel⟩
theorem witness_QueueMessages :
    (∀ op ∈ [0x0102, 0x0104], let m := msgOf 2 op [(1, 64), (2, 80), (6, 96), (9, 112), (256, 128), (9, 144)]
      let s := withQueues (atMsg m)
      Next s m op ∧ s.queueOf (sqHandle m.entry) = some 6 ∧ s.ownerOf 6 = m.id.src ∧ (∀ o ∈ s.msgs, o.id.src ≠ 6) ∧
      eNum m.entry 16 2 = 256 ∧ s.plan 0 = some { plan0 with owner := 6 }) ∧
    (∀ op ∈ [0x0103, 0x0105], let m := msgOf 2 op [(1022, 128), (3, 144)]
      Next (atMsg m) m op ∧ sqHandle m.entry = 0 ∧ eNum m.entry 16 2 = 1022 ∧ eByte m.entry 18 = 3 ∧ (atMsg m).ownerOf 1022 = 2 ∧
      ((atMsg m).queue 1022).st = .uncreated) := by
  refine ⟨fun op ho => ⟨next_of ?_, ?_⟩, fun op ho => ⟨next_of ?_, ?_⟩⟩ <;> (revert op; decide +kernel)

/-- SharedLimitsSet: both ends of each range, from an admin queue and from management. -/
theorem witness_SharedLimitsSet : ∀ src ∈ [0, 3, 1024],
    (∀ n ∈ [2000, 20000], let m := msgOf src 0x0701 [(n, 128)]
      Next (atMsg m) m 0x0701 ∧ Control m ∧ sqHandle m.entry = 0 ∧ eNum m.entry 16 2 = n ∧ (atMsg m).streams = [] ∧
      Sparse.sorted (atMsg m).fields = true) ∧
    ∀ n ∈ [0, 4], let m := msgOf src 0x0702 [(n, 128)]
      Next (atMsg m) m 0x0702 ∧ Control m ∧ sqHandle m.entry = 0 ∧ eByte m.entry 16 = n := by
  simp only [Control]
  refine fun src hs => ⟨fun n hn => ⟨next_of ?_, ?_⟩, fun n hn => ⟨next_of ?_, ?_⟩⟩ <;> (revert n src; decide +kernel)

/-- ReadOutMessagesAct. -/
theorem witness_ReadOutMessages :
    (∀ src ∈ [2, 1024], let m := msgOf src 0x0902 [(15, 128)]
      let s := { atMsg m with slots := [(15, { present := true, st := .active, everActive := true })] }
      Next s m 0x0902 ∧ sqHandle m.entry = 0 ∧ eByte m.entry 16 = 15 ∧ s.slotUp 15 = true ∧ (s.slot 15).holder = none) ∧
    (∀ b ∈ [unitBlock, coreBlock 0 0, portBlock 3], let m := msgOf 2 0x0A01 [(0xC0FFEE000, 128), (4096, 192), (b, 256)]
      Next (atMsg m) m 0x0A01 ∧ eNum m.entry 32 4 = b ∧ blockExists b = true ∧ Roomy m (16 + 8 * 48)) ∧
    (∀ b ∈ [0xFFFFFFFF, unitBlock], let m := msgOf 1024 0x0A02 [(b, 128)]
      Next (atMsg m) m 0x0A02 ∧ eNum m.entry 16 4 = b ∧ (b = 0xFFFFFFFF ∨ blockExists b = true) ∧ Sparse.sorted (atMsg m).counters = true) ∧
    (∀ p ∈ [(0x0A03, 800), (0x0D01, 224)], let m := msgOf 2 p.1 [(0xC0FFEE000, 128), (p.2, 192)]
      Next (atMsg m) m p.1 ∧ Roomy m p.2 ∧ sqHandle m.entry = 0) ∧
    let m := msgOf 2 0x0B01 [(0xC0FFEE000, 128), (128, 192), (8, 256)]
    let s := { atMsg m with log := { recs := [(1, false), (2, true), (3, false)], next := 10 } }
    Next s m 0x0B01 ∧ eNum m.entry 32 4 = (s.log.oldest + 1) % 2 ^ 32 ∧ 1 < s.log.recs.length ∧ (descAt m.entry 16).len = 128 := by
  simp only [Roomy, Host_]
  refine ⟨fun src hs => ⟨next_of ?_, ?_⟩, fun b hb => ⟨next_of ?_, ?_⟩, fun b hb => ⟨next_of ?_, ?_⟩, fun p hp => ⟨next_of ?_, ?_⟩,
    next_of ?_, ?_⟩
  · revert src; decide +kernel
  · revert src; decide +kernel
  · revert b; decide +kernel
  · revert b; decide +kernel
  · revert b; decide +kernel
  · revert b; decide +kernel
  · revert p; decide +kernel
  · revert p; decide +kernel
  · decide +kernel
  · decide +kernel

/-! ### Configurations, plans and jobs: states that meet the premises -/

/-- A configuration image before its CRC, and with it. -/
def imgHead : List Byte := leBytes 4 0x47464E43 ++ [3, 2, 0, 0] ++ leBytes 4 4 ++ leBytes 4 1000 ++ List.replicate 880 0 ++ [0xFF] ++ List.replicate 123 0
def cfg0 : Config := { owner := 2, index := 0, gen := 5, image := imgHead }

/-- ConfigMessagesAct: an image with no configuration staged, and with one of the same owner; sealing, discarding and querying. -/
theorem witness_ConfigStage : ∀ st ∈ [none, some cfg0], let m := msgOf 2 0x0201 [(1, 18), (1, 16), (0xC0FFEE000, 128), (1024, 192)]
    let s := { atMsg m with staged := st }
    let bs := imgHead ++ [1, 2, 3, 4]
    Next s m 0x0201 ∧ sqHandle m.entry = 0 ∧ Control m ∧ Paid m (.ok bs) bs ∧ bs.length = 1024 ∧ ∀ c, s.staged = some c → c.owner = m.id.src := by
  intro st hst
  simp only [Control, Paid, Host_]
  refine ⟨next_of ?_, ?_, ?_, ?_, ?_, ?_⟩
  · revert st; decide +kernel
  · revert st; decide +kernel
  · decide
  · revert st; decide +kernel
  · decide +kernel
  · revert st; intro st hst c hc
    simp only [List.mem_cons, List.not_mem_nil, or_false] at hst
    rcases hst with e | e
    · subst e; cases hc
    · subst e; cases hc; rfl
theorem witness_ConfigMessages : (∀ op ∈ [0x0202, 0x0203], let m := msgOf 2 op [(5, 64), (2, 80), (0, 96), (5, 112)]
      let s := { atMsg m with staged := some cfg0 }
      Next s m op ∧ Control m ∧ cfgNamed (sqHandle m.entry) (some cfg0) = true ∧ cfg0.owner = m.id.src ∧ s.jobRuns = false ∧
      s.streamArmed = false ∧ { s with jobs := [jobOf] }.jobRuns = true) ∧
    Next (atMsg (msgOf 1024 0x0204)) (msgOf 1024 0x0204) 0x0204 ∧ Control (msgOf 1024 0x0204) := by
  simp only [Control]
  refine ⟨fun op ho => ⟨next_of ?_, ?_⟩, next_of ?_, ?_⟩
  · revert op; decide +kernel
  · revert op; decide +kernel
  · decide +kernel
  · decide +kernel
/-- The record write of a CONFIG_SEAL, before it begins and in progress. -/
def sealMsg : Msg := msgOf 2 0x0202 [(5, 64), (2, 80), (0, 96), (5, 112)]
def sealState (b : Bool) : State := { atMsg sealMsg with
  staged := some cfg0, record := { writing := if b then some (sealMsg.id, some [7]) else none } }
theorem witness_ConfigSeal : Next (sealState true) sealMsg 0x0202 ∧ (sealState true).record.writing = some (sealMsg.id, some [7]) ∧
    (sealState false).record.writing = none := ⟨next_of (by decide +kernel), by decide +kernel, by decide +kernel⟩
/-- R408, R443: a seal takes effect as its record write ends; a power fail in between leaves a copy torn. -/
theorem test_seal : let t := ran (.configSeal sealMsg.id) (sealState false)
    t.active = none ∧ (ran (.configSeal sealMsg.id) t).active = some cfg0 ∧ (ran (.configSeal sealMsg.id) t).msgs = [] ∧
    (ran (.powerFail 40000) t).record.torn.isSome = true ∧ (ran (.powerFail 40000) (sealState false)).record.torn = none := by decide +kernel

/-- R9: the check value of CRC-32C. -/
theorem test_crc32c : crc32c [0x31, 0x32, 0x33, 0x34, 0x35, 0x36, 0x37, 0x38, 0x39] = 0xE3069283 := by decide +kernel

/-- PlanMessagesAct: a load without and with a configuration, an image whose first check fails, and the messages on a loaded plan. -/
def withPlan (s : State) : State := { s with plans := [(0, plan0)], active := some cfg0 }
theorem witness_PlanLoadHeld : let m := msgOf 7 0x0301 [(1, 18), (1, 16), (0xC0FFEE000, 128), (64, 192)]
    let bs : List Byte := List.replicate 64 0
    Next (atMsg m) m 0x0301 ∧ sqHandle m.entry = 0 ∧ Paid m (.ok bs) bs ∧ (atMsg m).active = none ∧ Next (withPlan (atMsg m)) m 0x0301 ∧
    (withPlan (atMsg m)).active = some cfg0 ∧ planStep1 bs = false := by
  simp only [Paid, Host_]
  exact ⟨next_of (by decide +kernel), by decide +kernel, by decide +kernel, rfl, next_of (by decide +kernel), rfl, by decide +kernel⟩

/-- A plan image of one field and one segment, with a list of descriptors of core 0, and its sections' CRCs (Tables 7-7 to 7-9). -/
def fieldSection (n : Nat) : List Byte :=
  leBytes 8 5 ++ leBytes 4 16 ++ leBytes 4 384 ++ leBytes 4 256 ++ leBytes 4 (65536 * n) ++ List.replicate 28 0 ++ leBytes 4 (65536 * n) ++
    List.replicate 32 0
def planImage (descs : List Byte) : List Byte :=
  let c := fieldSection (descs.length / 128)
  let entry (type off : Nat) (b : List Byte) : List Byte :=
    leBytes 8 type ++ leBytes 8 off ++ leBytes 8 b.length ++ leBytes 8 (crc32c b).toNat
  let head := leBytes 4 0x4E414C50 ++ [3, 2, 0, 0] ++ leBytes 8 (440 + descs.length) ++ leBytes 8 5 ++ leBytes 2 2 ++ leBytes 2 1 ++
    leBytes 4 256 ++ leBytes 4 320 ++ leBytes 12 1 ++ List.replicate 204 0
  head ++ leBytes 4 (crc32c head).toNat ++ entry 1 352 c ++ entry 2 440 descs ++ List.replicate 32 0 ++ c ++ descs

def loadMsg (n : Nat) : Msg := msgOf 7 0x0301 [(1, 18), (1, 16), (0xC0FFEE000, 128), (n, 192)]
set_option maxRecDepth 100000 in
/-- PlansLoad: an image that passes every check; one whose only pass, a PLANE pass without words, breaks a rule; and a field under test. -/
theorem witness_PlanLoads : ∀ d ∈ [[], leBytes 128 4], let m := loadMsg (planImage d).length
    let s := withPlan (atMsg m)
    let s' := { s with plans := [] }
    Paid m (.ok (planImage d)) (planImage d) ∧ sqHandle m.entry = 0 ∧ s'.active = some cfg0 ∧ planStep1 (planImage d) = true ∧
    planStep2 (imageOf (planImage d)) = true ∧ planStep3 (imageOf (planImage d)) cfg0 = true ∧
    (∀ f ∈ (imageOf (planImage d)).fields, (s'.field f).diag = false) ∧ (imageOf (planImage d)).fields = [0] ∧
    ({ s' with fields := [(0, { diag := true })] }.field 0).diag = true := by
  simp only [Paid, Host_]; decide +kernel
set_option maxRecDepth 100000 in
theorem witness_PlanLoadChecks :
    (match State.reset.validatePlan 7 cfg0 (imageOf (planImage [])) with | .ok p => decide (p.parts.map (·.field) = [0]) | .error _ => false) = true ∧
    (match (imageOf (planImage (leBytes 128 4))).draft with
      | some p => decide (p.step4 State.reset.ordinal = .at_ { field := 0, core := 0, pass := 0 })
      | none => false) = true ∧
    (match State.reset.validatePlan 7 cfg0 (imageOf (planImage (leBytes 128 4))) with
      | .ok _ => false | .error e => decide (e.2.1 = 0x0201)) = true := by decide +kernel
theorem witness_PlanLoadNext : ∀ n ∈ [440, 568], Next { withPlan (atMsg (loadMsg n)) with plans := [] } (loadMsg n) 0x0301 := by
  refine fun n hn => next_of ?_; revert n; decide +kernel

theorem witness_PlanMessages : ∀ op ∈ [0x0302, 0x0303, 0x0304, 0x0305],
    let m := msgOf 7 op [(2, 64), (7, 80), (0, 96), (3, 112), (0xC0FFEE000, 128), (768, 192)]
    let s := withPlan (atMsg m)
    Next s m op ∧ s.planOf (sqHandle m.entry) = some 0 ∧ s.plan 0 = some plan0 ∧ plan0.owner = m.id.src ∧ s.planBusy 0 = false ∧
    { s with jobs := [jobOf] }.planBusy 0 = true ∧ Sparse.sorted s.cores = true ∧ Sparse.sorted s.streams = true ∧ Roomy m 768 ∧
    ∀ pf ∈ plan0.fields, pf.field < 96 ∧ pf.comBase + pf.comLen ≤ 0x1800000 := by
  simp only [Roomy, Host_]
  refine fun op ho => ⟨next_of ?_, ?_⟩ <;> (revert op; decide +kernel)

/-- JobMessagesAct: sizes that fit, and one byte short. -/
def submitMsg (n : Nat) : Msg := msgOf 7 0x0401 [(1, 16), (1, 18), (2, 64), (7, 80), (0, 96), (3, 112), (0xC0FFEE000, 128), (n, 192),
  (0xD0FFEE000, 256), (64, 320)]
def input16 : List Byte := (List.range 16).map fun i => BitVec.ofNat 8 (7 * i + 1)
theorem witness_JobSubmit : ∀ n ∈ [15, 16], let m := submitMsg n
    let s := withPlan (atMsg m)
    Next s m 0x0401 ∧ s.planOf (sqHandle m.entry) = some 0 ∧ s.plan 0 = some plan0 ∧ plan0.owner < 1024 ∧
    s.ownerOf plan0.owner = s.ownerOf m.id.src ∧ s.isReady = true ∧ plan0.sealed = true ∧ eNum m.entry 48 2 = 0 ∧
    (plan0.segs[0]?).map (fun g => (g.inLen, g.outLen, g.cadence)) = some (16, 64, false) ∧ (descAt m.entry 16).len = n ∧
    (descAt m.entry 32).len = 64 ∧ Claims.Sound s plan0 ∧ (n = 16 → Paid m (.ok input16) input16) := by
  simp only [Paid, Host_, Claims.Sound]
  refine fun n hn => ⟨next_of ?_, ?_⟩ <;> (revert n; decide +kernel)

/-- JOB_CANCEL and JOB_QUERY on a waiting and on a running job, whose submission waits applied. -/
theorem witness_JobCancel : ∀ op ∈ [0x0402, 0x0403], ∀ st ∈ [JobState.waiting, .running, .ended 0x0501],
    let m := msgOf 7 op [(3, 64), (7, 80), (0, 96), (1, 112)]
    let sub := { submitMsg 16 with id := ⟨7, 9⟩, applied := true }
    let j := { jobOf st with msg := some ⟨7, 9⟩ }
    let s := { withPlan (atMsg m) with jobs := [j], msgs := [m, sub] }
    Next s m op ∧ s.job (sqHandle m.entry) = some j ∧ hShape (sqHandle m.entry) 3 = true ∧ hOwner (sqHandle m.entry) = m.id.src ∧
    (st ≠ .ended 0x0501 → j.isEnded = false) := by
  refine fun op ho st hst => ⟨next_of ?_, ?_⟩ <;> (revert op st; decide +kernel)

/-- JobStarts: a job that may start, and the same held up by an earlier one, its field lost, waiting for a remap or in command mode, and its
slot gone. -/
def startState (f : State → State := id) : State :=
  f { withPlan (atMsg (submitMsg 16)) with jobs := [{ jobOf .waiting with input := input16 }] }
def fieldIs (x : Field) (s : State) : State := { s with fields := [(0, x)] }
def heldUp (s : State) : State := { s with jobs := { jobOf .running with handle := 0x0001000000070002 } :: s.jobs }
def onSlot (s : State) : State := { s with plans := [(0, { plan0 with slots := [3] })] }
theorem witness_JobStarts : let j := { jobOf .waiting with input := input16 }
    (∀ f ∈ [id, heldUp, fieldIs { health := .lost }, fieldIs { health := .failed .vck true }, fieldIs { cmdMode := some 9 }, onSlot],
      let s := startState f
      s.job job7 = some j ∧ j.st = .waiting ∧ s.vigil.phase = .up ∧ (s.plan j.plan).isSome = true ∧
      (s.plan j.plan).map (fun p => p.segs[j.seg]?) = some (some { inLen := 16, outLen := 64, inField := 0, inOff := 0 })) ∧
    (startState heldUp).jobHeldUp j = true ∧
    (∀ f ∈ [id, fieldIs { health := .lost }, fieldIs { health := .failed .vck true }, fieldIs { cmdMode := some 9 }, onSlot],
      (startState f).jobHeldUp j = false) ∧
    Claims.Sound startState plan0 ∧ (plan0.fields.map (·.field)).Nodup ∧ plan0.inField 0 = some part0 ∧ (startState onSlot).slotUp 3 = false ∧
    plan0.broken = false := by
  simp only [Claims.Sound]; decide +kernel

/-- JobEnds: done, done with the poison flag, ended with a code at a pass and without one, and refused for want of a slot. -/
def endState (j : Job) (more : List Msg := []) : State :=
  { withPlan (atMsg { submitMsg 16 with applied := true }) with jobs := [j], msgs := { submitMsg 16 with applied := true } :: more }
theorem witness_JobEnds : ∀ p ∈ [(JobState.running, 0, 0x0000#16, 0xFFFF), (.running, 0x0401, 0x0004#16, 0xFFFF), (.ended 0x0301, 0x0301, 0x0005#16, 2),
      (.ended 0x0204, 0x0204, 0, 2), (.ended 0x0204, 0x0204, 0, 0xFFFF)],
    let m := { submitMsg 16 with applied := true }
    let j := { jobOf p.1 with left := 0, drain := p.2.2.1, msg := some m.id, limit := 5, failPass := p.2.2.2, outs := [(0, input16, false)] }
    let s := endState j
    Answerable s m 0x0401 ∧ s.job job7 = some j ∧ j.tick = none ∧ s.mesh.packets = [] ∧ s.mesh.awaited = [] ∧ s.slots = [] ∧
    (∀ o ∈ s.msgs, sqOp o.entry ≠ 0x0402) ∧ j.limit ≠ 0 ∧ j.paused = false ∧
    (j.st = .running ∧ j.left = 0 ∧ p.2.1 = (if j.drain.getLsbD 2 then 0x0401 else 0) ∨
      j.st = .ended p.2.1 ∧ p.2.1 < 65536 ∧ (p.2.1 ≠ 0x0204 ∨ j.failPass = p.2.2.2)) := by
  simp only [Answerable]; decide +kernel
/-- Its submission and the JOB_CANCEL that named it, in one queue pair. -/
theorem witness_JobCancelled : let m := { submitMsg 16 with applied := true }
    let k := { msgOf 7 0x0402 [(3, 64), (7, 80), (0, 96), (1, 112)] true true with id := ⟨7, 1⟩ }
    let s := endState { jobOf (.ended 0x0102) with cancelled := true, failPass := 0xFFFF, msg := some m.id } [k]
    Answerable s m 0x0401 ∧ Answerable s k 0x0402 ∧ s.msgs = [m, k] ∧ sqHandle k.entry = job7 ∧ m.id.src < 1024 ∧
    (s.port (s.ownerOf m.id.src)).d3 = false := by
  simp only [Answerable]; decide +kernel

/-- A cadence plan, its stream, and the messages on them. -/
def planC : Plan := { plan0 with
  flags := 4, fields := plan0.fields.map fun p => { p with descs := [descOf [(4, 0), (5, 88)]] }
  segs := [{ inLen := 16, outLen := 64, inField := 0, inOff := 0, cadence := true }]
  almanacs := [[{ seg := 0, deadline := 500, occupy := 100, budget := 6 }]] }
def armMsg : Msg := msgOf 7 0x0501 [(2, 64), (7, 80), (0, 96), (3, 112), (0, 128), (0, 144), (1000, 160), (0, 208), (0x8000, 256), (0xABC000, 320),
  (5, 384), (6, 392)]
def streamC : Machine.Stream := armedStream armMsg 0 planC 3
def withStream (m : Msg) (xs : List Machine.Stream) : State :=
  { withPlan (atMsg m) with plans := [(0, planC)], streams := xs.map fun x => (0, x) }
/-- The same with a pool of which one lantern is free. -/
def poor (s : State) : State := { s with requests := [(0, { pool := some 2000 })], lanterns := { rows := [(2, 1999)] } }

theorem witness_CadenceArm : ∀ f ∈ [id, poor], let s := f (withStream armMsg [])
    let x := armedStream armMsg 0 planC (Sparse.get 0 s.streamGens 0)
    Next s armMsg 0x0501 ∧ s.planOf (sqHandle armMsg.entry) = some 0 ∧ s.plan 0 = some planC ∧ planC.owner < 1024 ∧
    s.ownerOf planC.owner = s.ownerOf armMsg.id.src ∧ s.isReady = true ∧ planC.sealed = true ∧ planC.broken = false ∧
    eNum armMsg.entry 16 2 = 0 ∧ s.stream 0 = none ∧ x.rangeOk planC 0 = true ∧ s.armFree x = true ∧ s.armWaits x = false ∧
    ∀ g ∈ s.streamFields x, (s.field g).health = .healthy := by
  intro f hf
  simp only [List.mem_cons, List.not_mem_nil, or_false] at hf
  rcases hf with e | e <;> subst e <;> exact ⟨next_of (by decide +kernel), by decide +kernel⟩
theorem witness_CadenceArmAnswers : let s := withStream armMsg []
    ((s.reservation streamC).map (·.2)).sum ≤ s.freePool ∧ (poor s).freePool < (((poor s).reservation streamC).map (·.2)).sum := by
  decide +kernel

def halted : Machine.Stream := { streamC with halted := true, holds := false, cons := 4, nextTick := 17, misses := 2 }
theorem witness_CadenceMessages : ∀ op ∈ [0x0502, 0x0503, 0x0504], let m := msgOf 7 op [(4, 64), (7, 80), (0, 96), (3, 112)]
    let s := withStream m [halted]
    Next s m op ∧ s.streamOf (sqHandle m.entry) = some 0 ∧ s.stream 0 = some halted ∧ halted.owner = m.id.src ∧ halted.halted = true ∧
    halted.disarming = false ∧ halted.holds = false ∧ halted.ticks = [] ∧ s.plan halted.plan = some planC ∧ planC.broken = false ∧
    ((s.reservation halted).map (·.2)).sum ≤ s.freePool ∧ (∀ o ∈ s.msgs, o = m ∨ sqOp o.entry ≠ 0x0503) ∧
    (poor s).freePool < (((poor s).reservation halted).map (·.2)).sum ∧
    ∀ g ∈ s.streamFields halted, (s.field g).health = .healthy := by
  refine fun op ho => ⟨next_of ?_, ?_⟩ <;> (revert op; decide +kernel)
theorem witness_CadenceHeld : let m := msgOf 7 0x0502 [(4, 64), (7, 80), (0, 96), (3, 112)]
    let s := fieldIs { cmdMode := some 9 } (withStream m [halted])
    Next s m 0x0502 ∧ (∃ f ∈ s.streamFields halted, (s.field f).cmdMode ≠ none) ∧ s.stream 0 = some halted ∧
    { halted with ticks := [{ n := 1, slot := 0, sample := 0, noInput := true, entry := 0, tn := 0 }] }.ticks ≠ [] :=
  ⟨next_of (by decide +kernel), ⟨0, by decide +kernel, by decide +kernel⟩, by decide +kernel, by decide⟩
theorem witness_ArmReservationTimeout : let m := msgOf 7 0x0502 [(4, 64), (7, 80), (0, 96), (3, 112)]
    Next (poor (withStream m [halted])) m 0x0502 := next_of (by decide +kernel)
/-- A stream whose parts wake, with its reservation or without it any more; and the parts at run. -/
def armingC (h : Bool) : Machine.Stream :=
  { streamC with halted := true, holds := h, arming := some armMsg.id, cause := if h then none else some (0x0601, [1]) }
def partsRun (s : State) : State := { s with cores := [(0, { level := .run })], edges := [(0, { level := .run })] }
theorem witness_CadenceArming : ∀ h : Bool, ∀ f ∈ [id, partsRun], let s := f (withStream armMsg [armingC h])
    let m := msgOf 7 0x0502 [(4, 64), (7, 80), (0, 96), (3, 112)]
    let r := f (withStream m [armingC h])
    Next s armMsg 0x0501 ∧ Next r m 0x0502 ∧ s.planOf (sqHandle armMsg.entry) = some 0 ∧ s.stream (eNum armMsg.entry 16 2) = some (armingC h) ∧
    (armingC h).arming = some armMsg.id ∧ r.streamOf (sqHandle m.entry) = some 0 ∧ (armingC h).arming = some m.id ∧
    (armingC h).owner = m.id.src ∧ (armingC h).holds = h ∧ (h = false → (armingC h).cause = some (0x0601, [1])) := by
  intro h f hf
  simp only [List.mem_cons, List.not_mem_nil, or_false] at hf
  rcases hf with e | e <;> subst e <;> refine ⟨next_of ?_, next_of ?_, ?_⟩ <;> (revert h; decide +kernel)
theorem witness_CadenceAwake : (∀ q ∈ (withStream armMsg []).streamCores streamC, ((partsRun (withStream armMsg [])).core q.1 q.2).level = .run) ∧
    (∀ g ∈ (withStream armMsg []).streamFields streamC, ((partsRun (withStream armMsg [])).edge g).level = .run ∧
      ((partsRun (withStream armMsg [])).field g).service = .run) ∧
    ((withStream armMsg []).core 0 0).level ≠ .run ∧ (0, 0) ∈ (withStream armMsg []).streamCores streamC := by decide +kernel
/-- R364: an arm waits while a core of its stream sleeps, and is done once the core and the edge unit are at run. -/
theorem test_arm_waits : ((ran (.cadenceArm armMsg.id) (withStream armMsg [])).stream 0).map (·.halted) = some true ∧
    ((ran (.cadenceArm armMsg.id) (partsRun (withStream armMsg []))).stream 0).map (·.halted) = some false := by decide +kernel

/-- StreamEventsAct: a tick to send without an input, with one, and while the input's place is still read. -/
def tickC (n : Nat) : Tick := { n, slot := 0, sample := 7, noInput := true, entry := 0, tn := 123456 }
def jobC (n : Nat) (st : JobState) : Job :=
  { jobOf st with handle := tickHandle 0 n, tick := some (0, n), msg := none, left := if st = .running then 0 else 1, drain := 4, outs := [(0, input16, false)] }
def streamState (x : Machine.Stream) (js : List Job := []) : State := { withStream armMsg [x] with jobs := js }
theorem witness_StreamEvents :
    ∀ p ∈ [(5, []), (7, []), (7, [{ jobC 16 .running with left := 1 }])],
     let x := { streamC with acc := BitVec.ofNat 32 p.1, prod := 5, cons := 5, orel := 0xFFFFFFFE, outw := 0, nextTick := 17
                             ticks := p.2.map fun j => tickC ((j.tick.map (·.2)).getD 0) }
     let s := streamState x p.2
     s.stream 0 = some x ∧ (s.streamSeg x).map (fun q => (q.1, q.2.inField)) = some (planC, 0) ∧ (planC.inField 0).isSome = true ∧
     x.halted = false ∧ x.disarming = false ∧ s.vigil.phase = .up ∧ (x.outw - x.orel).toNat + x.ticks.length ≤ 2 ^ x.outLog2 - 2 ∧
     (∀ k ∈ x.ticks, ∀ j, s.tickJob 0 k.n = some j → j.isEnded = false) ∧ (planC.fields.map (·.field)).Nodup := by
  have h : ∀ p ∈ [(5, []), (7, []), (7, [{ jobC 16 .running with left := 1 }])],
     let x := { streamC with acc := BitVec.ofNat 32 p.1, prod := 5, cons := 5, orel := 0xFFFFFFFE, outw := 0, nextTick := 17
                             ticks := p.2.map fun j => tickC ((j.tick.map (·.2)).getD 0) }
     let s := streamState x p.2
     s.stream 0 = some x ∧ (s.streamSeg x).map (fun q => (q.1, q.2.inField)) = some (planC, 0) ∧ (planC.inField 0).isSome = true ∧
     x.halted = false ∧ x.disarming = false ∧ s.vigil.phase = .up ∧ (x.outw - x.orel).toNat + x.ticks.length ≤ 2 ^ x.outLog2 - 2 ∧
     (x.ticks.all fun k => (s.tickJob 0 k.n).all fun j => !j.isEnded) = true ∧ (planC.fields.map (·.field)).Nodup := by decide +kernel
  intro p hp
  obtain ⟨h1, h2, h3, h4, h5, h6, h7, h8, h9⟩ := h p hp
  refine ⟨h1, h2, h3, h4, h5, h6, h7, fun k hk j hj => ?_, h9⟩
  have := List.all_eq_true.1 h8 k hk
  rw [hj] at this; simpa using this
/-- The oldest tick: without a job, with one that is done, with one that ended; misses of a tick out and of one not yet sent. -/
theorem witness_StreamDeliveries : ∀ js ∈ [[], [jobC 20 .running], [jobC 20 (.ended 0x0302)]],
    let x := { streamC with ticks := [tickC 20, tickC 21], outw := 70, misses := 2, missLimit := 3, nextTick := 22 }
    let s := streamState x js
    s.stream 0 = some x ∧ (s.streamSeg x).isSome = true ∧ s.tickJob 0 20 = js.head? ∧ (tickC 20).ended = none ∧ (tickC 20).missed = false ∧
    x.halted = false ∧ x.disarming = false ∧ (s.port (s.ownerOf x.owner)).d3 = false ∧ s.mesh.packets = [] ∧
    (∀ j ∈ js, j.left = 0 ∨ j.st ≠ .running) ∧ s.outstandingOf (tickHandle 0 20) = false ∧ 23 ∉ x.missedAhead ∧ x.nextTick ≤ 23 := by
  decide +kernel
/-! ### Windows, fabric, service and reset messages; queues and ports: states that meet the premises -/

/-- WindowMessagesAct: a free field, one that a job uses, and one whose command mode ends with words waiting or not. -/
def busyField (s : State) : State := { s with jobs := [jobOf], plans := [(0, plan0)] }
def withMode (s : State) (q : Option Nat) : State := { s with fields := [(0, { cmdMode := q })] }
theorem witness_WindowMode : ∀ on < 2, ∀ mode ∈ [none, some 7], let m := msgOf 7 0x0601 [(0, 128), (on, 136)]
    let s := withMode (atMsg m) mode
    Next s m 0x0601 ∧ sqHandle m.entry = 0 ∧ Host_ m ∧ eByte m.entry 16 = 0 ∧ eByte m.entry 17 = on ∧ (s.field 0).health ≠ .lost ∧
    (s.field 0).cmdMode = mode ∧ s.fieldBusy 0 = false ∧ (busyField s).fieldBusy 0 = true ∧ ∀ c < 8, (s.core 0 c).fifo = [] := by
  simp only [Host_]
  refine fun on ho mode hm => ⟨next_of ?_, ?_⟩ <;> (revert on mode; decide +kernel)
theorem witness_WindowBase : ∀ b ∈ [0, 0x02FC00000000], let m := msgOf 7 0x0602 [(b, 128)]
    Next (atMsg m) m 0x0602 ∧ eNum m.entry 16 8 = b ∧ b % 2 ^ 34 = 0 ∧ b ≤ 0x02FC00000000 := by
  refine fun b hb => ⟨next_of ?_, ?_⟩ <;> (revert b; decide +kernel)
theorem witness_WindowQuery : Next (atMsg (msgOf 7 0x0603)) (msgOf 7 0x0603) 0x0603 := next_of (by decide +kernel)

/-- FabricMessagesAct. -/
def neighbours : List Byte := (List.range 64).flatMap fun l => leBytes 4 (l * 131 % 2 ^ 15 + 2 ^ 16 * l)
def fabric0 : Fabric := { owner := 2, gen := 1, domain := 3, ordinal := 9, routes := [(5, BitVec.ofNat 128 (4 + 2 ^ 116))] }
def withFabric (s : State) : State := { s with fabStaged := some fabric0, fabGen := 2 }
theorem witness_FabricStage : ∀ tmo ∈ [0, 10000],
    let m := msgOf 2 0x0801 [(1, 18), (1, 16), (0xC0FFEE000, 128), (256, 192), (3, 256), (32767, 272), (tmo, 288)]
    Next (atMsg m) m 0x0801 ∧ sqHandle m.entry = 0 ∧ Paid m (.ok neighbours) neighbours ∧ neighbours.length = 256 ∧
    eNum m.entry 34 2 < 2 ^ 15 ∧ eNum m.entry 36 4 = tmo ∧ (atMsg m).fabStaged = none ∧
    ∀ l < 64, num neighbours (4 * l) 4 / 2 ^ 15 % 2 = 0 ∧ num neighbours (4 * l) 4 / 2 ^ 22 % 2 ^ 9 = 0 := by
  simp only [Paid, Host_]
  refine fun t ht => ⟨next_of ?_, ?_⟩ <;> (revert t; decide +kernel)
def routes3 : List Byte := (List.range 3).flatMap fun l => leBytes 16 (l * 0x1234567890ABCDEF1234567)
theorem witness_FabricRoutes :
    let m := msgOf 2 0x0802 [(1, 18), (1, 16), (0xC0FFEE000, 128), (48, 192), (6, 64), (2, 80), (0, 96), (1, 112), (32765, 256), (3, 288)]
    let s := withFabric (atMsg m)
    Next s m 0x0802 ∧ s.fabStaged = some fabric0 ∧ fabNamed (sqHandle m.entry) (some fabric0) = true ∧ fabric0.owner = m.id.src ∧
    Paid m (.ok routes3) routes3 ∧ eNum m.entry 32 4 + eNum m.entry 36 4 = 32768 ∧ routes3.length = 16 * eNum m.entry 36 4 ∧
    ∀ k < 3, num routes3 (16 * k) 16 / 2 ^ 117 = 0 := by
  simp only [Paid, Host_]
  exact ⟨next_of (by decide +kernel), by decide +kernel⟩
theorem witness_FabricMessages :
    (let m := msgOf 2 0x0803 [(6, 64), (2, 80), (0, 96), (1, 112)]
     let s := withFabric (atMsg m)
     Next s m 0x0803 ∧ fabNamed (sqHandle m.entry) (some fabric0) = true ∧ s.fabricBusy = false) ∧
    (∀ on < 2, ∀ src ∈ [2, 1024], let m := msgOf src 0x0804 [(0x8000000000000038, 128), (on, 192)]
      Next (atMsg m) m 0x0804 ∧ Control m ∧ eByte m.entry 24 = on ∧ m.entry.extractLsb' 128 64 = 0x8000000000000038#64) ∧
    Next (atMsg (msgOf 2 0x0805)) (msgOf 2 0x0805) 0x0805 := by
  simp only [Control]
  refine ⟨⟨next_of (by decide +kernel), by decide +kernel⟩, fun on ho src hs => ⟨next_of ?_, ?_⟩, next_of (by decide +kernel)⟩ <;>
    (revert on src; decide +kernel)

/-- ServiceMessagesAct. -/
theorem witness_FwWrite : ∀ i < 2, let m := msgOf 2 0x0C01 [(1, 18), (1, 16), (0xC0FFEE000, 128), (4096, 192), (i, 256), (0x3FBF000, 288)]
    let bs : List Byte := List.replicate 4096 7
    Next (atMsg m) m 0x0C01 ∧ sqHandle m.entry = 0 ∧ Paid m (.ok bs) bs ∧ eByte m.entry 32 = i ∧ eNum m.entry 36 4 = 0x3FBF000 ∧
    0x3FBF000 % 4096 = 0 ∧ 0x3FBF000 + bs.length ≤ 0x3FC0000 ∧ (atMsg m).vigil.fwRun = 0 ∧ (atMsg m).vigil.noFirmware = none := by
  simp only [Paid, Host_]
  refine fun t ht => ⟨next_of ?_, ?_⟩ <;> (revert t; decide +kernel)
theorem witness_FwMessages : (∀ op ∈ [0x0C02, 0x0C04], Next (atMsg (msgOf 2 op)) (msgOf 2 op) op) ∧
    ∀ k ∈ [1, 2], let m := msgOf 2 0x0C03 [(k, 128)]
      Next (atMsg m) m 0x0C03 ∧ eByte m.entry 16 = k ∧ (1 < k ∨ ((atMsg m).fwSlot k).verdict ≠ 0) := by
  refine ⟨fun op ho => next_of ?_, fun k hk => ⟨next_of ?_, ?_⟩⟩
  · revert op; decide +kernel
  · revert k; decide +kernel
  · revert k; decide +kernel
theorem witness_DiagMessages :
    (let m := msgOf 2 0x0D02 [(95, 136), (15, 152)]
     let s := atMsg m
     Next s m 0x0D02 ∧ eByte m.entry 16 = 0 ∧ eByte m.entry 17 = 95 ∧ eByte m.entry 19 = 15 ∧ (s.field 95).health ≠ .lost ∧
     s.vigil.diag = [] ∧ s.plans = []) ∧
    (let m := msgOf 2 0x0D02 [(95, 136), (15, 152)] true true
     Answerable { atMsg m with vigil := { (atMsg m).vigil with diag := [⟨some m.id, some 95⟩, ⟨none, some 4⟩] } } m 0x0D02) ∧
    (let m := msgOf 2 0x0D02 [(1, 128), (1, 136), (3, 144)]
     Next (atMsg m) m 0x0D02 ∧ eByte m.entry 16 = 1 ∧ eByte m.entry 19 ≤ 15 ∧
      (eByte m.entry 17, eByte m.entry 18) ∈ (atMsg m).vigil.spares) ∧
    ∀ kind < 3, let m := msgOf 2 0x0D03 [(0, 128), (7, 136), (127, 144), (1, 152), (2047, 160), (7, 176), (kind, 184),
        (if kind = 2 then 0 else 63, 192), (0, 200)]
      Next (atMsg m) m 0x0D03 ∧ injectOk m.entry = true ∧ eByte m.entry 23 = kind ∧ (atMsg m).fieldBusy 0 = false ∧
      (busyField (atMsg m)).fieldBusy 0 = true := by
  simp only [Answerable]
  refine ⟨⟨next_of (by decide +kernel), by decide +kernel⟩, by decide +kernel, ⟨next_of (by decide +kernel), by decide +kernel⟩,
    fun kind hk => ⟨next_of ?_, ?_⟩⟩ <;> (revert kind; decide +kernel)

/-- ResetMessagesAct: no self-test failure, and more failed fields than there are spares. -/
theorem witness_ResetMessages : ∀ op ∈ [0x0010, 0x0011], let m := msgOf 2 op
    Next (atMsg m) m op ∧ Control m ∧ sqHandle m.entry = 0 ∧ selfTestOk ⟨[], []⟩ = true ∧ selfTestOk ⟨physFields.take 11, []⟩ = true ∧
    (atMsg m).msgs = [m] ∧ (atMsg m).jobs = [] ∧ (atMsg m).streams = [] ∧ (atMsg m).vigil.holdReset = false ∧
    (atMsg m).vigil.holdPower = false := by
  simp only [Control]
  refine fun op ho => ⟨next_of ?_, ?_⟩ <;> (revert op; decide +kernel)

/-- ResetMessagesAct, FW_ACTIVATE of the slot that the unit shipped with. -/
theorem witness_FwActivate : let m := msgOf 2 0x0C03
    Next (atMsg m) m 0x0C03 ∧ eByte m.entry 16 = 0 ∧ ((atMsg m).fwSlot 0).verdict = 0 :=
  ⟨next_of (by decide +kernel), by decide +kernel⟩

/-- QueuesAdvance: a ring at its wrap with three entries to fetch and two unreleased completions; the doorbell values at the ends of what is
accepted; the entry fetched. -/
def ring7 : Queue := {
  st := .active, sqBase := 0x10000, cqBase := 0x20000, sqLog2 := 4, cqLog2 := 4, h := 65530, t := 65533, w := 9, r := 7
  unsignalled := 3, stamps := [(65530, 5)], written := [(7, 0x1234), (8, 0x77)] }
def ringState (p : Phase) : State := { State.reset with queues := [(7, ring7)], vigil := { State.reset.vigil with phase := p } }
theorem witness_QueuesAdvance : (ringState .up).ownerOf 7 = 3 ∧ (ringState .up).nextFetch = some 7 ∧ ring7.st ≠ .uncreated ∧
    (ringState .up).vigil.standby = true ∧ ring7.unsignalled ≠ 0 ∧ ((ringState .up).port 3).d3 = false ∧
    (∀ v ∈ [65533, 9], v < 65536 ∧ (v + 65536 - ring7.h % 65536) % 65536 ≤ 2 ^ ring7.sqLog2 - 1 ∧
      (v + 65536 - ring7.t % 65536) % 65536 < 32768) ∧
    ¬(10 + 65536 - ring7.h % 65536) % 65536 ≤ 2 ^ ring7.sqLog2 - 1 ∧
    (let bs := leBytes 64 (msgOf 7 0x0001 [(3, 24)]).entry.toNat
     let e := BitVec.ofNat 512 (leNat (bs.take 64))
     64 ≤ bs.length ∧ (msgSpec (sqOp e)).isSome = true ∧ (msgSpec (sqOp e)).all (entryOk e) = true) ∧
    (ringState .vigil).vigil.phase = .vigil := by decide +kernel

/-- HostRegistersAct: a port with an event pending behind its mask and a vector pending; one in D3hot; one with its admin queue to take down. -/
def portState (x : Port) (q : Sparse Queue) : State := { State.reset with ports := [(2, x)], queues := q }
theorem witness_HostRegisters :
    (let s := portState { msixEnable := true, msixPending := [2], eventCause := 0xFF, eventMask := 0xF, msixTable := [(2, 0)] } []
     s.vigil.phase = .up ∧ (s.port 0).crs = false ∧ (s.port 2).d3 = false ∧ (s.port 2).msixEnable = true ∧ (s.port 2).funcMask = false ∧ s.ownsVector 2 2 = true ∧
     2 ∈ (s.port 2).msixPending ∧ (s.port 2).enable = false ∧ (s.queue 2).st = .uncreated ∧
     (s.counter (portBlock 2) 3).val + 1 < 65535) ∧
    (let s := portState { d3 := true, held := [.msix 2 3] } []
     (s.port 2).d3 = true) ∧
    (let s := portState { enable := true } [(2, { st := .active })]
     (s.port 2).enable = true) ∧
    (let s := portState {} [(2, { st := .active, deleting := true, gen := 65535 })]
     (s.queue 2).deleting = true ∧ (s.port 2).enable = false ∧ s.msgs = []) ∧
    ((State.reset.port 2).enable = false ∧ (State.reset.queue 2).st = .uncreated) ∧
    ((0x10404 : Word).getLsbD 16 = true ∧ (0x10404 : Word).toNat % 32 = 4 ∧ (0x10404 : Word).toNat / 256 % 32 = 4) ∧
    ((0x11111 : Word).toNat % 32 = 17 ∧ (0x10403 : Word).toNat % 32 = 3) ∧ (0x0404 : Word).getLsbD 16 = false := by decide +kernel
/-- R10, R11, Table 14-4: PORT_ID of port 2 names the unit, an admin queue that is up answers READY, and a reserved offset reads as 0. -/
theorem test_bar_reads : State.reset.barRead 2 0x60 8 = List.replicate 8 0 ∧ (State.reset.barRead 2 0 8).length = 8 ∧
    State.reset.barRead 2 0x14 4 = [0, 0, 0, 0] := by decide +kernel
/-- R400: while RESET_L holds a start, IDREV reads 0. -/
theorem test_bar_held : let s : State := { State.reset with vigil := { State.reset.vigil with phase := .waking, holdReset := true } }
    s.barLive = false ∧ s.barRead 0 0 8 = List.replicate 8 0 ∧ s.barRead 0 8 1 = [2] := by decide +kernel

/-- WindowAccessesAct: an access that ends at the last byte it may, in each region; nothing held, and few reads in progress. -/
def winState (bar : Nat) (f : State → State := id) : State := f { State.reset with
  ports := [(2, { bar2 := BitVec.ofNat 64 bar })], plans := [(0, plan0)]
  mem := { cells := comCells 0x2000 [0x1122334455667788] ++ [(bulkAddr 3 + 5, { data := 77, good := 77 })] }
  slots := [(3, { present := true, st := .active, everActive := true })] }
/-- Command mode with a number of words in core 0's FIFO; a module whose link trains, and one whose engines a pass holds. -/
def cmdFull (n : Nat) (s : State) : State := { s with
  fields := [(0, { cmdMode := some 7 })], cores := [(0, { level := .run, fifo := List.replicate n { port := 2, bu := none, w := 0 } })] }
def training (s : State) : State := { s with slots := [(3, { present := true, st := .lock, everActive := true })] }
def heldSlot (s : State) : State := { s with slots := [(3, { present := true, st := .active, everActive := true, holder := some (0, 0, 4) })] }
theorem witness_WindowAccesses :
    (let s := winState 0x800000000
     regionOf (0x800000000 + 0x3007) = .commons 0 0x3007 ∧ s.wayPinned 0 0x3007 = true ∧ 0x3007 % 8 + 1 ≤ 8 ∧ (s.port 2).stalled = [] ∧
     (s.field 0).health = .healthy ∧ s.winReqs = [] ∧ (s.winReqs.filter fun x => x.port = 2).length < 256 ∧ s.bus = [] ∧ s.streams = [] ∧
     (s.port 2).d3 = false ∧ (s.mem.get (commonsAddr 0 + 0x3007 / 8)).data = (s.mem.get (commonsAddr 0 + 0x3007 / 8)).good ∧
     (s.mem.get (commonsAddr 0 + 0x3007 / 8)).poison = false) ∧
    (regionOf (0xFFFFFFF) = .bank 0 ∧ 0xFFFFFFF % 64 + 1 ≤ 64 ∧ 0xFFFFFFF % 4096 + 1 ≤ 4096) ∧
    (let s := { winState 0 with fields := [(0, { health := .lost })] }
     (s.field 0).health ≠ .healthy) ∧
    (let a := 0x10000000000 + 3 * 2 ^ 37 + 0x28
     let s := winState 0x10000000000
     regionOf a = .bulk 3 0x28 ∧ s.slotUp 3 = true ∧ (s.slot 3).st = .active ∧ (s.slot 3).holder = none ∧
     (winState 0x10000000000 training).slotUp 3 = true ∧ ((winState 0x10000000000 training).slot 3).st ≠ .active) ∧
    (∀ n ∈ [0, 63, 64], let s := winState 0xC00000000 (cmdFull n)
     regionOf (0xC00000000 + 2 ^ 20 + 16) = .command 0 (2 ^ 20 + 16) ∧ cmdAddrOk (2 ^ 20 + 16) = true ∧ commandOk (ins 0x02 [(1, 45)]) = true ∧
     (s.field 0).cmdMode ≠ none ∧ (s.core 0 0).fifo.length = n ∧ (s.port 2).stalled = []) ∧
    (let s := winState 0
     engWordOk 0x0100000000000000 = true ∧ (s.engine 3 7).queue.length < 64 ∧ ((winState 0 heldSlot).slot 3).holder ≠ none ∧
     (winState 0 heldSlot).slotUp 3 = true) := by decide +kernel
/-- R343: a poisoned write to a word of the commons. -/
theorem test_poisoned_write : let t := ran (.windowWrite 2 0x3000 (List.replicate 8 (some 1)) true) (winState 0x800000000)
    regionOf (0x800000000 + 0x3000) = .commons 0 0x3000 ∧ (winState 0x800000000).wayPinned 0 0x3000 = true ∧
    (t.mem.get (commonsAddr 0 + 0x3000 / 8)).poison = true ∧ (t.port 2).conf.uncorrectable = 0x1000 := by decide +kernel
/-! ### Engines, moves and reductions: states that meet the premises -/

/-- An engine word, and a module whose engine 2 has it at the front, with registers at the ends of their range. -/
def engWord (op d a imm : Nat) : Word := BitVec.ofNat 64 (op * 2 ^ 56 + d * 2 ^ 51 + a * 2 ^ 46 + imm)
def engState (w : Word) (held : Nat := 0) : State := { State.reset with
  slots := [(3, { present := true, st := .active, everActive := true, engines := [(2, {
    queue := [(w, none), (0, none)], bufLine := 0xFFFFFFF - 4, bufLen := held, px := 3, py := 0xFFFFFFF, pz := 9, done := 0xFFFFFFFF
    regs := [(1, { val := 0x7FFFFFFFFFFF, sat := true }), (2, { val := 0x800000000000, poison := true }), (31, { val := 5 })] })] })] }
theorem witness_EngineWords : ∀ q ∈ [(0x01, 1, 0, 0), (0x02, 31, 0, 0xFFFFFFF), (0x03, 1, 0, 100), (0x04, 1, 31, 0), (0x05, 2, 0, 47), (0x06, 30, 0, 1),
      (0x08, 0, 0, 0xFFFFFFF), (0x09, 0, 0, 0), (0x0A, 0, 0, 7)],
    let w := engWord q.1 q.2.1 q.2.2.1 q.2.2.2
    let s := engState w
    (s.slot 3).present = true ∧ engWordOk w = true ∧ (s.engine 3 2).queue = [(w, none), (0, none)] ∧ w.toNat / 2 ^ 56 = q.1 ∧
    (s.engine 3 2).bufLen = 0 ∧ s.mem = {} := by decide +kernel
/-- DOT of 100 bytes whose y line 0xFFFFFFF the vector buffer holds, two lines of it; and of which it holds one. -/
theorem witness_DotBuffered : ∀ n ∈ [5, 6], let g := (engState (engWord 0x03 1 0 100) n).engine 3 2
    (100 * 1 ≤ 8192 ∧ g.bufLine ≤ g.py.toNat) ∧ (g.py.toNat + (100 + 63) / 64 ≤ g.bufLine + g.bufLen ↔ n = 6) := by decide +kernel

/-- R269: SHR of 5 by 1 rounds the tie to even. -/
theorem test_eng_shr : (((ran (.engShr 3 2 (engWord 0x05 31 0 1)) (engState (engWord 0x05 31 0 1))).engine 3 2).reg 31).val = 2 := by
  decide +kernel

/-- MovesAct: each kind, from the commons of field 0; its module up, down, and with another holder. -/
def moveDesc (kind len : Nat) (src dst : Word) : Desc := descOf [(9, 0), (kind, 832), (len, 864), (src.toNat, 896), (dst.toNat, 960)]
def moveState (d : Desc) (sl : Slot) : State := { atCore [passOf d] (comCells 0x2000 ((List.range 16).map fun i => 0x0100000000000000 + i)) with
  slots := [(3, sl)], plans := [(0, { plan0 with fields := plan0.fields ++ plan0.fields.map fun p => { p with field := 5, comBase := 8192 } })] }
def slotUp0 : Slot := { present := true, st := .active, everActive := true }
def bulkFa (m unit : Nat) : Word := BitVec.ofNat 64 (m * 2 ^ 45 + 2 * 2 ^ 40 + unit)

theorem moveState_alone (d : Desc) (sl : Slot) (h : Desc.kind d = 9 ∧ Desc.deps d = [] ∧ Desc.lantern d ≤ 2) :
    Claims.Alone (moveState d sl) 0 0 (passOf d) 9 := ⟨by decide, by decide, rfl, rfl, h.1, rfl, rfl, rfl, rfl, h.2.1, h.2.2, rfl⟩

theorem witness_Moves : ∀ q ∈ [(1, mkFa 0 5 1 0x3000), (2, mkFa 3 5 1 0x3000), (3, bulkFa 3 77), (4, bulkFa 3 2)],
    let d := moveDesc q.1 64 (mkFa 0 0 1 0x2000) q.2
    let s := moveState d slotUp0
    Claims.Alone s 0 0 (passOf d) 9 ∧ (passOf d).done = false ∧ Desc.mvKind d = q.1 ∧ Desc.mvLen d / 64 = 1 ∧
    (match s.endpoint 0 (moveSrc d) 0 with
      | some a => (List.range 8).all fun k => decide ((s.mem.get (a + k)).data = (s.mem.get (a + k)).good) && !(s.mem.get (a + k)).poison
      | none => false) = true ∧
    (q.1 = 1 ∨ q.1 = 3 → (s.endpoint 0 (moveDst d) 0).isSome = true) ∧ (2 < q.1 → s.slotUp 3 = true ∧ (s.slot 3).holder = none) ∧
    (q.1 = 3 → moveSlot d = 3) ∧ (q.1 = 4 → fld (moveDst d) 45 4 = 3 ∧ moveEngine d = some 2 ∧ (s.engine 3 2).queue = []) ∧
    (2 < q.1 → (moveState d {}).slotUp 3 = false) ∧
    (2 < q.1 → s.moveCut d = false ∧ s.brimCutFrom (faField (moveSrc d)) (slotSegment 3) = false ∧ (s.slot 3).st = .active ∧
      (moveState d { slotUp0 with st := .lock }).slotUp 3 = true ∧ ((moveState d { slotUp0 with st := .lock }).slot 3).st ≠ .active ∧
      ((moveState d { slotUp0 with holder := some (0, 1, 9) }).slot 3).holder = some (0, 1, 9) ∧ faRegion (moveSrc d) ≠ 2) ∧
    (q.1 = 3 → faRegion (moveDst d) = 2) ∧ s.job (passOf d).job = some jobOf := by
  have h : ∀ q ∈ [(1, mkFa 0 5 1 0x3000), (2, mkFa 3 5 1 0x3000), (3, bulkFa 3 77), (4, bulkFa 3 2)],
      let d := moveDesc q.1 64 (mkFa 0 0 1 0x2000) q.2
      Desc.kind d = 9 ∧ Desc.deps d = [] ∧ Desc.lantern d ≤ 2 := by decide +kernel
  refine fun q hq => ⟨moveState_alone _ _ (h q hq), ?_⟩
  revert q; decide +kernel

/-- ReductionsAct: cores 2, 5 and 7 take part: core 2 has an even rank and a partner, core 5 an odd one. -/
def reduceDesc : Desc := descOf [(6, 0), (0xA4, 840), (1, 9)]
def reduceState (c : Nat) (wp : WinPass) : State := { atCore [] with
  cores := [(c, { level := .run, window := [wp], serials := 9 })]
  bus := (List.range 128).map fun u => (c * 128 + u, { groups := [(1, { isOpen := true, base := 2, count := 1 })] }) }
theorem reduce_open : ∀ c ∈ [2, 5], ∀ u < 128, ((reduceState c (passOf reduceDesc)).bu 0 c u).group (Desc.grp reduceDesc) =
    { isOpen := true, base := 2, count := 1 } := by decide +kernel
theorem witness_ReductionsAct : ∀ p ∈ [(0, 2), (1, 5)],
    let s := reduceState p.2 (passOf reduceDesc)
    Claims.Alone s 0 p.2 (passOf reduceDesc) 6 ∧ Desc.rdLevel reduceDesc = 0 ∧
    ((List.range 8).filter fun i => (Desc.rdCores reduceDesc).testBit i)[p.1]? = some p.2 ∧ (passOf reduceDesc).round = 0 := by
  intro p hp
  simp only [List.mem_cons, List.not_mem_nil, or_false] at hp
  rcases hp with e | e <;> subst e
  · exact ⟨⟨by decide, by decide, rfl, rfl, by decide +kernel, rfl, rfl, rfl, rfl, by decide +kernel, by decide +kernel, rfl⟩, by decide +kernel,
      by decide +kernel, rfl⟩
  · exact ⟨⟨by decide, by decide, rfl, rfl, by decide +kernel, rfl, rfl, rfl, rfl, by decide +kernel, by decide +kernel, rfl⟩, by decide +kernel,
      by decide +kernel, rfl⟩

/-- A participant of odd rank at the levels of fields and of units, and one that is alone. -/
def reduceOf (level fields first units : Nat) : Desc :=
  descOf [(6, 0), (level, 832), (fields, 848), (first, 960), (units, 976), (if level = 0 then 4 else 0, 840), (1, 9)]
def unitsState (d : Desc) : State := { reduceState 2 (passOf d) with fabActive := some { owner := 2, gen := 1, ordinal := 9, routes := [(8, BitVec.ofNat 128 (4 + 2 ^ 116))] } }
theorem witness_ReduceLevels : ∀ q ∈ [(1, 2 ^ 70 + 1, 0, 0, 0), (2, 0, 8, 3, 1), (0, 0, 0, 0, 0)],
    let d := reduceOf q.1 q.2.1 q.2.2.1 q.2.2.2.1
    let s := unitsState d
    Claims.Alone s 0 2 (passOf d) 6 ∧ Desc.rdLevel d = q.1 ∧ (passOf d).round = 0 ∧ Desc.dest d = 0 ∧
    (q.1 = 1 → ((List.range 96).filter fun i => (Desc.rdFields d).testBit i)[q.2.2.2.2]? = some 0) ∧
    (q.1 = 2 → ((List.range (Desc.rdUnits d)).map (Desc.rdFirst d + ·))[q.2.2.2.2]? = some s.ordinal ∧ (s.routeEntry 8).getLsbD 116 = true ∧
      8 ≠ s.ordinal) ∧
    (q.1 = 0 → ((List.range 8).filter fun i => (Desc.rdCores d).testBit i) = [2]) := by
  intro q hq
  have h : ∀ q ∈ [(1, 2 ^ 70 + 1, 0, 0, 0), (2, 0, 8, 3, 1), (0, 0, 0, 0, 0)],
      let d := reduceOf q.1 q.2.1 q.2.2.1 q.2.2.2.1
      let s := unitsState d
      (Desc.kind d = 6 ∧ Desc.deps d = [] ∧ Desc.lantern d ≤ 2) ∧ Desc.rdLevel d = q.1 ∧ (passOf d).round = 0 ∧ Desc.dest d = 0 ∧
      (q.1 = 1 → ((List.range 96).filter fun i => (Desc.rdFields d).testBit i)[q.2.2.2.2]? = some 0) ∧
      (q.1 = 2 → ((List.range (Desc.rdUnits d)).map (Desc.rdFirst d + ·))[q.2.2.2.2]? = some s.ordinal ∧
        (s.routeEntry 8).getLsbD 116 = true ∧ 8 ≠ s.ordinal) ∧
      (q.1 = 0 → ((List.range 8).filter fun i => (Desc.rdCores d).testBit i) = [2]) := by decide +kernel
  exact ⟨⟨by decide, by decide, rfl, rfl, (h q hq).1.1, rfl, rfl, rfl, rfl, (h q hq).1.2.1, (h q hq).1.2.2, rfl⟩, (h q hq).2⟩

/-- The node's clause: core 2 has begun, and its partner's operand is there. -/
def operand5 : Operand := { job := job7, field := 0, core := 2, level := 0, ordinal := 0, parts := 0xA4, round := 0
                            words := (List.range 128).map fun u => (u, List.replicate 16 { data := BitVec.ofNat 32 u, good := BitVec.ofNat 32 u }) }
def nodeState : State := { reduceState 2 (begun reduceDesc) with mesh := { operands := [operand5] } }
theorem witness_ReduceNode : (nodeState.core 0 2).window = [begun reduceDesc] ∧ Desc.kind reduceDesc = 6 ∧
    nodeState.reduceOrdinal 0 (begun reduceDesc) = 0 ∧ operand5.parts = Desc.rdCores reduceDesc ∧
    (∃ ow : Nat → List AccWord, operand5.words = (List.range 128).map (fun u => (u, ow u)) ∧ ∀ u < 128, (ow u).length = 16 * 1) ∧
    (begun reduceDesc).done = false ∧ (begun reduceDesc).fault = none ∧ Desc.dest reduceDesc = 0 :=
  ⟨rfl, by decide +kernel, by decide +kernel, by decide +kernel,
    ⟨fun u => List.replicate 16 { data := BitVec.ofNat 32 u, good := BitVec.ofNat 32 u }, rfl, fun _ _ => by simp⟩, rfl, rfl, by decide +kernel⟩

/-- WaitsExpire: a REDUCE that waits for its partner, and copies whose module is up and down. -/
def waitState (d : Desc) (sl : Slot) : State := { atCore [] with
  cores := [(2, { level := .run, window := [begun d], serials := 9 })], slots := [(3, sl)] }
def copyDesc : Desc := moveDesc 3 64 (bulkFa 3 77) (mkFa 0 0 1 0x2000)
def acrossDesc : Desc := descOf [(6, 0), (2, 832), (3, 960), (2, 976), (1, 9)]
theorem witness_WaitsExpire :
    (let s := waitState reduceDesc {}
     (s.core 0 2).window = [begun reduceDesc] ∧ s.job job7 = some jobOf ∧ jobOf.isEnded = false ∧ jobOf.paused = false ∧
     (match s.reduceStep 0 2 (begun reduceDesc) with | .wait _ _ => true | _ => false) = true) ∧
    (Desc.kind acrossDesc = 6 ∧ Desc.rdLevel acrossDesc = 2 ∧
     (match (waitState acrossDesc {}).reduceStep 0 2 (begun acrossDesc) with | .wait _ _ => true | _ => false) = true) ∧
    Desc.kind copyDesc = 9 ∧ Desc.mvKind copyDesc = 3 ∧ moveSlot copyDesc = 3 := by decide +kernel
/-- No operand of the partner is there; at the level of fields the partner is field 70. -/
def lonely (d : Desc) : Bool := match (waitState d {}).reduceStep 0 2 (begun d) with
  | .wait p k => ((waitState d {}).operandFor 0 2 (begun d) p k).isNone
  | _ => false
theorem witness_ReduceWaits : lonely reduceDesc = true ∧ lonely (reduceOf 1 (2 ^ 70 + 1) 0 0) = true ∧ lonely acrossDesc = true ∧
    (reduceParts (reduceOf 1 (2 ^ 70 + 1) 0 0)).getD 1 0 = 70 :=
  ⟨by decide +kernel, by decide +kernel, by decide +kernel, by decide +kernel⟩
/-- A packet and a message of a pass that has left the window. -/
def sentPacket : Packet := { no := 0, cls := .d, src := 0, dst := 1, writes := [(77, 5, false)], who := some (0, 2, 4), job := job7, idx := 6 }
def sentMessage : Awaited := { no := 3, field := 0, core := 2, serial := 4, id := 6, job := job7, idx := 6, msg := { no := 3, kind := 1 } }
theorem witness_SentWaits : let s : State := { waitState reduceDesc {} with mesh := { packets := [sentPacket], awaited := [sentMessage] } }
    s.mesh.packets = [sentPacket] ∧ s.mesh.awaited = [sentMessage] ∧ sentPacket.who = some (0, 2, 4) ∧
    ∀ w ∈ (s.core 0 2).window, w.idx ≠ 6 := by decide +kernel

/-! ### Power, heat, resets and failures: states that meet the premises -/

/-- DomainsSleepAndWake: a core at run, idle, with no plan's rows and with; one held by a window access; waking ones. -/
def sleepState : State := { State.reset with
  cores := [(0, { level := .run }), (1, { waking := true }), (2, { level := .run, pinnedBy := [1] })]
  edges := [(0, { level := .run }), (1, { waking := true })], fields := [(0, { service := .retain, serviceWaking := true })] }
theorem witness_DomainsSleep :
    (sleepState.core 0 0).level = .run ∧ sleepState.coreQuiet 0 0 = true ∧ (sleepState.core 0 0).pinnedBy = [] ∧
    sleepState.holdsRows 0 = false ∧ { sleepState with plans := [(0, plan0)] }.holdsRows 0 = true ∧ sleepState.coreQuiet 0 2 = true ∧
    1 ∈ (sleepState.core 0 2).pinnedBy ∧ (sleepState.core 0 1).waking = true ∧ (sleepState.edge 0).level = .run ∧
    (sleepState.edge 0).postings = [] ∧ (sleepState.edge 0).pinnedBy = [] ∧ (sleepState.edge 1).waking = true ∧
    (sleepState.field 0).serviceWaking = true ∧ physExists 0 1 = true := by decide +kernel
/-- R402: without an image no core wakes. -/
theorem test_no_firmware : let s : State := { sleepState with vigil := { sleepState.vigil with noFirmware := some 0x0101 } }
    ((ran (.domainWakeComplete (.core 0 1)) s).core 0 1).level ≠ .run ∧
    ((ran (.domainWakeComplete (.core 0 1)) sleepState).core 0 1).level = .run := by decide +kernel

/-- LimitsFollowReports: fields at 95, 100 and at most 90 degrees. -/
def warmState (t : Int) : State := { State.reset with fields := [(3, { temp := t })] }
theorem witness_Limits : (∃ g < 96, ((warmState 1520).field g).health ≠ .lost ∧ 16 * 95 ≤ ((warmState 1520).field g).temp) ∧
    (∃ g < 96, ((warmState 1600).field g).health ≠ .lost ∧ 16 * 100 ≤ ((warmState 1600).field g).temp) ∧
    (∀ g < 96, ((warmState 1440).field g).health ≠ .lost → ((warmState 1440).field g).temp ≤ 16 * 90) ∧
    (warmState 1440).limits.heatPool = none := ⟨⟨3, by decide, by decide +kernel⟩, ⟨3, by decide, by decide +kernel⟩, by decide +kernel, rfl⟩
/-- R444: 43.999 V, 44.000 V, 42.000 V and 40.000 V. -/
theorem test_bus_voltage :
    ((ran (.busUndervoltage 44000) State.reset).limits.busPool, (ran (.busUndervoltage 43999) State.reset).limits.busPool,
      (ran (.busUndervoltage 42000) State.reset).limits.busFck, (ran (.busUndervoltage 41999) State.reset).limits.busFck) =
    (none, some 10000, none, some 0) := by decide +kernel

/-- ResetsAct, PortResetsAct: each phase, held by RESET_L, by the supply, by both and by neither; a retention that is gone or not. -/
def phaseState (p : Phase) (reset power low latch gone : Bool) : State := { State.reset with vigil := { State.reset.vigil with
  phase := p, holdReset := reset, holdPower := power, resetLow := low, retention := gone, latched := if latch then [(4, 7, 9)] else [] } }
theorem witness_Resets : selfTestOk ⟨[], []⟩ = true ∧ ∀ p ∈ [Phase.off, .vigil, .waking, .up], ∀ a b c d e : Bool,
    let v := (phaseState p a b c d e).vigil
    v.phase = p ∧ v.holdReset = a ∧ v.holdPower = b ∧ v.resetLow = c ∧ (v.latched = [] ↔ d = false) ∧ v.retention = e ∧
    (phaseState p a b c d e).plans = [] := by decide +kernel

/-- FailuresAct. -/
def failState : State := { State.reset with
  bus := [(5, { uncRows := (List.range 8).map fun i => (0, i) }), (131, { failed := some .logic })]
  cores := [(0, { spares := [1, 2, 3, 4] }), (1, { spares := [1], stopped := true })] }
/-- A remap whose spares are given, of a field whose state is readable or not. -/
def remapState (sp : List (Nat × Nat)) (readable : Bool := true) : State := { State.reset with
  fields := [(0, { health := .failed .thermal readable })], vigil := { State.reset.vigil with remaps := [0], spares := sp } }
theorem witness_Failures : (failState.field 0).health = .healthy ∧ failState.streams = [] ∧ vckCut failState.vigil.vckFailed (failState.physOf 0) = false ∧
    (failState.bu 0 0 5).failed = none ∧ failState.eightRows (failState.bu 0 0 5) = true ∧ (∀ k ∈ [1, 2, 3, 4], k ∈ (failState.core 0 0).spares) ∧
    (∃ k ∈ [1, 2, 3, 4], k ∉ (failState.core 0 1).spares) ∧ (failState.bu 0 1 3).failed = some .logic ∧ (failState.core 0 1).window = [] ∧
    (([1, 2, 3, 4].filter fun i => !(failState.core 0 1).spares.contains i) = [2, 3, 4]) ∧
    (∀ sp ∈ [[], [(1, 3)], [(1, 3), (2, 4), (3, 3)]], ∀ b : Bool, (remapState sp b).vigil.remaps = [0] ∧
      ((remapState sp b).field 0).health = .failed .thermal b ∧
      (remapState sp b).mesh.packets = [] ∧ (∀ c < 8, ((remapState sp b).core 0 c).window = []) ∧ (remapState sp b).vigil.spares = sp) ∧
    ((failState.field 0).service = .run ∧ ∀ p ∈ (failState.field 0).ports, p.2.up = true) ∧
    (({ failState with fields := [(0, { service := .retain, ports := [(1, { up := false })] })] } : State).field 0).service ≠ .run ∧
    State.reset.vigil.phase = .up ∧ State.reset.vigil.faultHold = none ∧
    { State.reset with vigil := { State.reset.vigil with standby := false } }.vigil.standby = false := by
  refine ⟨by decide +kernel, rfl, by decide +kernel, by decide +kernel, by decide +kernel, by decide +kernel, ⟨2, by decide, by decide +kernel⟩, ?_⟩
  decide +kernel
/-- R428: a job that waits with a pass in the core of an unreadable BU. -/
def doomed : State := { failState with plans := [(0, plan0)], jobs := [jobOf .waiting], cores := [] }
theorem witness_LogicFailure : doomed.job job7 = some (jobOf .waiting) ∧ (jobOf .waiting).isEnded = false ∧
    doomed.jobIn 0 0 (jobOf .waiting) = true ∧ (doomed.bu 0 0 9).failed = none ∧ (∃ k ∈ [1, 2, 3, 4], k ∉ (doomed.core 0 0).spares) ∧
    ((ran (.buFailure 0 0 9 .logic) doomed).job job7).map (·.st) = some (.ended 0x0403) := by
  exact ⟨by decide +kernel, by decide +kernel, by decide +kernel, by decide +kernel, ⟨1, by decide, by decide +kernel⟩, by decide +kernel⟩
/-- R395: at 720 mV the band of 5 % is 684 to 756 mV. -/
theorem test_regulator : (((ran (.regulatorFault 0 (some 684)) State.reset).field 0).health, ((ran (.regulatorFault 0 (some 756)) State.reset).field 0).health) =
    (.healthy, .healthy) := by decide +kernel
theorem witness_RegulatorBand : 95 * 720 ≤ 100 * 684 ∧ ¬95 * 720 ≤ 100 * 683 ∧ 100 * 756 ≤ 105 * 720 ∧ ¬100 * 757 ≤ 105 * 720 := by decide

/-! ### Links, the fabric, SMBus and the unit: states that meet the premises -/

/-- HatbandActs: a port with a peer, credit and buffered phits; one packet on its way; none of class D. -/
def packet0 : Packet := {
  no := 0, cls := .d, src := 0, dst := 1, writes := [(77, 5, false), (78, 6, true)]
  operand := some { job := jobOf.handle, field := 0, core := 0, level := 1, ordinal := 0, parts := 1, round := 0, words := [] } }
def meshState (ps : List Packet) : State := { State.reset with jobs := [jobOf], mesh := { packets := ps, tables := some { fields := [(0, 5, 5), (1, 5, 6)], down := [] } } }
/-- Port 1 of field 0 with its peer in a state: credit and phits in the buffer; and a packet that waits at the output, with another of
class C or without. -/
def hbState (x y : HbPort) (ps : List Packet) : State := match State.reset.hbPeer 0 1 with
  | some q => { meshState ps with fields := [(0, { ports := [(1, x)] }), (q.1, { ports := [(q.2, y)] })], mesh := { packets := ps, tables := some { fields := [(0, 0, 0), (1, 0, 1)], down := [] } } }
  | none => State.reset
/-- A packet from the peer of field 0's port 1 to field 0. -/
def toField0 (cls : HbClass) (crossed : List Nat) : Packet := { packet0 with
  cls, src := (State.reset.hbPeer 0 1).elim 0 (·.1), dst := 0, crossed, who := some (0, 0, 4), acked := true }
theorem witness_hbPeer : (match State.reset.hbPeer 0 1 with
    | some q => decide (q.1 < 96 ∧ 0 < ((hbState {} { bufD := 3 } []).hb q.1 q.2).cred .d ∧ 0 < ((hbState {} { bufD := 3 } []).hb q.1 q.2).buf .d ∧
        (hbState {} {} []).nextPhit q.1 q.2 .d = none ∧ (hbState {} {} []).classCWaits q.1 q.2 = false ∧
        ((hbState {} {} [toField0 .d []]).nextPhit q.1 q.2 .d).isSome = true ∧
        (hbState {} {} [toField0 .c []]).classCWaits q.1 q.2 = true ∧ (hbState {} {} [toField0 .c []]).hbPeer 0 1 = some q ∧
        (hbState {} {} [toField0 .d [1]]).buffers (toField0 .d [1]) q.1 q.2 = true)
    | none => false) = true := by decide +kernel
/-- R235: 8 words on each side within 1 ms make 16, and 8 and 7 do not. -/
theorem witness_hbDown : (match State.reset.hbPeer 0 1 with
    | some q => (List.range 2).all fun k => let s := hbState { uncTimes := List.replicate 8 0 } { uncTimes := List.replicate (7 + k) 0 } []
        decide (16 ≤ s.recentUnc 0 1 + s.recentUnc q.1 q.2) == decide (k = 1)
    | none => false) = true := by decide +kernel
theorem witness_Hatband : (∀ p ∈ [packet0, { packet0 with acked := true }, { packet0 with cls := .a, acked := true }],
      (meshState [p]).mesh.packets = [p] ∧ (meshState [p]).pathDown 0 1 = false ∧ (p.writes.map (·.1)).Nodup) ∧
    (meshState [packet0]).job jobOf.handle = some jobOf ∧ jobOf.isEnded = false ∧ (meshState []).mesh.packets = [] := by decide +kernel

/-- LinksTrain: a link in each state, before and after the unit was READY, retrained once and three times. -/
def linkState (st : LinkState) (ready : Bool) (tries : Nat) : State := { State.reset with
  brims := [(63, { st, attempts := tries, everActive := true, rxSeq := 9 })], vigil := { State.reset.vigil with wasReady := ready } }
theorem witness_LinksTrain : ∀ st ∈ [LinkState.disabled, .detect, .equalize, .lock, .params, .active], ∀ ready : Bool, ∀ n ∈ [2, 3],
    let s := linkState st ready n
    s.trains = true ∧ (s.brim 63).st = st ∧ (s.brim 63).attempts = n ∧ (s.brim 63).everActive = true ∧ (s.brim 63).lost = false ∧
    (s.brim 63).miswired = false ∧ (s.brim 63).replay = [] ∧ s.vigil.wasReady = ready := by decide +kernel

/-- The number of a flit's first 252 bytes. -/
def flitNum (seq vc type : Nat) (head tail : Bool) (payload : Nat) : Nat := (mkFlit seq vc type head tail payload).toNat
/-- Its control flits: kind and payload. -/
def ctlNum (seq vc type kind : Nat) (rest : List Byte) : Nat := flitNum seq vc type false false (leNat (leBytes 1 kind ++ rest))

/-- What the codes say of an arriving flit (R240): nothing wrong, and lane 0's codeword 0 failed under the first flit. -/
theorem witness_Fec : fecFailed ⟨0, 0, []⟩ = false ∧ fecFailed ⟨0, 0, [(0, 0)]⟩ = true ∧ fecFailed ⟨7, 3, []⟩ = false := by decide +kernel
/-- LinkLost, one flit in the replay buffer: the message of a pass. -/
theorem witness_LinkLost : let m : FabMsg := { no := 3, kind := 1 }
    let b : Brim := { st := .lock, everActive := true, replay := [(0, 3)] }
    let s : State := { State.reset with
      brims := [(63, b)], jobs := [jobOf]
      mesh := { msgs := [m], awaited := [{ no := 3, field := 0, core := 2, serial := 4, id := 6, job := job7, idx := 6, msg := m }] } }
    s.senderOf 3 = some (job7, 0, 2, 6) ∧ s.job job7 = some jobOf ∧ jobOf.isEnded = false ∧ (s.brim 63).replay = [(0, 3)] := by decide +kernel

/-- LinksTrain: PARAM flits that agree and do not, at the ends of their fields. -/
def paramNum (rev : Nat) : Nat := ctlNum 0 0 2 4 (leBytes 2 0 ++ leBytes 2 32767 ++ leBytes 1 63 ++ leBytes 1 rev ++ leBytes 2 1023)
theorem witness_ParamFlit : ∀ rev ∈ [(linkState .params true 0).linkRev, 255], let x := wholeFlit (paramNum rev)
    flitCrc x = true ∧ fType x = 2 ∧ fPay x 0 1 = 4 ∧ fld x 28 4 = 0 ∧ controlShape x 9 = true ∧ fPay x 3 2 < 2 ^ 15 ∧ fPay x 5 1 < 64 ∧
    fPay x 7 2 < 1024 ∧ fAckv x = false ∧ fPay x 1 2 = (linkState .params true 0).domain ∧ fPay x 6 1 = rev := by
  have h : ∀ rev ∈ [(linkState .params true 0).linkRev, 255], paramNum rev < 2 ^ 2016 := by decide +kernel
  intro rev hr
  refine ⟨wholeFlit_crc (h rev hr), ?_⟩
  have hn := h rev hr
  simp only [fType, fPay, fAckv, controlShape, payZero, fSeq, fHead, fTail, wholeFlit_fld hn, wholeFlit_bit (i := 25) hn (by decide), wholeFlit_bit (i := 26) hn (by decide), wholeFlit_bit (i := 27) hn (by decide), Nat.reduceAdd, Nat.reduceMul,
    Nat.reduceSub, Nat.reduceLeDiff]
  clear hn h; revert rev; decide +kernel

/-- FlitsAreTaken: an ACTIVE link with three flits to resend, and flits of each kind, in order and out of order. -/
def activeLink (n : Nat) : State := { State.reset with brims := [(4, {
  st := .active, txSeq := 1, rxSeq := 9, everActive := true, freedSeen := [65530, 0, 0, 0, 0, 0, 0, 0], freed := [65535, 1, 0, 0, 0, 0, 0, 0]
  replay := (List.range n).map fun i => (mkFlit ((1022 + i) % 1024) 1 0 true true 5, i), resends := 7 })] }
/-- An IDLE flit; a CREDIT flit that acknowledges 1023; a NAK of 1023; a POISON flit; a data flit of one message, and one out of order. -/
def someFlits : List (Nat × Nat) := [
  (3, flitNum 0 0 3 false false 0), (2, ctlNum 0 0 2 1 (leBytes 1 0 ++ List.replicate 16 255) + 1023 * 2 ^ 10 + 2 ^ 27),
  (2, ctlNum 0 0 2 2 (leBytes 1 0 ++ leBytes 2 1023)), (1, ctlNum 9 3 1 3 (leBytes 3 0 ++ leBytes 4 0x80)),
  (0, flitNum 9 3 0 true true (1 + 2 ^ 8 * 16 + 3 * 2 ^ 16)), (0, flitNum 10 3 0 true true 1),
  (0, flitNum 9 3 0 true false (1 + 2 ^ 8 * 16 + 4 * 2 ^ 16)), (0, flitNum 9 3 0 false true 77)]
theorem witness_Whole : ∀ p ∈ someFlits, Whole (wholeFlit p.2) p.1 := by
  have h : ∀ p ∈ someFlits, p.2 < 2 ^ 2016 := by decide +kernel
  intro p hp
  refine ⟨wholeFlit_crc (h p hp), ?_⟩
  have hn := h p hp
  simp only [fType, wholeFlit_fld hn, Nat.reduceAdd, Nat.reduceLeDiff]
  clear hn h; revert p; decide +kernel

/-- What each flit's clause asks of its fields, in its order in the list. -/
def flitAsks (k : Nat) (x : Flit) : Prop :=
  (k = 0 → fSeq x = 0 ∧ fHead x = false ∧ fTail x = false) ∧
  (k = 1 → fPay x 0 1 = 1 ∧ controlShape x 18 = true ∧ fPay x 1 1 = 0) ∧
  (k = 2 → fPay x 0 1 = 2 ∧ controlShape x 4 = true ∧ fPay x 1 1 = 0 ∧ fPay x 2 2 = 1023) ∧
  (k = 3 → fPay x 0 1 = 3 ∧ poisonShape x = true ∧ fSeq x = 9) ∧
  (k = 4 → fSeq x = 9 ∧ fHead x = true ∧ fTail x = true ∧ fVc x = 3 ∧ fPay x 0 1 % 16 = 1 ∧ fPay x 1 1 = 16 ∧ fPay x 2 2 = 3 ∧
    fPay x 16 2 = 0 ∧ fPay x 37 19 = 0) ∧
  (k = 5 → fSeq x = 10) ∧
  (k = 6 → fSeq x = 9 ∧ fHead x = true ∧ fTail x = false ∧ fVc x = 3 ∧ fPay x 0 1 % 16 = 1 ∧ fPay x 1 1 = 16 ∧ fPay x 2 2 = 4 ∧
    fPay x 16 2 = 0 ∧ fPay x 37 19 = 0) ∧
  (k = 7 → fSeq x = 9 ∧ fHead x = false ∧ fTail x = true ∧ fVc x = 3)
set_option synthInstance.maxSize 1000 in
theorem witness_FlitFields : ∀ q ∈ someFlits.zipIdx, flitAsks q.2 (wholeFlit q.1.2) := by
  have h : ∀ q ∈ someFlits.zipIdx, q.1.2 < 2 ^ 2016 := by decide +kernel
  intro q hq
  have hn := h q hq
  simp only [flitAsks, fPay, controlShape, poisonShape, payZero, fSeq, fHead, fTail, fVc, wholeFlit_fld hn, wholeFlit_bit (i := 25) hn (by decide), wholeFlit_bit (i := 26) hn (by decide), Nat.reduceAdd,
    Nat.reduceMul, Nat.reduceSub, Nat.reduceLeDiff]
  clear hn h; revert q; decide +kernel
theorem witness_FlitsAreTaken : ((activeLink 0).brim 4).st = .active ∧ ((activeLink 0).brim 4).rxSeq = 9 ∧
    (Sparse.get {} ((activeLink 0).brim 4).rx 3).total = 0 ∧ ((activeLink 3).brim 4).replay ≠ [] ∧ ((activeLink 0).brim 4).replay = [] ∧
    ((activeLink 0).brim 4).freed ≠ ((activeLink 0).brim 4).freedSent ∧ (State.reset.brim 4).freed = (State.reset.brim 4).freedSent := by
  decide +kernel
/-- A VC that takes its message's last flit, the message at the unit or gone; and one that waits for a head, beside which no message counts. -/
def rxLink (no : Nat) : State := { State.reset with
  brims := [(4, { st := .active, rxSeq := 9, rx := [(3, { no := 0, got := 1, total := 2 })] })]
  mesh := { msgs := [{ no, kind := 1, short := 8, words := List.replicate 24 (5, false) }], msgNo := 40 } }
theorem witness_RxMsg : ∀ no ∈ [0, 1], let r := Sparse.get {} ((rxLink no).brim 4).rx 3
    r.total ≠ 0 ∧ r.got + 1 = r.total ∧ (rxLink no).mesh.msgs.map (·.no) = [no] ∧ (r.no = no ↔ no = 0) ∧
    (∀ m ∈ (rxLink no).mesh.msgs, m.no ≠ (rxLink no).mesh.msgNo) ∧ ((rxLink no).brim 4).st = .active := by decide +kernel

/-- FabricMessagesTravel: a unit of ordinal 9 with a route to unit 5 over link 4, up and down, and one message. -/
def msgTo (here : Bool) (kind hops ptr : Nat) : FabMsg :=
  { no := 3, kind, tag := Config.jobTag job7, addr := mkFa 9 0 1 0x2000, src := 5, id := 6, hops, ptr, here
    words := (List.range 16).map fun i => (BitVec.ofNat 64 (77 * i), false) }
def fabricState (m : FabMsg) (st : LinkState) (aw : List Awaited) : State := { atCore [] with
  fabActive := some fabric0, brims := [(4, { st, credits := [1, 1, 1, 1, 1, 1, 1, 1], txSeq := 1023 })]
  mesh := { msgs := [m], msgNo := 40, awaited := aw } }
def awaited6 (n : Bool) : Awaited :=
  { no := 3, field := 2, core := 1, serial := 4, id := 6, job := job7, idx := 6, notReady := n, msg := { msgTo false 1 0 0 with addr := mkFa 5 0 1 0 } }

/-- A message with one more hop to go, by link 4. -/
def hopMsg : FabMsg := { msgTo false 1 0 0 with route := 4 }
theorem witness_MessageHop : (msgTo false 1 0 1).here = false ∧ (msgTo false 1 0 1).hops < (msgTo false 1 0 1).ptr ∧
    (∀ st : LinkState, (fabricState hopMsg st []).mesh.msgs = [hopMsg] ∧ ((fabricState hopMsg st []).brim 4).st = st ∧
      0 < ((fabricState hopMsg st []).brim 4).credits.getD 4 0 ∧ ((fabricState hopMsg st []).brim 4).replay.length < 512) ∧
    hopMsg.next = some (4, 4) ∧ hopMsg.sent = 0 ∧ hopMsg.kind ≠ 3 ∧ hopMsg.from_ = none ∧ hopMsg.words.length ≤ 24 ∧
    ∀ w ∈ hopMsg.words, w.2 = false := by
  refine ⟨rfl, by decide, fun st => ⟨rfl, rfl, (by decide : 0 < 1), (by decide : 0 < 512)⟩, by decide +kernel, rfl, by decide,
    rfl, by decide +kernel, fun w hw => ?_⟩
  simpa using List.all_eq_true.1 (by decide +kernel : hopMsg.words.all (fun w => !w.2) = true) w hw

/-- A message in transit that came in by link 4, with two flits in the buffer: at this unit, and on the way to link 4, which is down, by an
acknowledgement or by a write; and one of this unit whose link is down. -/
def transit (kind hops ptr : Nat) : FabMsg := { msgTo false kind hops ptr with route := 4, from_ := some 4, buf := 2, inVc := 5 }
theorem witness_Transit :
    ((transit 3 0 1).next = none ∧ (fabricState (transit 3 0 1) .active []).msgCut (transit 3 0 1) = false ∧ (transit 3 0 1).ptr ≤ 16 ∧
      (transit 3 0 1).short = 0) ∧
    (∀ kind ∈ [1, 3], (transit kind 2 0).next.map (·.1) = some 4 ∧ (transit kind 2 0).from_ = some 4 ∧ (transit kind 2 0).sent = 0 ∧
      ((fabricState (transit kind 2 0) .lock []).brim 4).st ≠ .active) ∧
    (hopMsg.from_ = none ∧ hopMsg.kind ≠ 3 ∧ ((fabricState hopMsg .detect []).brim 4).st ≠ .active) ∧
    (fabricState hopMsg .active []).msgCut hopMsg = false := by
  decide +kernel
/-- An operand at the level of units: late, and one that its pass waits for. -/
def acrossMsg : FabMsg := { msgTo true 2 0 0 with tag := Config.jobTag job7, src := 5 }
theorem witness_LateOperand : let s := { fabricState acrossMsg .active [] with mesh := { msgs := [acrossMsg], late := [acrossMsg.tag] } }
    s.mesh.msgs = [acrossMsg] ∧ acrossMsg.here = true ∧ acrossMsg.kind = 2 ∧ acrossMsg.tag ∈ s.mesh.late :=
  ⟨rfl, rfl, rfl, List.mem_cons_self ..⟩

/-- A write to the commons of the plan: its source has a route, its job is bound or not, its units lie within the plan. -/
theorem witness_MsgWrite : let m := msgTo true 1 0 0
    let s := fabricState m .active []
    m.here = true ∧ m.kind = 1 ∧ (s.routeEntry m.src).getLsbD 116 = true ∧ (∃ j, s.boundJob m.tag = some j) ∧
    { s with jobs := [] }.boundJob m.tag = none ∧ (∀ i < 2, s.unitInPlan 0 m.addr i = true ∧ (s.endpoint 0 m.addr i).isSome = true) ∧
    s.unitInPlan 0 (mkFa 9 0 1 0xFFFC0) 0 = false := by
  refine ⟨rfl, rfl, by decide +kernel, ⟨jobOf, ?_⟩, rfl, by decide +kernel, by decide +kernel⟩
  simp [State.boundJob, fabricState, atCore, msgTo, jobOf, job7]

theorem witness_MsgWriteAck : ∀ status ∈ [0, 0x0501, 0x0202], let m := { msgTo true 3 0 0 with pass := status }
    let s := fabricState m .active [awaited6 false]
    m.here = true ∧ m.kind = 3 ∧ s.mesh.awaited = [awaited6 false] ∧ (awaited6 false).msg.tag = m.tag ∧ (awaited6 false).id = m.id ∧
    s.job (awaited6 false).job = some jobOf ∧ jobOf.isEnded = false := by
  intro status hs; exact ⟨rfl, rfl, rfl, rfl, rfl, by rfl, by decide⟩
theorem witness_Resend : (awaited6 true).notReady = true ∧ (awaited6 true).id < 65536 ∧
    ((fabricState (msgTo true 4 0 0) .active []).routeEntry (faOrdinal (awaited6 true).msg.addr)).getLsbD 116 = true :=
  ⟨rfl, by decide, by decide +kernel⟩

/-- ModuleLinksAct: a slot in each state, with and without frames to send again, with and without an item that waits; frames in order and
not, damaged, poisoned, and one that acknowledges. -/
def item0 : BulkItem := { chan := 2, data := some (77, 1) }
def slotState (st : LinkState) (n : Nat) (w : List BulkItem := []) : State := { State.reset with slots := [(3, {
  present := true, st, everActive := true, attempts := n, rxSeq := 1023, freedSeen := 250, resends := 7, waiting := w
  replay := (List.range (n - 2)).map fun i => (mkFrame (i + 1) 0 2 3 4 0, item0) })] }
theorem witness_ModuleLinks : ∀ st ∈ [LinkState.disabled, .detect, .lock, .params, .active], ∀ n ∈ [2, 3], ∀ w ∈ [[], [item0]],
    let s := slotState st n w
    s.moduleTrains 3 = true ∧ (s.slot 3).st = st ∧ (s.slot 3).waiting = w ∧ (s.slot 3).fenced = false ∧ (s.slot 3).present = true ∧
    (s.slot 3).everActive = true ∧ s.vigil.phase ≠ .off ∧ ((s.slot 3).replay = [] ↔ n = 2) ∧ 0 < (s.slot 3).credits ∧
    (s.slot 3).txSeq < 1024 := by decide +kernel
def frameNum (seq type poison ack : Nat) : Nat := (mkFrame seq type 2 0 77 (BitVec.ofNat 32 poison)).toNat + ack
theorem witness_Frames : ∀ p ∈ [(1023, 1, 0, 0), (1023, 0, 4, 0), (4, 0, 0, 0), (0, 3, 0, 2 ^ 16 + 2 ^ 26)],
    let f := wholeFrame (frameNum p.1 p.2.1 p.2.2.1 p.2.2.2)
    frameCrc f = true ∧ bfReservedOk f = true ∧ bfType f = p.2.1 ∧ bfSeq f = p.1 ∧ (bfAckv f = true ↔ p.2.1 = 3) ∧
    (p.2.1 = 3 → bfAck f = 1) := by
  have h : ∀ p ∈ [(1023, 1, 0, 0), (1023, 0, 4, 0), (4, 0, 0, 0), (0, 3, 0, 2 ^ 16 + 2 ^ 26)], frameNum p.1 p.2.1 p.2.2.1 p.2.2.2 < 2 ^ 2144 := by
    decide +kernel
  intro p hp
  refine ⟨wholeFrame_crc (h p hp), ?_⟩
  have hn := h p hp
  simp only [bfReservedOk, bfType, bfAckv, bfSeq, bfAck, wholeFrame_fld hn, wholeFrame_bit (i := 26) hn (by decide), Nat.reduceAdd, Nat.reduceLeDiff]
  clear hn h; revert p; decide +kernel
theorem witness_FramePoison : (frameNum 1023 0 4 0).testBit (2112 + 2) = true ∧ 2112 + 32 ≤ 2144 := by decide +kernel

/-- SmbusAnswers: in each phase; the mailbox with room and full; with completions returned and not. -/
def smbState (p : Phase) (m : Smbus) : State := { State.reset with smb := m, vigil := { State.reset.vigil with phase := p } }
theorem witness_Smbus : (smbState .up {}).vigil.phase = .up ∧ (smbState .vigil {}).vigil.phase = .vigil ∧ (smbState .waking {}).vigil.phase = .waking ∧
    (0 < 15 ∧ ((({} : Smbus).completions.map List.length).sum + ({} : Smbus).reserved + 4 ≤ 64)) ∧
    ¬((({ reserved := 61 } : Smbus).completions.map List.length).sum + ({ reserved := 61 } : Smbus).reserved + 4 ≤ 64) ∧
    ({ completions := [[5, 7], [3]], returned := true } : Smbus).completions = [5, 7] :: [[3]] ∧ selfTestOk ⟨[], []⟩ = true ∧
    2 ^ 20 - 248 + (List.replicate 248 (0 : Byte)).length = 2 ^ 20 := by decide +kernel
/-- R457: IDENT answers IDREV's 8 bytes, whose low 16 bits name the device, and the interface is 3.2. -/
theorem test_ident : (ran .smbIdent State.reset).out = [.smbus (leBytes 8 State.reset.idrev.toNat)] := by decide +kernel

/-- R459: the boundary register holds 97 cells, and its open-drain ones are J40 contacts 2, 3, 4 and 14 to 17. -/
theorem test_boundary : boundaryContacts.length = 97 ∧ boundaryContacts.Nodup ∧
    ((boundaryContacts.zipIdx.filter fun c => openDrain.getLsbD c.2).map fun c => (c.1.on, c.1.number)) =
      [2, 3, 4, 14, 15, 16, 17].map fun n => (.management, n) := by decide +kernel
/-- JtagIsIsolated: in VIGIL and out of it. -/
theorem witness_Jtag : (smbState .vigil {}).vigil.phase = .vigil ∧ (smbState .up {}).vigil.phase ≠ .vigil ∧ (0xFF : BitVec 8) ≠ 0x01 := by decide +kernel

/-- StepTakesTheFront, ReadyRunsSafely, MemoryStaysCanonical. -/
def busyQueue : State := { State.reset with pending := [.leakDetect, .smbIdent], mem := { cells := row3 } }
theorem witness_Unit : busyQueue.pending.all Instr.ok = true ∧ busyQueue.mem.wf = true ∧ step busyQueue = exec .leakDetect { busyQueue with pending := [.smbIdent] } ∧
    State.reset.pending = [] ∧ State.reset.vigil.phase ≠ .off ∧ (smbState .off {}).vigil.phase = .off ∧
    step busyQueue = .next (ran .leakDetect { busyQueue with pending := [.smbIdent] }) := by
  refine ⟨by decide, by decide +kernel, rfl, rfl, by decide, rfl, rfl⟩
/-- StepTakesTheFront: a read that port 2 holds while a module's link trains, and once it is up. -/
def heldRead : HostAcc := { write := false, addr := 0x10000000000 + 3 * 2 ^ 37, len := 8, tag := 1 }
def heldState (st : LinkState) : State := { State.reset with
  ports := [(2, { stalled := [heldRead] })], slots := [(3, { present := true, st, everActive := true })] }
theorem witness_StepHeld : ∀ st ∈ [LinkState.lock, .active], let s := heldState st
    s.pending = [] ∧ (s.port 2).stalled = [heldRead] ∧ (∀ k < 4, k ≠ 2 → (s.port k).stalled = []) ∧ s.vigil.phase ≠ .off ∧
    (s.accWaits 2 heldRead = true ↔ st = .lock) := by decide +kernel

/-! ### The unit's fields, and what WellFormed refuses -/

theorem test_startFields : startFields.length = 96 := by decide +kernel

/-- One term for each check of an operand; each is refused. -/
theorem test_ill_formed : ∀ i ∈ ([
    .nop ⟨96, 0, none⟩ .host 0, .nop ⟨0, 8, none⟩ .host 0, .nop ⟨0, 0, some 128⟩ .host 0, .nop ⟨0, 0, none⟩ .host (ins 0x24 []),
    .idleCycleYield 0 0 128, .passCommit 96 0, .passCommit 0 8, .groupRelease 0 0 8, .tablePass 0 0 4, .edgePostingRun 96,
    .edgeAdd 0 (edgeWord 0x02 0 0 0), .lanternLoanReturn (.field 96), .lanternLoanReturn (.row 12), .sqTailDoorbell 4 0 0, .cqHeadDoorbell 0 1024 0,
    .sqEntryFetch 1025 .failed, .interruptModerationTimeout 1024, .deviceNop ⟨1025, 0⟩, .unitReset ⟨0, 0⟩ ⟨[(99, 99)], []⟩,
    .icProdWrite 64 0, .diagRunComplete (some 4) 0, .d3hotEntry 4, .adminEnable 0 0, .adminDisable 0 0x10000, .bar0RegisterWrite 0 0x3FFFFC 8 0,
    .windowRead 4 0 1 0, .windowWrite 0 (2 ^ 34) [some 1] false, .bulkEngineWordWrite 0 0 0, .hostBulkAccess 4 0 (.read 1 0),
    .engZero 16 0 (engWord 1 0 0 0), .engZero 0 8 (engWord 1 0 0 0), .engZero 0 0 (engWord 2 0 0 0), .domainWakeComplete (.core 96 0),
    .thermalSwitchOff 96, .vckEdgeLoss 12 0, .junctionSensorFail 0 0 2, .bulkResendTimer 16, .hatbandCreditReturn 0 4 .d,
    .phitReceive 0 0 .d (List.replicate 17 ⟨0, 0, false⟩), .hatbandPacketArrival .d 96 0, .unitTimeout 0 0 65536, .replayTimeout 64, .notReadyResend 65536,
    .stageWrite (2 ^ 32) [] true, .msixUnmask 0 (.vector 1088)] : List Instr), i.ok = false := by decide +kernel

/-- R23: the switched domains of the unit: 96 fields of a core set, an edge unit and a service domain, the brim segments and the Milliner
sets, 1,086 in all. -/
theorem test_domains : powerDomains.length = 1086 := by decide +kernel
/-- R240: the first codeword of lane 7 carries bits of flit 20, and none of flit 21: 8 lanes of 514 symbols of 10 bits are 41,120 bits. -/
theorem test_codewords : (fecFailed ⟨20, 0, [(7, 0)]⟩, fecFailed ⟨21, 0, [(7, 0)]⟩) = (true, false) := by decide +kernel
end Sys2Proof.Tests
end

section
/-! SUPPORT. The registers of a host port: what a command of the unit leaves of a port, what sending a vector and raising an event
change, and the settled statement HostRegistersAct. -/

namespace Sys2Proof.Machine

/-! ### The next state of a command of the unit -/

/-- The state after a command of `onUnit` whose meaning gives `t`. -/
def State.after (s : State) (ps : List Part) (t : State) : State := s.within ([.out, .ports, .vigil] ++ ps) (s.noteState t)

/-- A command of the unit completes in the state `after` its meaning. -/
theorem exec_onUnit {i : Instr} {s : State} {ps : List Part} {ok : Bool} {f : State → State} (hi : exec i s = onUnit ps ok s f)
    (hok : ok = true) : exec i s = .next (s.after ps (f s)) := hi.trans (onUnit_next.2 ⟨hok, rfl⟩)

/-- Table 14-8, R398: a command's note of STATE and the flags raises event 0 where one of them changed, and may note the first READY. -/
theorem State.noteState_cases (s t : State) : ∃ (b : Bool) (u : State),
    s.noteState t = { u with vigil := { u.vigil with wasReady := b } } ∧
    (u = t ∨ u = t.raiseAll 0 ∧ (s.stateCode ≠ t.stateCode ∨ s.flags ≠ t.flags)) := by
  have ready (u : State) : ∃ b, (if u.isReady && !u.vigil.wasReady then { u with vigil := { u.vigil with wasReady := true } } else u) =
      { u with vigil := { u.vigil with wasReady := b } } := by
    split
    · exact ⟨true, rfl⟩
    · exact ⟨u.vigil.wasReady, rfl⟩
  by_cases h : s.stateCode ≠ t.stateCode ∨ s.flags ≠ t.flags
  · obtain ⟨b, hb⟩ := ready (t.raiseAll 0)
    exact ⟨b, t.raiseAll 0, by simpa [State.noteState, h] using hb, .inr ⟨rfl, h⟩⟩
  · obtain ⟨b, hb⟩ := ready t
    exact ⟨b, t, by simpa [State.noteState, h] using hb, .inl rfl⟩

@[simp] theorem State.noteState_queues (s t : State) : (s.noteState t).queues = t.queues := by
  obtain ⟨b, u, h, rfl | ⟨rfl, -⟩⟩ := s.noteState_cases t <;> simp [h]
@[simp] theorem State.noteState_counters (s t : State) : (s.noteState t).counters = t.counters := by
  obtain ⟨b, u, h, rfl | ⟨rfl, -⟩⟩ := s.noteState_cases t <;> simp [h]
@[simp] theorem State.noteState_phase (s t : State) : (s.noteState t).vigil.phase = t.vigil.phase := by
  obtain ⟨b, u, h, rfl | ⟨rfl, -⟩⟩ := s.noteState_cases t <;> simp [h]

theorem State.after_queues (s t : State) (ps : List Part) :
    (s.after ps t).queues = if .queues ∈ ps then t.queues else s.queues := by simp [State.after]
theorem State.after_queue (s t : State) {ps : List Part} (h : .queues ∈ ps) (q : Nat) : (s.after ps t).queue q = t.queue q := by
  simp [State.queue, State.after_queues, h]
theorem State.after_counter (s t : State) {ps : List Part} (h : .counters ∈ ps) (blk pos : Nat) :
    (s.after ps t).counter blk pos = t.counter blk pos := by simp [State.counter, State.after, h]
theorem State.after_phase (s t : State) (ps : List Part) : (s.after ps t).vigil.phase = t.vigil.phase := by simp [State.after]

/-! ### What UNIT_STATE is made of -/

/-- The parts of which STATE and the flags of UNIT_STATE are made are the same in both states. -/
def State.SameLife (s t : State) : Prop :=
  t.vigil = s.vigil ∧ t.active = s.active ∧ t.plans = s.plans ∧ t.jobs = s.jobs ∧ t.streams = s.streams

theorem State.SameLife.refl (s : State) : s.SameLife s := ⟨rfl, rfl, rfl, rfl, rfl⟩
theorem State.SameLife.trans {s t u : State} (h : s.SameLife t) (g : t.SameLife u) : s.SameLife u := by
  obtain ⟨hv, ha, hp, hj, hs⟩ := h
  obtain ⟨gv, ga, gp, gj, gs⟩ := g
  exact ⟨gv.trans hv, ga.trans ha, gp.trans hp, gj.trans hj, gs.trans hs⟩

theorem State.SameLife.stateCode {s t : State} (h : s.SameLife t) : t.stateCode = s.stateCode := by
  obtain ⟨hv, ha, hp, hj, hs⟩ := h
  cases s; cases t; dsimp only at hv ha hp hj hs
  subst hv ha hp hj hs; rfl
theorem State.SameLife.flags {s t : State} (h : s.SameLife t) : t.flags = s.flags := by simp only [State.flags, h.1]

/-- A command that leaves STATE and the flags raises no UNIT_STATE_CHANGE. -/
theorem State.SameLife.noteState {s t : State} (h : s.SameLife t) :
    ∃ b, s.noteState t = { t with vigil := { t.vigil with wasReady := b } } := by
  obtain ⟨b, u, hu, rfl | ⟨-, hc⟩⟩ := s.noteState_cases t
  · exact ⟨b, hu⟩
  · simp [h.stateCode, h.flags] at hc
theorem State.SameLife.after_port {s t : State} (h : s.SameLife t) (ps : List Part) (k : Nat) : (s.after ps t).port k = t.port k := by
  obtain ⟨b, hb⟩ := h.noteState
  simp [State.port, State.after, hb]
theorem State.SameLife.after_out {s t : State} (h : s.SameLife t) (ps : List Part) : (s.after ps t).out = t.out := by
  obtain ⟨b, hb⟩ := h.noteState
  simp [State.after, hb]

theorem State.setPort_sameLife (s : State) (p : Nat) (x : Port) : s.SameLife (s.setPort p x) := ⟨rfl, rfl, rfl, rfl, rfl⟩
theorem State.updPort_sameLife (s : State) (p : Nat) (g : Port → Port) : s.SameLife (s.updPort p g) := s.setPort_sameLife p _
theorem State.emit_sameLife (s : State) (p : Nat) (o : Out) : s.SameLife (s.emit p o) := by simp [State.SameLife]
theorem State.count_sameLife (s : State) (blk pos n : Nat) : s.SameLife (s.count blk pos n) := by simp [State.SameLife]

/-! ### Ports -/

theorem State.setPort_port (s : State) (p : Nat) (x : Port) (k : Nat) :
    (s.setPort p x).port k = if k = p then x else s.port k := Sparse.get_set _ _ _ _ _
theorem State.updPort_port (s : State) (p : Nat) (g : Port → Port) (k : Nat) :
    (s.updPort p g).port k = if k = p then g (s.port p) else s.port k := s.setPort_port p _ k

/-- A command that changes one port and the outputs, and nothing else. -/
theorem State.after_withPort (s : State) (ps : List Part) (p : Nat) (x : Port) (l : List Out) :
    (s.after ps { s.setPort p x with out := l }).out = l ∧
    ∀ k, (s.after ps { s.setPort p x with out := l }).port k = if k = p then x else s.port k := by
  have life : s.SameLife { s.setPort p x with out := l } := ⟨rfl, rfl, rfl, rfl, rfl⟩
  exact ⟨life.after_out ps, fun k => (life.after_port ps k).trans (s.setPort_port p x k)⟩

theorem Port.msix_set (x : Port) (v : Nat) (e : BitVec 128) :
    Port.msix { x with msixTable := Sparse.set (1#128 <<< 96) x.msixTable v e } v = e := Sparse.get_set_same _ _ _ _

theorem State.barLive_iff (s : State) : s.barLive = true ↔ s.vigil.phase = .up ∨ s.vigil.phase = .vigil ∨
    s.vigil.phase = .waking ∧ s.vigil.holdReset = false ∧ s.vigil.holdPower = false := by
  unfold State.barLive; cases s.vigil.phase <;> simp
theorem State.powered_iff (s : State) : s.powered = true ↔ s.vigil.phase ≠ .off ∧ (s.port 0).crs = false := by
  simp [State.powered]

/-! ### Sending vectors (R332, R348) -/

/-- A vector of a port is sent, or waits until it is unmasked or the port is in D0 again. -/
def State.Sent (s : State) (p v : Nat) : Prop :=
  Out.msix p v ∈ s.out ∨ v ∈ (s.port p).msixPending ∨ Out.msix p v ∈ (s.port p).held

theorem State.SameLife.after_sent {s t : State} (h : s.SameLife t) (ps : List Part) (p v : Nat) :
    (s.after ps t).Sent p v ↔ t.Sent p v := by simp only [State.Sent, h.after_port, h.after_out]

/-- From one state to the other, port `p` sends: its pending and held lists change, and no vector is lost. -/
structure State.Sends (p : Nat) (s t : State) : Prop where
  life : s.SameLife t
  other : ∀ k, k ≠ p → t.port k = s.port k
  port : t.port p = { s.port p with msixPending := (t.port p).msixPending, held := (t.port p).held }
  sent : ∀ v, s.Sent p v → t.Sent p v

theorem State.Sends.refl (p : Nat) (s : State) : State.Sends p s s := ⟨.refl s, fun _ _ => rfl, rfl, fun _ h => h⟩
theorem State.Sends.trans {p : Nat} {s t u : State} (h : State.Sends p s t) (g : State.Sends p t u) : State.Sends p s u where
  life := h.life.trans g.life
  other k hk := (g.other k hk).trans (h.other k hk)
  port := by rw [g.port, h.port]
  sent v hv := g.sent v (h.sent v hv)

theorem State.Sends.eventMask {p : Nat} {s t : State} (h : State.Sends p s t) : (t.port p).eventMask = (s.port p).eventMask := by
  rw [h.port]
theorem State.Sends.eventCause {p : Nat} {s t : State} (h : State.Sends p s t) : (t.port p).eventCause = (s.port p).eventCause := by
  rw [h.port]

theorem State.emit_awake {s : State} {p : Nat} (h : (s.port p).d3 = false) (o : Out) : s.emit p o = { s with out := s.out ++ [o] } := by
  simp [State.emit, h]
theorem State.emit_asleep {s : State} {p : Nat} (h : (s.port p).d3 = true) (o : Out) :
    s.emit p o = s.updPort p fun x => { x with held := x.held ++ [o] } := by simp [State.emit, h]

theorem State.emit_sends (s : State) (p : Nat) (o : Out) : State.Sends p s (s.emit p o) := by
  cases h : (s.port p).d3
  · rw [State.emit_awake h]
    exact ⟨⟨rfl, rfl, rfl, rfl, rfl⟩, fun _ _ => rfl, rfl, fun v hv => hv.imp_left (List.mem_append_left _)⟩
  · rw [State.emit_asleep h]
    refine ⟨s.setPort_sameLife p _, fun k hk => by simp [State.updPort_port, hk], by simp [State.updPort_port], fun v hv => ?_⟩
    simp only [State.Sent, State.updPort_port, if_true]
    exact hv.imp_right (Or.imp_right (List.mem_append_left _))

theorem State.emit_sent (s : State) (p v : Nat) : (s.emit p (.msix p v)).Sent p v := by
  cases h : (s.port p).d3
  · rw [State.emit_awake h]; exact .inl (by simp)
  · rw [State.emit_asleep h]; exact .inr (.inr (by simp [State.updPort_port]))

/-- R348: a vector that falls due is pending already, or becomes so, or is sent. -/
theorem State.sendMsix_cases (s : State) (p v : Nat) :
    (v ∈ (s.port p).msixPending ∧ s.sendMsix p v = s) ∨
    s.sendMsix p v = s.setPort p { s.port p with msixPending := (s.port p).msixPending ++ [v] } ∨
    s.sendMsix p v = s.emit p (.msix p v) := by
  unfold State.sendMsix; dsimp only
  split
  · split
    · rename_i h; exact .inl ⟨List.contains_iff_mem.1 h, rfl⟩
    · exact .inr (.inl rfl)
  · exact .inr (.inr rfl)

theorem State.sendMsix_sends (s : State) (p v : Nat) : State.Sends p s (s.sendMsix p v) ∧ (s.sendMsix p v).Sent p v := by
  obtain ⟨hv, h⟩ | h | h := s.sendMsix_cases p v <;> rw [h]
  · exact ⟨.refl p s, .inr (.inl hv)⟩
  · refine ⟨⟨s.setPort_sameLife p _, fun k hk => s.port_setPort_ne _ hk, by simp, fun w hw => ?_⟩, .inr (.inl (by simp))⟩
    simp only [State.Sent, State.port_setPort]
    exact hw.imp_right (Or.imp_left (List.mem_append_left _))
  · exact ⟨s.emit_sends p _, s.emit_sent p v⟩

/-- Several vectors in turn: each is sent. -/
theorem State.sendAll_sends (s : State) (p : Nat) (g : Nat → Nat) (l : List Nat) :
    State.Sends p s (l.foldl (fun s i => s.sendMsix p (g i)) s) ∧
    ∀ i ∈ l, (l.foldl (fun s i => s.sendMsix p (g i)) s).Sent p (g i) := by
  induction l generalizing s with
  | nil => exact ⟨.refl p s, by simp⟩
  | cons j l ih =>
    obtain ⟨hj, sentj⟩ := s.sendMsix_sends p (g j)
    obtain ⟨hl, sentl⟩ := ih (s.sendMsix p (g j))
    exact ⟨hj.trans hl, List.forall_mem_cons.2 ⟨hl.sent _ sentj, sentl⟩⟩

/-- In D0 everything that is emitted goes out at once. -/
theorem State.emitAll_awake {s : State} {p : Nat} (h : (s.port p).d3 = false) (g : Nat → Out) (l : List Nat) :
    l.foldl (fun s v => s.emit p (g v)) s = { s with out := s.out ++ l.map g } := by
  induction l generalizing s with
  | nil => simp
  | cons v l ih =>
    rw [List.foldl_cons, State.emit_awake h, ih (s := { s with out := s.out ++ [g v] }) h]
    simp

/-! ### Events (R337) -/

/-- What events make of a port: its causes, and what is pending or held, and nothing else. -/
def Port.Notified (x y : Port) : Prop := y = { x with eventCause := y.eventCause, msixPending := y.msixPending, held := y.held }

theorem Port.Notified.refl (x : Port) : x.Notified x := rfl
theorem Port.Notified.trans {x y z : Port} (h : x.Notified y) (g : y.Notified z) : x.Notified z := by
  unfold Port.Notified at *; rw [g, h]
theorem Port.Notified.enable {x y : Port} (h : x.Notified y) : y.enable = x.enable := by rw [h]
theorem Port.Notified.err {x y : Port} (h : x.Notified y) : y.err = x.err := by rw [h]

theorem State.Sends.notified {p : Nat} {s t : State} (h : State.Sends p s t) (k : Nat) : (s.port k).Notified (t.port k) := by
  by_cases hk : k = p
  · subst hk; unfold Port.Notified; rw [h.port]
  · rw [h.other k hk]; exact .refl _

theorem State.raise_notified (s : State) (p i k : Nat) : (s.port k).Notified ((s.raise p i).port k) := by
  have hset : ∀ c, (s.port k).Notified ((s.setPort p { s.port p with eventCause := c }).port k) := fun c => by
    rw [State.setPort_port]
    by_cases hk : k = p
    · subst hk; simp [Port.Notified]
    · simp [hk, Port.Notified]
  unfold State.raise; dsimp only
  split
  · exact .refl _
  split
  · exact hset _
  · exact (hset _).trans ((State.sendMsix_sends _ p _).1.notified k)

theorem State.raiseAll_notified (s : State) (i k : Nat) : (s.port k).Notified ((s.raiseAll i).port k) :=
  (s.raise_notified 0 i k).trans <| (State.raise_notified _ 1 i k).trans <|
    (State.raise_notified _ 2 i k).trans (State.raise_notified _ 3 i k)

/-- Beside what its meaning gives, a command makes of a port no more than UNIT_STATE_CHANGE does. -/
theorem State.after_notified (s t : State) (ps : List Part) (k : Nat) : (t.port k).Notified ((s.after ps t).port k) := by
  have hn : (t.port k).Notified ((s.noteState t).port k) := by
    obtain ⟨b, u, h, rfl | ⟨rfl, -⟩⟩ := s.noteState_cases t <;> rw [h]
    · exact .refl _
    · exact t.raiseAll_notified 0 k
  simpa [State.port, State.after] using hn

theorem State.count_notified (s : State) (blk pos n k : Nat) : (s.port k).Notified ((s.count blk pos n).port k) := by
  unfold State.count; dsimp only
  split
  · exact .refl _
  split
  · exact .refl _
  split
  · exact .refl _
  · exact State.raiseAll_notified (s.setCounter blk pos _) 8 k

/-- R423: a counter below its maximum counts. -/
theorem State.count_counter {s : State} {blk pos n : Nat} (h : (s.counter blk pos).val + n < counterMax blk pos) :
    ((s.count blk pos n).counter blk pos).val = (s.counter blk pos).val + n := by
  unfold State.count; dsimp only
  split
  · simp [*]
  · simp

/-! ### BAR0 reads (R10, R333, R335, R400) -/

theorem leBytes_take {m n : Nat} (h : m ≤ n) (v : Nat) : (leBytes n v).take m = leBytes m v := by
  simp [leBytes, ← List.map_take, List.take_range, h]

/-- UNIT_STATE and VIGIL_TIME are read in every state. -/
theorem State.barRead_unitState (s : State) (p : Nat) {n : Nat} (h : n ≤ 8) : s.barRead p 8 n = leBytes n s.unitState.toNat := by
  simp [State.barRead, State.barReg, leBytes_take h]
theorem State.barRead_vigilTime (s : State) (p : Nat) {n : Nat} (h : n ≤ 8) :
    s.barRead p 0x10 n = leBytes n s.vigil.vigilTime.toNat := by
  simp [State.barRead, State.barReg, leBytes_take h]

/-- While a reset is held before step 3 of its start, all else reads as 0. -/
theorem State.barRead_held {s : State} (hw : s.vigil.phase = .waking) (hl : s.barLive = false) (p n : Nat) {off : Nat}
    (h1 : off / 8 ≠ 1) (h2 : off / 8 ≠ 2) : s.barRead p off n = List.replicate n 0 := by
  simp [State.barRead, hw, hl, h1, h2]

/-- Offsets between the registers and the MSI-X table read as 0. -/
theorem State.barRead_reserved (s : State) (p n : Nat) {off : Nat} (h1 : 0x60 ≤ off) (h2 : off < 0x200000) :
    s.barRead p off n = List.replicate n 0 := by
  have hl : off ≠ 0x14 := by omega
  simp [State.barRead, hl, Nat.not_lt.2 h1, Nat.not_le.2 h2, show ¬0x300000 ≤ off by omega]

/-! ### BAR0 writes (R288, R333, R336, R337, R400) -/

theorem mergeLanes_whole (old v : Word) : mergeLanes old v 0 8 = v := by
  have hm : laneMask 0 8 = BitVec.allOnes 64 := by decide
  simp only [mergeLanes, hm, BitVec.not_allOnes, BitVec.and_zero, BitVec.zero_or, BitVec.and_allOnes, Nat.mul_zero, BitVec.shiftLeft_zero]

/-- The causes that stand and that the mask `v` uncovers. -/
def State.uncovered (s : State) (p : Nat) (v : Word) : List Nat :=
  (List.range 64).filter fun i => bit (s.port p).eventMask i && !bit v i && bit (s.port p).eventCause i

theorem State.mem_uncovered {s : State} {p i : Nat} {v : Word} : i ∈ s.uncovered p v ↔
    i < 64 ∧ bit (s.port p).eventMask i = true ∧ bit v i = false ∧ bit (s.port p).eventCause i = true := by
  simp [State.uncovered, and_assoc]

theorem State.writeMask_live {s : State} (hl : s.barLive = true) (p : Nat) (v : Word) : s.writeMask p v =
    (s.uncovered p v).foldl (fun s i => s.sendMsix p (1024 + i)) (s.setPort p { s.port p with eventMask := v }) :=
  if_neg (by simp [hl])

theorem State.barWrite_doorbell {s : State} (hw : s.powered = true) (p : Nat) {off q : Nat} (hq : q < 1024) (h8 : off / 8 = 0x20000 + q)
    (h4 : off % 4 = 0) (v : Word) : s.barWrite p off 4 v = s.doorbell p q (v.extractLsb' 0 32) (off % 8 = 0) := by
  have hi : (off - 0x100000) / 8 = q := by omega
  simp [State.barWrite, hw, h4, hi, show 0x100000 ≤ off by omega, show off < 0x102000 by omega]

theorem State.barWrite_sqBase {s : State} (hl : s.barLive = true) {p : Nat} (he : (s.port p).enable = false) (v : Word) :
    s.barWrite p 0x30 8 v = s.setPort p { s.port p with sqBase := v &&& 0xFFFFFFFFFFFFF000#64 } := by
  simp [State.barWrite, State.writeReg, hl, he, mergeLanes_whole]

theorem State.barWrite_beyond {s : State} (hl : s.barLive = true) (p : Nat) (v : Word) :
    s.barWrite p 0x3FFFF8 8 v = s.barDiscard p := by simp [State.barWrite, hl]

/-- Table 18-6: the counter of discarded BAR0 writes is an error counter, of 16 bits. -/
theorem counterMax_portDiscard {p : Nat} (hp : p < 4) : counterMax (portBlock p) 3 = 65535 := by
  have hk : portBlock p / 2 ^ 24 = 4 := by unfold portBlock blockId; omega
  rw [counterMax, hk]; rfl

/-! ### ADMIN_SIZES (R336, R400) -/

theorem asSq_eq (v : Word) : asSq v = v.toNat % 32 := by simp [asSq, fld]
theorem asCq_eq (v : Word) : asCq v = v.toNat / 256 % 32 := by simp [asCq, fld, Nat.shiftRight_eq_div_pow]

/-- A port with ENABLE written and the sizes of `v`. -/
def Port.enabled (x : Port) (v : Word) : Port := { x with enable := true, sqLog2 := v.toNat % 32, cqLog2 := v.toNat / 256 % 32 }

theorem State.adminEnable_up {s : State} {p : Nat} (hw : s.powered = true) (hu : s.vigil.phase = .up) (he : (s.port p).enable = false)
    (v : Word) : s.adminEnable p v = (s.setPort p ((s.port p).enabled v)).bringUp p := by
  simp [State.adminEnable, hw, he, hu, State.updPort, Port.enabled, asSq_eq, asCq_eq]
theorem State.adminEnable_vigil {s : State} {p : Nat} (hw : s.powered = true) (hu : s.vigil.phase = .vigil)
    (he : (s.port p).enable = false) (v : Word) : s.adminEnable p v =
      { s.setPort p ((s.port p).enabled v) with vigil := { s.vigil with phase := .waking } } := by
  simp [State.adminEnable, hw, he, hu, State.updPort, Port.enabled, asSq_eq, asCq_eq]

theorem State.bringUp_off {s : State} {p : Nat} (h : (s.port p).enable = false) : s.bringUp p = s := by simp [State.bringUp, h]
theorem State.bringUp_ok {s : State} {p : Nat} (he : (s.port p).enable = true) (hq : (s.queue p).st = .uncreated)
    (hok : 4 ≤ (s.port p).sqLog2 ∧ (s.port p).sqLog2 ≤ 16 ∧ 4 ≤ (s.port p).cqLog2 ∧ (s.port p).cqLog2 ≤ 16) :
    s.bringUp p = (s.setQueue p {
      st := .active, gen := (s.queue p).gen, sqBase := (s.port p).sqBase.toNat, cqBase := (s.port p).cqBase.toNat
      sqLog2 := (s.port p).sqLog2, cqLog2 := (s.port p).cqLog2 }).setPort p { s.port p with err := false } := by
  simp [State.bringUp, he, hq, hok]
theorem State.bringUp_refused {s : State} {p : Nat} (he : (s.port p).enable = true) (hq : (s.queue p).st = .uncreated)
    (hok : ¬(4 ≤ (s.port p).sqLog2 ∧ (s.port p).sqLog2 ≤ 16 ∧ 4 ≤ (s.port p).cqLog2 ∧ (s.port p).cqLog2 ≤ 16)) :
    s.bringUp p = s.setPort p { s.port p with err := true } := by
  have hb : ((decide (4 ≤ (s.port p).sqLog2) && decide ((s.port p).sqLog2 ≤ 16)) &&
      (decide (4 ≤ (s.port p).cqLog2) && decide ((s.port p).cqLog2 ≤ 16))) = false := by simpa [and_assoc] using hok
  simp [State.bringUp, he, hq, hb]

/-- Sizes written while ENABLE is 1 are at most counted. -/
theorem State.sizesWhileEnabled_queue (s : State) (p : Nat) (v : Word) (k : Nat) : (s.sizesWhileEnabled p v).queue k = s.queue k := by
  unfold State.sizesWhileEnabled State.barDiscard; split <;> simp

theorem State.adminDisable_enable {s : State} {p : Nat} (hl : s.barLive = true) (he : (s.port p).enable = true) (v : Word) :
    ((s.adminDisable p v).port p).enable = false := by
  simp only [State.adminDisable, hl, he, Bool.not_true, Bool.false_eq_true, if_false, if_true]
  split <;> simp [State.updPort, State.updQueue]
theorem State.adminDisable_queue {s : State} {p : Nat} (hl : s.barLive = true) (he : (s.port p).enable = true) (v : Word) (k : Nat) :
    (s.adminDisable p v).queue k =
      if k = p ∧ (s.queue p).st ≠ .uncreated then { s.queue p with deleting := true } else s.queue k := by
  simp only [State.adminDisable, hl, he, Bool.not_true, Bool.false_eq_true, if_false, if_true, State.updPort, State.updQueue]
  by_cases hq : (s.queue p).st = .uncreated
  · simp [hq, State.sizesWhileEnabled_queue]
  · by_cases hk : k = p
    · subst hk; simp [hq, State.sizesWhileEnabled_queue]
    · simp [hq, hk, State.queue_setQueue_ne, State.sizesWhileEnabled_queue]

/-- The teardown of an admin queue that is off and has no entry left: it is uncreated, and its error is cleared. -/
theorem State.teardown_ends {s : State} {p : Nat} (hq : (s.queue p).deleting = true) (he : (s.port p).enable = false)
    (hm : ∀ m ∈ s.msgs, m.id.src ≠ p) : s.teardown p = (s.uncreate p).setPort p { s.port p with err := false } := by
  have hany : (s.msgs.any fun m => m.id.src = p) = false := by simpa using hm
  have hoff : (((s.uncreate p).updPort p fun x => { x with err := false }).port p).enable = false := by
    rw [State.updPort, State.port_setPort]; exact he
  simp only [State.teardown, hq, hany, Bool.true_or, Bool.not_false, Bool.and_self, if_true]
  exact State.bringUp_off hoff

/-! ### Unmasking a vector (R348) -/

/-- The entry that a write of 0 to a vector's mask leaves has its mask bit clear. -/
theorem unmasked_bit (e : BitVec 128) :
    bit ((e &&& ~~~(BitVec.ofNat 128 ((2 ^ 32 - 1) * 2 ^ 96))) ||| (((0 : Word).setWidth 128 <<< 96) &&&
      BitVec.ofNat 128 ((2 ^ 32 - 1) * 2 ^ 96))) 96 = false := by
  have hm : (BitVec.ofNat 128 ((2 ^ 32 - 1) * 2 ^ 96)).getLsbD 96 = true := by decide
  simp only [bit, BitVec.getLsbD_or, BitVec.getLsbD_and, BitVec.getLsbD_not, hm]
  simp

/-- A vector that is unmasked in an awake, enabled port is sent if it was pending, and is pending no more. -/
theorem State.flushMsix_sends {s : State} {p v : Nat} (hd : (s.port p).d3 = false) (he : (s.port p).msixEnable = true)
    (hf : (s.port p).funcMask = false) (hb : bit ((s.port p).msix v) 96 = false) (ho : s.ownsVector p v = true)
    (hm : v ∈ (s.port p).msixPending) :
    s.SameLife (s.flushMsix p) ∧ Out.msix p v ∈ (s.flushMsix p).out ∧ v ∉ ((s.flushMsix p).port p).msixPending := by
  simp only [State.flushMsix, he, hf, Bool.not_true, Bool.or_false, Bool.false_eq_true, if_false]
  rw [State.emitAll_awake (by simpa using hd)]
  refine ⟨⟨rfl, rfl, rfl, rfl, rfl⟩, ?_, fun h => ?_⟩
  · simp [hm, hb, ho]
  · change v ∈ ((s.setPort p _).port p).msixPending at h
    simp [hb] at h

end Sys2Proof.Machine

namespace Sys2Proof.Claims

open Sys2Proof.Machine

/-! ### The commands of a host port's registers -/

section Commands
variable (s : State) (p : Nat)

theorem exec_vigilTimeLowRead (tag : Nat) : exec (.vigilTimeLowRead p tag) s = onUnit [] (decide (p < 4)) s fun s =>
    if s.powered then
      (s.updPort p fun x => { x with timeLatch := s.vigil.vigilTime.extractLsb' 32 32 }).emit p (.cpl p tag (s.barRead p 0x10 4) false)
    else s := by rfl
theorem exec_eventCauseWrite (v : Word) :
    exec (.eventCauseWrite p v) s = onUnit [] (decide (p < 4)) s fun s => s.clearCause p v := by rfl
theorem exec_eventMaskWrite (v : Word) :
    exec (.eventMaskWrite p v) s = onUnit [] (decide (p < 4)) s fun s => s.writeMask p v := by rfl
theorem exec_msixUnmask (x : MsixChange) : exec (.msixUnmask p x) s =
    onUnit [] (p < 4 && msixExists x) s fun s => if s.mayUnmask x then s.unmask p x else s := by rfl
theorem exec_d3hotEntry : exec (.d3hotEntry p) s = onUnit [] (decide (p < 4)) s fun s =>
    if s.powered then s.updPort p fun x => { x with d3 := true } else s := by rfl
theorem exec_d0Return : exec (.d0Return p) s = onUnit [] (decide (p < 4)) s fun s =>
    if (s.port p).d3 then { s.updPort p fun x => { x with d3 := false, held := [] } with out := s.out ++ (s.port p).held } else s := by rfl
theorem exec_adminEnable (v : Word) : exec (.adminEnable p v) s =
    onUnit [.queues, .counters] (p < 4 && asEnable v) s fun s => s.adminEnable p v := by rfl
theorem exec_adminDisable (v : Word) : exec (.adminDisable p v) s =
    onUnit [.queues, .counters] (p < 4 && !asEnable v) s fun s => s.adminDisable p v := by rfl
theorem exec_adminTeardownComplete : exec (.adminTeardownComplete p) s =
    onUnit [.fields, .queues, .plans, .streams, .staged, .active, .fabStaged, .fabActive] (decide (p < 4)) s fun s => s.teardown p := by rfl
theorem exec_bar0RegisterWrite (off size : Nat) (v : Word) : exec (.bar0RegisterWrite p off size v) s =
    onUnit [.queues, .log, .counters] (p < 4 && off + size ≤ 0x400000) s fun s => s.barWrite p off size v := by rfl
theorem exec_sqTailDoorbell (q : Nat) (v : BitVec 32) : exec (.sqTailDoorbell p q v) s =
    onUnit [.queues, .log, .counters] (portQueue p q) s fun s => s.doorbell p q v true := by rfl
theorem exec_cqHeadDoorbell (q : Nat) (v : BitVec 32) : exec (.cqHeadDoorbell p q v) s =
    onUnit [.queues, .log, .counters] (portQueue p q) s fun s => s.doorbell p q v false := by rfl

end Commands

section Registers
variable {s : State} {p : Nat}

/-- A command of the unit, whose meaning gives `u`, completes in the state `after` it. -/
theorem goes_onUnit {i : Instr} {ps : List Part} {ok : Bool} {f : State → State} {P : State → Prop}
    (hi : exec i s = onUnit ps ok s f) (hok : ok = true) {u : State} (hu : f s = u) (h : P (s.after ps u)) : Goes i s P :=
  ⟨_, exec_onUnit hi hok, hu ▸ h⟩

/-- R335: both halves of VIGIL_TIME are of one moment. -/
theorem vigilTimeLowRead_latches (hp : p < 4) (hw : s.powered = true) (hd : (s.port p).d3 = false) (tag : Nat) :
    Goes (.vigilTimeLowRead p tag) s fun t =>
      (t.port p).timeLatch = s.vigil.vigilTime.extractLsb' 32 32 ∧ Out.cpl p tag (leBytes 4 s.vigil.vigilTime.toNat) false ∈ t.out ∧
      ∀ k, k ≠ p → t.port k = s.port k := by
  refine goes_onUnit (exec_vigilTimeLowRead s p tag) (decide_eq_true hp) (if_pos hw) ?_
  rw [State.emit_awake (by simpa [State.updPort] using hd), s.barRead_vigilTime p (by decide)]
  obtain ⟨hout, hport⟩ := s.after_withPort [] p { s.port p with timeLatch := s.vigil.vigilTime.extractLsb' 32 32 }
    (s.out ++ [.cpl p tag (leBytes 4 s.vigil.vigilTime.toNat) false])
  refine ⟨congrArg Port.timeLatch ((hport p).trans (if_pos rfl)), ?_, fun k hk => (hport k).trans (if_neg hk)⟩
  exact hout.symm ▸ List.mem_append_right _ (List.mem_singleton_self _)

/-- R337: a cause is cleared by writing 1 to it. -/
theorem eventCauseWrite_clears (hp : p < 4) (hl : s.barLive = true) (v : Word) : Goes (.eventCauseWrite p v) s fun t => ∀ k,
    t.port k = if k = p then { s.port p with eventCause := (s.port p).eventCause &&& ~~~v } else s.port k := by
  refine goes_onUnit (exec_eventCauseWrite s p v) (decide_eq_true hp) (if_pos hl) fun k => ?_
  rw [(s.updPort_sameLife p _).after_port, State.updPort_port]

/-- R337: a cleared mask bit whose cause stands sends its vector. -/
theorem eventMaskWrite_sends (hp : p < 4) (hl : s.barLive = true) (v : Word) : Goes (.eventMaskWrite p v) s fun t =>
    (t.port p).eventMask = v ∧ (t.port p).eventCause = (s.port p).eventCause ∧ (∀ k, k ≠ p → t.port k = s.port k) ∧
    ∀ i < 64, (s.port p).eventMask.getLsbD i = true → v.getLsbD i = false → (s.port p).eventCause.getLsbD i = true →
      t.Sent p (1024 + i) := by
  refine goes_onUnit (exec_eventMaskWrite s p v) (decide_eq_true hp) (State.writeMask_live hl p v) ?_
  have hset := s.port_setPort p { s.port p with eventMask := v }
  obtain ⟨hs, sent⟩ := State.sendAll_sends (s.setPort p { s.port p with eventMask := v }) p (1024 + ·) (s.uncovered p v)
  have life := (s.setPort_sameLife p _).trans hs.life
  simp only [life.after_port, life.after_sent]
  refine ⟨hs.eventMask.trans (by rw [hset]), hs.eventCause.trans (by rw [hset]),
    fun k hk => (hs.other k hk).trans (s.port_setPort_ne _ hk), fun i hi hm hv hc => sent i (State.mem_uncovered.2 ⟨hi, hm, hv, hc⟩)⟩

/-- R348: a vector that was pending behind its mask is sent. -/
theorem msixUnmask_sends (hp : p < 4) {v : Nat} (hv : v < 1088) (hl : s.barLive = true) (hd : (s.port p).d3 = false)
    (he : (s.port p).msixEnable = true) (hf : (s.port p).funcMask = false) (ho : s.ownsVector p v = true)
    (hm : v ∈ (s.port p).msixPending) : Goes (.msixUnmask p (.vector v)) s fun t =>
      Out.msix p v ∈ t.out ∧ v ∉ (t.port p).msixPending := by
  refine goes_onUnit (exec_msixUnmask s p _) (by simp [hp, msixExists, hv]) (if_pos hl) ?_
  obtain ⟨life, hout, hpend⟩ := State.flushMsix_sends (s := s.setPort p { s.port p with
      msixTable := Sparse.set (1#128 <<< 96) (s.port p).msixTable v _ }) (p := p) (v := v)
    (by simpa using hd) (by simpa using he) (by simpa using hf) (by
      rw [State.port_setPort, Port.msix_set]; exact unmasked_bit ((s.port p).msix v)) ho (by simpa using hm)
  have life := (s.setPort_sameLife p _).trans life
  exact ⟨(life.after_out _).symm ▸ hout, (life.after_port _ p).symm ▸ hpend⟩

/-- R332: from here on the port holds what it sends. -/
theorem d3hotEntry_holds (hp : p < 4) (hw : s.powered = true) :
    Goes (.d3hotEntry p) s fun t => ∀ k, t.port k = if k = p then { s.port p with d3 := true } else s.port k := by
  refine goes_onUnit (exec_d3hotEntry s p) (decide_eq_true hp) (if_pos hw) fun k => ?_
  rw [(s.updPort_sameLife p _).after_port, State.updPort_port]

/-- R332: what the port held goes out, in order. -/
theorem d0Return_sends (hp : p < 4) (hd : (s.port p).d3 = true) : Goes (.d0Return p) s fun t =>
    t.out = s.out ++ (s.port p).held ∧
    ∀ k, t.port k = if k = p then { s.port p with d3 := false, held := [] } else s.port k :=
  goes_onUnit (exec_d0Return s p) (decide_eq_true hp) (if_pos hd) (s.after_withPort [] p _ _)

/-- R336: the bring-up of the admin queue, and its refusal for sizes out of range. -/
theorem adminEnable_bringsUp (hp : p < 4) (hw : s.powered = true) (hu : s.vigil.phase = .up) (he : (s.port p).enable = false)
    (hq : (s.queue p).st = .uncreated) {v : Word} (hv : v.getLsbD 16 = true) :
    let sq := v.toNat % 32
    let cq := v.toNat / 256 % 32
    let ok := 4 ≤ sq ∧ sq ≤ 16 ∧ 4 ≤ cq ∧ cq ≤ 16
    Goes (.adminEnable p v) s fun t => (t.port p).enable = true ∧ (t.port p).sqLog2 = sq ∧ (t.port p).cqLog2 = cq ∧
      (ok → (t.port p).err = false ∧ t.queue p = {
        st := .active, gen := (s.queue p).gen, sqBase := (s.port p).sqBase.toNat, cqBase := (s.port p).cqBase.toNat,
        sqLog2 := sq, cqLog2 := cq }) ∧
      (¬ok → (t.port p).err = true ∧ t.queue p = s.queue p) := by
  intro sq cq ok
  refine goes_onUnit (exec_adminEnable s p v) (by simp [hp, show asEnable v = true from hv]) (State.adminEnable_up hw hu he v) ?_
  have hx := s.port_setPort p ((s.port p).enabled v)
  have hen : ((s.setPort p ((s.port p).enabled v)).port p).enable = true := congrArg Port.enable hx
  by_cases hok : ok
  · rw [State.bringUp_ok hen hq (by rw [hx]; exact hok), hx]
    have life (x y : Port) (z : Queue) : s.SameLife (((s.setPort p x).setQueue p z).setPort p y) := ⟨rfl, rfl, rfl, rfl, rfl⟩
    rw [(life _ _ _).after_port, State.port_setPort, State.after_queue _ _ (by simp)]
    exact ⟨rfl, rfl, rfl, fun _ => ⟨rfl, by simp [Port.enabled, sq, cq]⟩, fun h => absurd hok h⟩
  · rw [State.bringUp_refused hen hq (by rw [hx]; exact hok), hx]
    have life (x y : Port) : s.SameLife ((s.setPort p x).setPort p y) := ⟨rfl, rfl, rfl, rfl, rfl⟩
    rw [(life _ _).after_port, State.port_setPort, State.after_queue _ _ (by simp)]
    exact ⟨rfl, rfl, rfl, fun h => absurd h hok, fun _ => ⟨rfl, rfl⟩⟩

/-- R400: in VIGIL the bring-up wakes the unit. -/
theorem adminEnable_wakes (hp : p < 4) (hw : s.powered = true) (hu : s.vigil.phase = .vigil) (he : (s.port p).enable = false)
    {v : Word} (hv : v.getLsbD 16 = true) : Goes (.adminEnable p v) s fun t =>
      t.vigil.phase = .waking ∧ (t.port p).enable = true ∧ t.queues = s.queues := by
  refine goes_onUnit (exec_adminEnable s p v) (by simp [hp, show asEnable v = true from hv]) (State.adminEnable_vigil hw hu he v) ?_
  refine ⟨State.after_phase _ _ _, ?_, (State.after_queues _ _ _).trans (by simp)⟩
  exact (State.after_notified _ _ _ p).enable.trans (congrArg Port.enable (s.port_setPort p _))

/-- R336: fetch stops, and the teardown waits for the entries fetched. -/
theorem adminDisable_tearsDown (hp : p < 4) (hl : s.barLive = true) (he : (s.port p).enable = true) {v : Word}
    (hv : v.getLsbD 16 = false) : Goes (.adminDisable p v) s fun t => (t.port p).enable = false ∧
      (∀ k, k ≠ p → t.queue k = s.queue k) ∧ ((s.queue p).st ≠ .uncreated → t.queue p = { s.queue p with deleting := true }) := by
  refine goes_onUnit (exec_adminDisable s p v) (by simp [hp, show asEnable v = false from hv]) rfl ?_
  have hqueue (k : Nat) := (s.after_queue (s.adminDisable p v) (ps := [.queues, .counters]) (by simp) k).trans
    (State.adminDisable_queue hl he v k)
  exact ⟨(State.after_notified _ _ _ p).enable.trans (State.adminDisable_enable hl he v),
    fun k hk => (hqueue k).trans (if_neg fun h => hk h.1), fun hq => (hqueue p).trans (if_pos ⟨rfl, hq⟩)⟩

/-- R336: the last entry has completed, and ENABLE has stayed 0. -/
theorem adminTeardown_completes (hp : p < 4) (hq : (s.queue p).deleting = true) (he : (s.port p).enable = false)
    (hm : ∀ m ∈ s.msgs, m.id.src ≠ p) : Goes (.adminTeardownComplete p) s fun t =>
      t.queue p = { gen := ((s.queue p).gen + 1) % 65536 } ∧ (t.port p).err = false ∧ ∀ k, k ≠ p → t.queue k = s.queue k := by
  refine goes_onUnit (exec_adminTeardownComplete s p) (decide_eq_true hp) (State.teardown_ends hq he hm) ?_
  simp only [State.after_queue _ _ (ps := [.fields, .queues, .plans, .streams, .staged, .active, .fabStaged, .fabActive]) (by simp)]
  refine ⟨s.queue_setQueue p _, ?_, fun k hk => s.queue_setQueue_ne _ hk⟩
  exact (State.after_notified _ _ _ p).err.trans (congrArg Port.err (State.port_setPort _ p _))

/-- R334, R335: the base of the admin queue while it is off. -/
theorem bar0RegisterWrite_setsBase (hp : p < 4) (hl : s.barLive = true) (he : (s.port p).enable = false) (v : Word) :
    Goes (.bar0RegisterWrite p 0x30 8 v) s fun t =>
      t.port p = { s.port p with sqBase := v &&& 0xFFFFFFFFFFFFF000#64 } ∧ t.queues = s.queues := by
  refine goes_onUnit (exec_bar0RegisterWrite s p 0x30 8 v) (by simp [hp]) (State.barWrite_sqBase hl he v) ⟨?_, ?_⟩
  · rw [(s.setPort_sameLife p _).after_port, State.port_setPort]
  · simp [State.after_queues]

/-- R288, R333: a doorbell is written through BAR0, the tail in the low half of the pair's quadword. -/
theorem bar0RegisterWrite_doorbell (hp : p < 4) (hw : s.powered = true) {off q : Nat} (hq : q < 1024) (h8 : off / 8 = 0x20000 + q)
    (h4 : off % 4 = 0) (v : Word) : exec (.bar0RegisterWrite p off 4 v) s =
      .next (s.after [.queues, .log, .counters] (s.doorbell p q (v.extractLsb' 0 32) (off % 8 = 0))) := by
  have hoff : off + 4 ≤ 0x400000 := by omega
  rw [exec_onUnit (exec_bar0RegisterWrite s p off 4 v) (by simp [hp, hoff]), State.barWrite_doorbell hw p hq h8 h4]
theorem bar0RegisterWrite_sqTail (hp : p < 4) (hw : s.powered = true) {q : Nat} (hq : q < 1024) (v : Word) :
    exec (.bar0RegisterWrite p (0x100000 + 8 * q) 4 v) s = exec (.sqTailDoorbell p q (v.extractLsb' 0 32)) s := by
  rw [bar0RegisterWrite_doorbell hp hw hq (by omega) (by omega), decide_eq_true (show (0x100000 + 8 * q) % 8 = 0 by omega),
    exec_onUnit (exec_sqTailDoorbell s p q _) (by simp [portQueue, hp, hq])]
theorem bar0RegisterWrite_cqHead (hp : p < 4) (hw : s.powered = true) {q : Nat} (hq : q < 1024) (v : Word) :
    exec (.bar0RegisterWrite p (0x100004 + 8 * q) 4 v) s = exec (.cqHeadDoorbell p q (v.extractLsb' 0 32)) s := by
  rw [bar0RegisterWrite_doorbell hp hw hq (by omega) (by omega), decide_eq_false (show ¬(0x100004 + 8 * q) % 8 = 0 by omega),
    exec_onUnit (exec_cqHeadDoorbell s p q _) (by simp [portQueue, hp, hq])]

/-- R333, R423: a write that reaches no register is discarded and counted. -/
theorem bar0RegisterWrite_discarded (hp : p < 4) (hl : s.barLive = true) (v : Word) :
    Goes (.bar0RegisterWrite p 0x3FFFF8 8 v) s fun t => (s.port p).Notified (t.port p) ∧ t.queues = s.queues ∧
      ((s.counter (portBlock p) 3).val + 1 < 65535 → (t.counter (portBlock p) 3).val = (s.counter (portBlock p) 3).val + 1) := by
  refine goes_onUnit (exec_bar0RegisterWrite s p 0x3FFFF8 8 v) (by simp [hp]) (State.barWrite_beyond hl p v) ⟨?_, ?_, fun hc => ?_⟩
  · exact (s.count_notified _ 3 1 p).trans (State.after_notified _ _ _ p)
  · simp [State.after_queues, State.barDiscard]
  · rw [State.after_counter _ _ (by simp)]
    exact State.count_counter (Nat.lt_of_lt_of_eq hc (counterMax_portDiscard hp).symm)

end Registers
/-- Settles O39: a lemma for each command of a host port's registers, over the two conditions of R400, powered and live. -/
theorem hostRegistersAct : Obligations.HostRegistersAct := by
  intro s p hp x powered live sent
  have hpow : powered → s.powered = true := s.powered_iff.2
  have hlive : live → s.barLive = true := s.barLive_iff.2
  have hheld : ¬live → s.barLive = false := fun h => Bool.eq_false_iff.2 fun hl => h (s.barLive_iff.1 hl)
  exact ⟨
    fun tag hw hd => vigilTimeLowRead_latches hp (hpow hw) hd tag,
    fun v hl => eventCauseWrite_clears hp (hlive hl) v,
    fun v hl => eventMaskWrite_sends hp (hlive hl) v,
    fun v hv hl hd he hf ho hm => msixUnmask_sends hp hv (hlive hl) hd he hf ho hm,
    fun hw => d3hotEntry_holds hp (hpow hw),
    fun hd => d0Return_sends hp hd,
    fun v hv hw hu he hq => adminEnable_bringsUp hp (hpow hw) hu he hq hv,
    fun v hv hw hu he => adminEnable_wakes hp (hpow hw) hu he hv,
    fun v hv hl he => adminDisable_tearsDown hp (hlive hl) he hv,
    fun hq he hm => adminTeardown_completes hp hq he hm,
    fun hw hl => ⟨s.barRead_unitState p (Nat.le_refl 8), s.barRead_vigilTime p (Nat.le_refl 8),
      fun off size h1 h2 => State.barRead_held hw (hheld hl) p size h1 h2⟩,
    fun v hl => ⟨fun he => bar0RegisterWrite_setsBase hp (hlive hl) he v,
      fun hw q hq => ⟨bar0RegisterWrite_sqTail hp (hpow hw) hq v, bar0RegisterWrite_cqHead hp (hpow hw) hq v⟩,
      fun off size h1 h2 => s.barRead_reserved p size h1 (by omega),
      bar0RegisterWrite_discarded hp (hlive hl) v⟩⟩

end Sys2Proof.Claims
end

section
/-! SUPPORT. The work of one bank unit: what it sees and what it changes, the operations of a bank unit's instructions as work of one
BU alone, and the settled statement BroadcastIsEachBu. -/

namespace Sys2Proof.Machine

section Locality
variable {f c u a : Nat} {s t s' t' : State} {α : Type}

/-! ### What one BU sees and changes -/

/-- Two states that BU `u` of a core cannot tell apart: its state, its rows and the unit's time are the same. -/
structure State.SameBu (f c u : Nat) (s t : State) : Prop where
  bu : t.bu f c u = s.bu f c u
  bank : ∀ a, a / 0x8000 = buKey f c u → t.mem.get a = s.mem.get a
  vigil : t.vigil = s.vigil

/-- From `s` to `t`, BU `u` of a core works: no other BU of the core changes, no word outside its rows, no core and no field. -/
structure State.OnlyBu (f c u : Nat) (s t : State) : Prop where
  bu : ∀ v, v ≠ u → t.bu f c v = s.bu f c v
  bank : ∀ a, a / 0x8000 ≠ buKey f c u → t.mem.get a = s.mem.get a
  vigil : t.vigil = s.vigil
  cores : t.cores = s.cores
  fields : t.fields = s.fields

/-- From `s` to `t`, at most outputs, ports, counters and records change. -/
structure State.Noted (s t : State) : Prop where
  bus : t.bus = s.bus
  mem : t.mem = s.mem
  vigil : t.vigil = s.vigil
  cores : t.cores = s.cores
  fields : t.fields = s.fields

theorem State.SameBu.refl (s : State) : s.SameBu f c u s := ⟨rfl, fun _ _ => rfl, rfl⟩
theorem State.SameBu.symm (h : s.SameBu f c u t) : t.SameBu f c u s :=
  ⟨h.bu.symm, fun a ha => (h.bank a ha).symm, h.vigil.symm⟩
theorem State.SameBu.trans (h : s.SameBu f c u t) (g : t.SameBu f c u t') : s.SameBu f c u t' :=
  ⟨g.bu.trans h.bu, fun a ha => (g.bank a ha).trans (h.bank a ha), g.vigil.trans h.vigil⟩

theorem State.OnlyBu.refl (s : State) : s.OnlyBu f c u s := ⟨fun _ _ => rfl, fun _ _ => rfl, rfl, rfl, rfl⟩
theorem State.OnlyBu.trans (h : s.OnlyBu f c u t) (g : t.OnlyBu f c u t') : s.OnlyBu f c u t' :=
  ⟨fun v hv => (g.bu v hv).trans (h.bu v hv), fun a ha => (g.bank a ha).trans (h.bank a ha), g.vigil.trans h.vigil,
    g.cores.trans h.cores, g.fields.trans h.fields⟩

theorem buKey_ne {v : Nat} (h : v ≠ u) : buKey f c v ≠ buKey f c u := by unfold buKey; omega

/-- The BUs of a core do not see each other's work. -/
theorem State.OnlyBu.same {v : Nat} (h : s.OnlyBu f c u t) (hv : v ≠ u) : s.SameBu f c v t :=
  ⟨h.bu v hv, fun a ha => h.bank a (ha ▸ buKey_ne hv), h.vigil⟩

theorem State.Noted.trans (h : s.Noted t) (g : t.Noted t') : s.Noted t' :=
  ⟨g.bus.trans h.bus, g.mem.trans h.mem, g.vigil.trans h.vigil, g.cores.trans h.cores, g.fields.trans h.fields⟩
theorem State.Noted.only {s t : State} (h : s.Noted t) : s.OnlyBu f c u t :=
  ⟨fun v _ => by rw [State.bu, State.bu, h.bus], fun a _ => by rw [h.mem], h.vigil, h.cores, h.fields⟩
theorem State.Noted.same (h : s.Noted t) : s.SameBu f c u t :=
  ⟨by rw [State.bu, State.bu, h.bus], fun a _ => by rw [h.mem], h.vigil⟩

theorem State.count_noted (s : State) (blk pos n : Nat) : s.Noted (s.count blk pos n) := by constructor <;> simp
theorem State.countCorrected_noted (s : State) (blk pos : Nat) : s.Noted (s.countCorrected blk pos) := by constructor <;> simp
theorem State.logFault_noted (s : State) (r : Rec) : s.Noted (s.logFault r) := by constructor <;> simp

/-- Notes that two runs make on their way, whatever they say, do not tell them apart. -/
theorem State.SameBu.noted (h : s.SameBu f c u t) (hs : s.Noted s') (ht : t.Noted t') : s'.SameBu f c u t' :=
  hs.same.symm.trans (h.trans ht.same)

theorem State.SameBu.ite {p : Prop} [Decidable p] (hp : p → s.SameBu f c u t) (hn : ¬p → s'.SameBu f c u t') :
    State.SameBu f c u (if p then s else s') (if p then t else t') := by
  split
  · exact hp ‹_›
  · exact hn ‹_›

/-! ### Work of one BU -/

/-- `g` is work of BU `u` alone: it changes no other BU, and what it makes of this BU depends on this BU alone. -/
structure LocalTo (f c u : Nat) (g : State → State) : Prop where
  only : ∀ s : State, s.OnlyBu f c u (g s)
  same : ∀ {s t : State}, s.SameBu f c u t → (g s).SameBu f c u (g t)

/-- `g` is work of BU `u` alone that answers what this BU determines. -/
structure LocalRead (f c u : Nat) (g : State → State × α) : Prop where
  act : LocalTo f c u fun s => (g s).1
  val : ∀ {s t : State}, s.SameBu f c u t → (g t).2 = (g s).2

theorem LocalTo.id : LocalTo f c u fun s => s := ⟨.refl, fun h => h⟩
theorem LocalTo.comp {g k : State → State} (hg : LocalTo f c u g) (hk : LocalTo f c u k) : LocalTo f c u fun s => k (g s) :=
  ⟨fun s => (hg.only s).trans (hk.only _), fun h => hk.same (hg.same h)⟩
theorem LocalTo.read {g : State → State} {r : State → State × α} (hg : LocalTo f c u g) (hr : LocalRead f c u r) :
    LocalRead f c u fun s => r (g s) := ⟨hg.comp hr.act, fun h => hr.val (hg.same h)⟩
theorem LocalTo.ite {p : Prop} [Decidable p] {g k : State → State} (hg : LocalTo f c u g) (hk : LocalTo f c u k) :
    LocalTo f c u fun s => if p then g s else k s := by split <;> assumption
theorem LocalRead.ite {p : Prop} [Decidable p] {g k : State → State × α} (hg : LocalRead f c u g) (hk : LocalRead f c u k) :
    LocalRead f c u fun s => if p then g s else k s := by split <;> assumption
theorem LocalRead.pure (x : α) : LocalRead f c u fun s => (s, x) := ⟨.id, fun _ => rfl⟩
theorem LocalRead.map {β : Type} {r : State → State × α} (hr : LocalRead f c u r) (φ : α → β) :
    LocalRead f c u fun s => ((r s).1, φ (r s).2) := ⟨hr.act, fun h => congrArg φ (hr.val h)⟩

/-- Work that goes on from an answer. -/
theorem LocalRead.andThen {r : State → State × α} {g : State → State} (hr : LocalRead f c u r)
    (only : ∀ s, (r s).1.OnlyBu f c u (g s))
    (same : ∀ s t, (r s).1.SameBu f c u (r t).1 → (r t).2 = (r s).2 → (g s).SameBu f c u (g t)) : LocalTo f c u g :=
  ⟨fun s => (hr.act.only s).trans (only s), fun h => same _ _ (hr.act.same h) (hr.val h)⟩

/-- Work `g` on a value that the BU and an answer determine. -/
theorem LocalRead.thenDo {β : Type} {r : State → State × α} {g : β → State → State} (hr : LocalRead f c u r)
    (hg : ∀ x, LocalTo f c u (g x)) {x : State → β}
    (hx : ∀ s t, (r t).1.bu f c u = (r s).1.bu f c u → (r t).2 = (r s).2 → x t = x s) : LocalTo f c u fun s => g (x s) (r s).1 :=
  hr.andThen (fun s => (hg (x s)).only _) fun s t h hv => hx s t h.bu hv ▸ (hg (x s)).same h

theorem State.OnlyBu.setBu (s : State) (b : Bu) : s.OnlyBu f c u (s.setBu f c u b) :=
  ⟨fun _ hv => s.bu_setBu_ne b (buKey_ne hv), fun _ _ => rfl, rfl, rfl, rfl⟩
theorem State.SameBu.setBu (h : s.SameBu f c u t) {b b' : Bu} (e : b' = b) : (s.setBu f c u b).SameBu f c u (t.setBu f c u b') :=
  ⟨by simp [e], h.bank, h.vigil⟩
theorem LocalTo.setBu (b : Bu) : LocalTo f c u fun s => s.setBu f c u b := ⟨fun s => .setBu s b, fun h => h.setBu rfl⟩
theorem LocalRead.thenSetBu {r : State → State × α} (hr : LocalRead f c u r) {b : State → Bu}
    (hb : ∀ s t, (r t).1.bu f c u = (r s).1.bu f c u → (r t).2 = (r s).2 → b t = b s) :
    LocalTo f c u fun s => (r s).1.setBu f c u (b s) := hr.thenDo .setBu hb
theorem LocalTo.updBu (g : Bu → Bu) : LocalTo f c u fun s => s.updBu f c u g :=
  ⟨fun s => .setBu s _, fun h => h.setBu (congrArg g h.bu)⟩

/-- A word of the BU's rows is set. -/
theorem LocalTo.setWord (ha : a / 0x8000 = buKey f c u) (x : Stored) : LocalTo f c u fun s => { s with mem := s.mem.set a x } where
  only s := ⟨fun _ _ => rfl, fun b hb => Memory.get_set_ne _ _ (fun e => hb (e ▸ ha)), rfl, rfl, rfl⟩
  same {s t} h := ⟨h.bu, fun b hb => by
    by_cases e : b = a
    · subst e; exact (Memory.get_set_same t.mem b x).trans (Memory.get_set_same s.mem b x).symm
    · exact (Memory.get_set_ne _ _ e).trans ((h.bank b hb).trans (Memory.get_set_ne _ _ e).symm), h.vigil⟩

theorem LocalTo.count (blk pos n : Nat) : LocalTo f c u fun s => s.count blk pos n :=
  ⟨fun s => (s.count_noted blk pos n).only, fun h => h.noted (State.count_noted _ blk pos n) (State.count_noted _ blk pos n)⟩
theorem LocalTo.countCorrected (blk pos : Nat) : LocalTo f c u fun s => s.countCorrected blk pos :=
  ⟨fun s => (s.countCorrected_noted blk pos).only,
    fun h => h.noted (State.countCorrected_noted _ blk pos) (State.countCorrected_noted _ blk pos)⟩

theorem LocalTo.logFault (r : Rec) : LocalTo f c u fun s => s.logFault r :=
  ⟨fun s => (s.logFault_noted r).only, fun h => h.noted (State.logFault_noted _ r) (State.logFault_noted _ r)⟩

end Locality

/-- A BU of the unit (R22). -/
structure BuIn (f c u : Nat) : Prop where
  field : f < 96
  core : c < 8
  bu : u < 128

/-! ### Rows of a BU -/

section Rows
variable {f c u a row : Nat}

theorem rowAddr_eq (f c u row : Nat) : rowAddr f c u row = buKey f c u * 0x8000 + row * 8 := by unfold rowAddr buKey; omega

/-- The words of a BU's rows. -/
theorem rowAddr_div (hr : row < 4096) {k : Nat} (hk : k < 8) : (rowAddr f c u row + k) / 0x8000 = buKey f c u := by
  rw [rowAddr_eq]; omega

theorem placeOf_bank (hu : BuIn f c u) (ha : a / 0x8000 = buKey f c u) : placeOf a = .bank f c u (a / 8 % 4096) (a % 8) := by
  obtain ⟨hf, hc, hu⟩ := hu
  unfold buKey at ha
  have hlt : a < 96 * 0x2000000 := by omega
  have hfield : a / 0x2000000 = f := by omega
  have hcore : a / 0x400000 % 8 = c := by omega
  have hbu : a / 0x8000 % 128 = u := by omega
  rw [placeOf, if_pos hlt, hfield, hcore, hbu]

/-- R76: a word of the BU's rows is read: its checks, its write-back and its poison stay in the BU. -/
theorem State.readWord_local (hu : BuIn f c u) (ha : a / 0x8000 = buKey f c u) (who : Who) :
    LocalRead f c u fun s => s.readWord a who := by
  have hp := placeOf_bank hu ha
  refine ⟨⟨fun s => ?_, fun {s t} h => ?_⟩, fun {s t} h => ?_⟩
  · simp only [State.readWord, hp]
    generalize (s.mem.get a).judge = j
    obtain ⟨k, w⟩ := j
    cases k <;> dsimp only
    case clean => exact .refl s
    case poisoned => exact (LocalTo.count _ _ _).only s
    case corrected => exact ((LocalTo.countCorrected _ _).comp (.updBu _)).only s
    case uncorrectable => exact ((((LocalTo.setWord ha _).comp (.count _ _ _)).comp (.updBu _)).comp (.logFault _)).only s
  · have hn : t.now = s.now := congrArg (·.vigilTime.toNat) h.vigil
    simp only [State.readWord, hp, h.bank a ha, hn]
    generalize (s.mem.get a).judge = j
    obtain ⟨k, w⟩ := j
    cases k <;> dsimp only
    case clean => exact h
    case poisoned => exact (LocalTo.count _ _ _).same h
    case corrected => exact ((LocalTo.countCorrected _ _).comp (.updBu _)).same h
    case uncorrectable =>
      refine .noted ?_ (State.logFault_noted _ _) (State.logFault_noted _ _)
      exact (((LocalTo.setWord ha _).comp (.count _ _ _)).comp (.updBu _)).same h
  · simp only [State.readWord, h.bank a ha]
    generalize (s.mem.get a).judge = j
    obtain ⟨k, w⟩ := j
    cases k <;> rfl

theorem State.readWords_local (hu : BuIn f c u) (who : Who) {n : Nat} (ha : ∀ k < n, (a + k) / 0x8000 = buKey f c u) :
    LocalRead f c u fun s => s.readWords a who n := by
  induction n generalizing a with
  | zero => exact .pure []
  | succ n ih =>
    have first := State.readWord_local hu (ha 0 n.succ_pos) who
    have rest := ih (a := a + 1) fun k hk => by rw [show a + 1 + k = a + (k + 1) by omega]; exact ha (k + 1) (by omega)
    refine ⟨first.act.comp rest.act, fun {s t} h => ?_⟩
    have hw := first.val h
    have hws := rest.val (first.act.same h)
    simp only [State.readWords]
    exact congr (congrArg List.cons hw) hws

theorem State.writeWords_local {ws : List (Word × Bool)} (ha : ∀ k < ws.length, (a + k) / 0x8000 = buKey f c u) :
    LocalTo f c u fun s => s.writeWords a ws := by
  induction ws generalizing a with
  | nil => exact .id
  | cons w ws ih =>
    have first : LocalTo f c u fun s => s.writeWord a w.1 w.2 := .setWord (ha 0 (by simp)) _
    exact first.comp (ih fun k hk => by rw [show a + 1 + k = a + (k + 1) by omega]; exact ha (k + 1) (by simpa using hk))

theorem State.bankRow_local (hu : BuIn f c u) (hr : row < 4096) (who : Who) : LocalRead f c u fun s => s.bankRow f c u row who :=
  (State.readWords_local hu who fun _ hk => rowAddr_div hr hk).map rowOfWords

theorem State.setBankRow_local (hr : row < 4096) (d : RowData) : LocalTo f c u fun s => s.setBankRow f c u row d :=
  State.writeWords_local fun _ hk => rowAddr_div hr (by simpa [wordsOfRow] using hk)

end Rows

/-! ### Host words (R84 to R98) at one BU -/

/-- The context of a host word at a BU of the unit. -/
structure Ctx.HostAt (x : Ctx) (u : Nat) : Prop where
  bu : BuIn x.f x.c u
  serial : x.serial = none

/-- An operation whose host words work in one BU alone. -/
def HostLocal (op : Ctx → Nat → Word → State → State) : Prop :=
  ∀ (x : Ctx) (u : Nat) (w : Word), x.HostAt u → LocalTo x.f x.c u (op x u w)

theorem fld_lt {n : Nat} (w : BitVec n) (lo len : Nat) : fld w lo len < 2 ^ len := (w.extractLsb' lo len).isLt
theorem insRow_lt (w : Word) : insRow w < 4096 := fld_lt w 31 12
theorem insDrow_lt (w : Word) : insDrow w < 4096 := fld_lt w 19 12

/-- R81: an accumulator word is checked. -/
theorem State.checkAcc_local (f c u i : Nat) : LocalTo f c u fun s => s.checkAcc f c u i := by
  refine ⟨fun s => ?_, fun {s t} h => ?_⟩
  · unfold State.checkAcc; dsimp only
    split
    · exact .refl s
    split
    · exact ((LocalTo.setBu _).comp (.countCorrected _ _)).only s
    · exact (((LocalTo.setBu _).comp (.count _ _ _)).comp (.logFault _)).only s
  · unfold State.checkAcc; dsimp only; rw [h.bu]
    split
    · exact h
    split
    · exact ((LocalTo.setBu _).comp (.countCorrected _ _)).same h
    · exact (((LocalTo.setBu _).comp (.count _ _ _)).comp (.logFault _)).same h

theorem State.checkSlot_local (f c u : Nat) (g : Group) (k n : Nat) : LocalTo f c u fun s => s.checkSlot f c u g k n := by
  unfold State.checkSlot
  induction List.range n with
  | nil => exact .id
  | cons l ls ih => exact (State.checkAcc_local f c u _).comp ih

section Operands
variable {x : Ctx} {u : Nat} (w : Word)

theorem State.withSlot_local (n : Nat) : LocalTo x.f x.c u fun s => s.withSlot x u w n :=
  ⟨fun s => (State.checkSlot_local x.f x.c u _ _ n).only s, fun h => by
    unfold State.withSlot; rw [h.bu]; exact (State.checkSlot_local x.f x.c u _ _ n).same h⟩

/-- R94: in an INT32 group the words of the index slot are checked too. -/
theorem State.indexSlot_local (n : Nat) : LocalTo x.f x.c u fun s =>
    if ((s.bu x.f x.c u).group (insGrpB w)).pair then s
    else s.checkSlot x.f x.c u ((s.bu x.f x.c u).group (insGrpB w)) (insSlot w + 1) n where
  only s := (LocalTo.ite .id (State.checkSlot_local x.f x.c u _ _ n)).only s
  same {s t} h := by rw [h.bu]; exact (LocalTo.ite .id (State.checkSlot_local x.f x.c u _ _ n)).same h

variable (hx : x.HostAt u)
include hx

/-- A host word reads its BU's bank: only passes have held writes (R192). -/
theorem State.readRow_local {row : Nat} (hr : row < 4096) : LocalRead x.f x.c u fun s => s.readRow x u row := by
  simp only [State.readRow, hx.serial, heldFor]
  exact State.bankRow_local hx.bu hr _

/-- A row that only some forms of a word read. -/
theorem State.rowIf_local (p : Prop) [Decidable p] :
    LocalRead x.f x.c u fun s => if p then s.readRow x u (insRow w) else (s, ({} : RowData)) :=
  .ite (State.readRow_local hx (insRow_lt w)) (.pure _)

theorem State.putRow_local {row : Nat} (hr : row < 4096) (d : RowData) : LocalTo x.f x.c u fun s => s.putRow x u row d := by
  unfold State.putRow
  rw [hx.serial]
  cases x.held <;> exact State.setBankRow_local hr d

theorem State.operandB_local : LocalRead x.f x.c u fun s => s.operandB x u w := by
  have row := State.readRow_local hx (insRow_lt w)
  unfold State.operandB; dsimp only
  split
  · exact ⟨row.act, fun h => by rw [row.val h]⟩
  · exact ⟨.id, fun h => by rw [h.bu]⟩

theorem State.planeResult_local (r : Plane) : LocalTo x.f x.c u fun s => s.planeResult x u w r where
  only s := by
    unfold State.planeResult; dsimp only
    split
    · exact ((LocalTo.setBu _).comp (State.putRow_local hx (insRow_lt w) _)).only s
    · exact .setBu s _
  same {s t} h := by
    unfold State.planeResult; dsimp only; rw [h.bu]
    split
    · exact ((LocalTo.setBu _).comp (State.putRow_local hx (insRow_lt w) _)).same h
    · exact h.setBu rfl

/-- C and Z are set, then the result. -/
theorem State.flagsResult_local (p : Bu × Plane) :
    LocalTo x.f x.c u fun s => (s.setBu x.f x.c u p.1).planeResult x u w p.2 :=
  (LocalTo.setBu p.1).comp (State.planeResult_local w hx p.2)

end Operands

/-! ### The operations -/

theorem opNop_local : HostLocal opNop := fun _ _ _ _ => .id

theorem opPlogic_local : HostLocal opPlogic := fun _ _ w hx =>
  (State.operandB_local w hx).thenDo (State.planeResult_local w hx) fun _ _ hb hv => by rw [hv, hb]

theorem opPadd_local : HostLocal opPadd := fun _ _ w hx =>
  (State.operandB_local w hx).thenDo (State.flagsResult_local w hx) (x := fun _ => (_, _)) fun _ _ hb hv => by rw [hv, hb]

theorem opPsub_local : HostLocal opPsub := fun _ _ w hx =>
  (State.operandB_local w hx).thenDo (State.flagsResult_local w hx) (x := fun _ => (_, _)) fun _ _ hb hv => by rw [hv, hb]

theorem opPcmp_local : HostLocal opPcmp := fun _ _ w hx =>
  (State.operandB_local w hx).thenSetBu fun _ _ hb hv => by rw [hv, hb]

theorem opPflag_local : HostLocal opPflag := fun _ _ w hx =>
  (LocalRead.pure ()).thenDo (State.planeResult_local w hx) fun _ _ hb _ => by rw [hb]

theorem opPsel_local : HostLocal opPsel := fun _ _ w hx =>
  (State.operandB_local w hx).thenDo (State.planeResult_local w hx) fun _ _ hb hv => by rw [hv, hb]

theorem opPshe_local : HostLocal opPshe := fun _ _ w hx =>
  (LocalRead.pure ()).thenDo (State.planeResult_local w hx) fun _ _ hb _ => by rw [hb]

theorem opPpop_local : HostLocal opPpop := fun _ _ _ _ => (LocalRead.pure ()).thenSetBu fun _ _ hb _ => by rw [hb]

theorem opRowcp_local : HostLocal opRowcp := fun _ _ w hx =>
  (State.readRow_local hx (insRow_lt w)).thenDo (State.putRow_local hx (insDrow_lt w)) fun _ _ _ hv => hv

theorem opLookup_local : HostLocal opLookup := fun _ _ w hx =>
  ((State.withSlot_local w _).read (State.readRow_local hx (insRow_lt w))).thenSetBu fun _ _ hb hv => by rw [hv, hb]

theorem opMac16_local : HostLocal opMac16 := fun x u w hx => by
  have row : LocalRead x.f x.c u fun s => if pureStep w then (s, ({} : RowData)) else s.readRow x u (insRow w) :=
    .ite (.pure _) (State.readRow_local hx (insRow_lt w))
  exact ((State.withSlot_local w x.lanes).read row).thenSetBu fun _ _ hb hv => by rw [hv, hb]

/-- R92: an entry outside the window, or of no slot that takes part, leaves the slots as the poison of the geometry left them. -/
theorem opEscmac_local : HostLocal opEscmac := fun x u w hx => by
  refine (State.readRow_local hx (insRow_lt w)).andThen (fun s => ?_) fun s t h hv => ?_
  · have landed (b b' : Bu) (i : Nat) := ((LocalTo.setBu b).comp (State.checkAcc_local x.f x.c u i)).comp (.setBu b')
    exact (LocalTo.ite (.setBu _) (.ite (.setBu _) (.ite (.setBu _) (landed _ _ _)))).only _
  · unfold opEscmac; dsimp only; rw [hv, h.bu]
    refine .ite (fun _ => h.setBu rfl) fun _ => .ite (fun _ => h.setBu rfl) fun _ => .ite (fun _ => h.setBu rfl) fun _ => ?_
    have checked (b : Bu) (i : Nat) := (State.checkAcc_local x.f x.c u i).same (h.setBu (rfl : b = b))
    exact (checked _ _).setBu (by rw [(checked _ _).bu])

theorem opPreload_local : HostLocal opPreload := fun x _ w hx =>
  ((State.withSlot_local w x.lanes).read (State.rowIf_local w hx _)).thenSetBu fun _ _ hb hv => by rw [hv, hb]

theorem opCsel_local : HostLocal opCsel := fun _ _ w hx =>
  (((State.withSlot_local w 16).comp (State.indexSlot_local w 16)).read (State.readRow_local hx (insRow_lt w))).thenSetBu
    fun _ _ hb hv => by rw [hv, hb]

theorem opTbuild_local : HostLocal opTbuild := fun _ _ w hx =>
  (State.rowIf_local w hx (insLm w = true)).thenDo (State.putRow_local hx (insRow_lt w)) fun _ _ hb hv => by rw [hv, hb]

theorem opGopen_local : HostLocal opGopen := fun _ _ _ _ => (LocalRead.pure ()).thenSetBu fun _ _ hb _ => by rw [hb]
theorem opGclose_local : HostLocal opGclose := fun _ _ _ _ => .updBu _
theorem opSset_local : HostLocal opSset := fun _ _ _ _ => .updBu _
theorem opSadd_local : HostLocal opSadd := fun _ _ _ _ => .updBu _

/-! ### A host word in each BU of its target (R22, R345) -/

/-- What a host word, sent by `port`, makes of one BU of its target. -/
def State.hostStep (op : Ctx → Nat → Word → State → State) (f c port : Nat) (w : Word) (s : State) (u : Nat) : State :=
  if groupOk (s.bu f c u) w then
    (op { f, c, event := (s.bu f c u).executed.toNat % 2 ^ 20 } u w s).updBu f c u fun b => { b with executed := b.executed + 1 }
  else s.discardWord f c u port w

/-- What a host word makes of its core and of the counters. -/
def State.hostDone (a : BuAt) (w : Word) (go : Bool) (s : State) : State :=
  ((if go then s.noteOpen a.field a.core w 16 [] else s).countIssue a w).endCommands a.field

section Host
variable {op : Ctx → Nat → Word → State → State} {f c u port : Nat} {w : Word} {s t : State}

theorem hostWord_front {a : BuAt} {q : CmdWord} {rest : List CmdWord} (hl : (s.core a.field a.core).level = .run)
    (hq : (s.core a.field a.core).fifo = q :: rest) (hb : q.bu = a.bu) :
    ∃ go, hostWord op a q.w s = State.hostDone a q.w go
      ((targets a).foldl (State.hostStep op a.field a.core q.port q.w)
        (s.setCore a.field a.core { s.core a.field a.core with fifo := rest })) := by
  unfold hostWord; dsimp only
  rw [hq]; dsimp only
  rw [if_pos (by simp [hb, hl])]
  exact ⟨_, rfl⟩

theorem State.discardWord_local (f c u port : Nat) (w : Word) : LocalTo f c u fun s => s.discardWord f c u port w :=
  ⟨fun _ => (((LocalTo.updBu _).comp (.count _ _ _)).comp (.logFault _)).only _,
    fun h => (((LocalTo.updBu _).comp (.count _ _ _)).same h).noted (State.logFault_noted _ _) (State.logFault_noted _ _)⟩

theorem State.hostStep_local (hop : HostLocal op) (hu : BuIn f c u) (port : Nat) (w : Word) :
    LocalTo f c u fun s => s.hostStep op f c port w u := by
  have valid (e : Nat) := (hop { f, c, event := e } u w ⟨hu, rfl⟩).comp (.updBu fun b => { b with executed := b.executed + 1 })
  have invalid := State.discardWord_local f c u port w
  refine ⟨fun s => (LocalTo.ite (valid _) invalid).only s, fun h => ?_⟩
  unfold State.hostStep; rw [h.bu]
  exact (LocalTo.ite (valid _) invalid).same h

/-- The BUs of a list work in turn: no core and no field changes. -/
theorem foldl_cores {g : State → Nat → State} {l : List Nat} (hg : ∀ u ∈ l, LocalTo f c u fun s => g s u) (s : State) :
    (l.foldl g s).cores = s.cores ∧ (l.foldl g s).fields = s.fields := by
  induction l generalizing s with
  | nil => exact ⟨rfl, rfl⟩
  | cons v l ih =>
    obtain ⟨hv, hl⟩ := List.forall_mem_cons.1 hg
    obtain ⟨hc, hf⟩ := ih hl (g s v)
    exact ⟨hc.trans (hv.only s).cores, hf.trans (hv.only s).fields⟩

/-- A BU outside the list sees nothing of it. -/
theorem foldl_same_of_notMem {g : State → Nat → State} {l : List Nat} (hg : ∀ u ∈ l, LocalTo f c u fun s => g s u)
    (hu : u ∉ l) (s : State) : s.SameBu f c u (l.foldl g s) := by
  induction l generalizing s with
  | nil => exact .refl s
  | cons v l ih =>
    obtain ⟨hv, hl⟩ := List.forall_mem_cons.1 hg
    obtain ⟨hne, hul⟩ := not_or.1 fun h => hu (List.mem_cons.2 h)
    exact ((hv.only s).same hne).trans (ih hl hul _)

/-- A BU of the list sees its own work alone. -/
theorem foldl_same_of_mem {g : State → Nat → State} {l : List Nat} (hg : ∀ u ∈ l, LocalTo f c u fun s => g s u) (hn : l.Nodup)
    (hu : u ∈ l) (s : State) : (g s u).SameBu f c u (l.foldl g s) := by
  induction l generalizing s with
  | nil => cases hu
  | cons v l ih =>
    obtain ⟨hv, hl⟩ := List.forall_mem_cons.1 hg
    obtain ⟨hvl, hn⟩ := List.nodup_cons.1 hn
    by_cases e : u = v
    · subst e; exact foldl_same_of_notMem hl hvl _
    · have hul : u ∈ l := (List.mem_cons.1 hu).resolve_left e
      exact ((hl u hul).same ((hv.only s).same e)).trans (ih hl hn hul _)

theorem State.setCore_same (s : State) (k : Core) : s.SameBu f c u (s.setCore f c k) := ⟨rfl, fun _ _ => rfl, rfl⟩

theorem State.countWord_noted (s : State) (f c : Nat) (w : Word) : s.Noted (s.countWord f c w) := by
  unfold State.countWord; dsimp only
  split
  · exact (s.count_noted _ _ _).trans (State.count_noted _ _ _ _)
  · exact s.count_noted _ _ _

theorem State.countIssue_noted (s : State) (a : BuAt) (w : Word) : s.Noted (s.countIssue a w) := by
  unfold State.countIssue
  split
  · exact s.countWord_noted _ _ w
  · exact ⟨rfl, rfl, rfl, rfl, rfl⟩

theorem State.noteOpen_same (s : State) (lanes : Nat) (align : List Int) : s.SameBu f c u (s.noteOpen f c w lanes align) := by
  unfold State.noteOpen
  split
  · exact s.setCore_same _
  · exact .refl s
theorem State.noteOpen_fields (s : State) (lanes : Nat) (align : List Int) :
    (s.noteOpen f c w lanes align).fields = s.fields := by unfold State.noteOpen; split <;> rfl
theorem State.noteOpen_fifo (s : State) (lanes : Nat) (align : List Int) :
    ((s.noteOpen f c w lanes align).core f c).fifo = (s.core f c).fifo := by
  unfold State.noteOpen State.updCore; split <;> simp [Core.noteOpen]

/-- R350: command mode that is not ending goes on. -/
theorem State.endCommands_not (h : (s.field f).cmdEnding = false) : s.endCommands f = s := by simp [State.endCommands, h]

/-- What follows the BUs' work leaves them and the FIFO. -/
theorem State.hostDone_same {a : BuAt} (he : (s.field a.field).cmdEnding = false) (w : Word) (go : Bool) :
    s.SameBu a.field a.core u (s.hostDone a w go) ∧
    ((s.hostDone a w go).core a.field a.core).fifo = (s.core a.field a.core).fifo := by
  have counted (t : State) (ht : t.fields = s.fields) : t.SameBu a.field a.core u ((t.countIssue a w).endCommands a.field) ∧
      (((t.countIssue a w).endCommands a.field).core a.field a.core).fifo = (t.core a.field a.core).fifo := by
    have noted := t.countIssue_noted a w
    rw [State.endCommands_not (by rw [State.field, noted.fields, ht]; exact he)]
    exact ⟨noted.same, by rw [State.core, noted.cores, ← State.core]⟩
  cases go with
  | false => exact counted s rfl
  | true =>
    obtain ⟨same, fifo⟩ := counted (s.noteOpen a.field a.core w 16 []) (s.noteOpen_fields 16 [])
    exact ⟨(s.noteOpen_same 16 []).trans same, fifo.trans (s.noteOpen_fifo 16 [])⟩

theorem targets_in {a : BuAt} (ha : buAtOk a = true) (hu : u ∈ targets a) : BuIn a.field a.core u := by
  obtain ⟨f, c, b⟩ := a
  obtain ⟨hfc, hb⟩ := Bool.and_eq_true_iff.1 ha
  obtain ⟨hf, hc⟩ := Bool.and_eq_true_iff.1 hfc
  refine ⟨of_decide_eq_true hf, of_decide_eq_true hc, ?_⟩
  cases b with
  | none => exact List.mem_range.1 hu
  | some v => exact List.mem_singleton.1 hu ▸ of_decide_eq_true hb
theorem targets_nodup (a : BuAt) : (targets a).Nodup := by
  unfold targets
  split
  · exact List.pairwise_singleton _ _
  · exact List.nodup_range

/-- A host word at the front of its core's FIFO leaves it, and each BU of its target ends as by its own step alone. -/
theorem hostWord_same {a : BuAt} {q : CmdWord} {rest : List CmdWord} (hop : HostLocal op) (ha : buAtOk a = true)
    (hl : (s.core a.field a.core).level = .run) (he : (s.field a.field).cmdEnding = false)
    (hq : (s.core a.field a.core).fifo = q :: rest) (hb : q.bu = a.bu) :
    ((hostWord op a q.w s).core a.field a.core).fifo = rest ∧
    ∀ u ∈ targets a, (s.hostStep op a.field a.core q.port q.w u).SameBu a.field a.core u (hostWord op a q.w s) := by
  obtain ⟨go, hw⟩ := hostWord_front (op := op) hl hq hb
  have steps (u : Nat) (hu : u ∈ targets a) := State.hostStep_local hop (targets_in ha hu) q.port q.w
  obtain ⟨cores, fields⟩ := foldl_cores steps (s.setCore a.field a.core { s.core a.field a.core with fifo := rest })
  rw [hw]
  have done (u : Nat) := State.hostDone_same (u := u) (a := a) (w := q.w) (go := go) (by rw [State.field, fields]; exact he)
  refine ⟨(done 0).2.trans ?_, fun u hu => ?_⟩
  · rw [State.core, cores]
    exact congrArg Core.fifo (s.core_setCore _ _ _)
  · exact ((steps u hu).same (s.setCore_same _)).trans ((foldl_same_of_mem steps (targets_nodup a) hu _).trans (done u).1)

/-- A row of the opcode table whose host words are `hostWord`s of an operation that works in one BU. -/
theorem eachBu_of_local {mk : BuAt → Issue → Word → Instr} {ps : List Part} {n : Nat} (hop : HostLocal op)
    (hexec : ∀ a w s, exec (mk a .host w) s = onPart ps (buOk a w n) s (hostWord op a w) := by intros; rfl)
    (hok : ∀ a w, (mk a .host w).ok = buOk a w n := by intros; rfl) (hbus : .bus ∈ ps := by decide)
    (hcores : .cores ∈ ps := by decide) (s : State) (f c : Nat) (q : CmdWord) (rest : List CmdWord)
    (ho : (mk ⟨f, c, none⟩ .host q.w).ok = true)
    (hl : (s.core f c).level = .run) (he : (s.field f).cmdEnding = false) (hq : (s.core f c).fifo = q :: rest) (hb : q.bu = none) :
    Claims.Goes (mk ⟨f, c, none⟩ .host q.w) s fun t => (t.core f c).fifo = rest ∧
      ∀ u < 128, Claims.Goes (mk ⟨f, c, some u⟩ .host q.w)
        (s.updCore f c fun k => { k with fifo := { q with bu := some u } :: rest }) fun t' =>
        t.bu f c u = t'.bu f c u ∧
        ∀ row < 4096, ∀ k < 8, t.mem.get (rowAddr f c u row + k) = t'.mem.get (rowAddr f c u row + k) := by
  rw [hok] at ho
  obtain ⟨ha, hn⟩ := Bool.and_eq_true_iff.1 ho
  obtain ⟨fifo, all⟩ := hostWord_same (a := ⟨f, c, none⟩) hop ha hl he hq hb
  refine ⟨_, (hexec _ _ _).trans (onPart_next.2 ⟨ho, rfl⟩), by simpa [State.core, hcores] using fifo, fun u hu => ?_⟩
  have ha' : buAtOk ⟨f, c, some u⟩ = true := by simp_all [buAtOk]
  obtain ⟨-, one⟩ := hostWord_same (s := s.updCore f c fun k => { k with fifo := { q with bu := some u } :: rest })
    (a := ⟨f, c, some u⟩) (q := { q with bu := some u }) (rest := rest) hop ha' (by simpa [State.updCore] using hl) he
    (by simp [State.updCore]) rfl
  have start := (State.hostStep_local hop (targets_in ha (List.mem_range.2 hu)) q.port q.w).same
    (s.setCore_same { s.core f c with fifo := { q with bu := some u } :: rest })
  have same := (one u (List.mem_singleton_self u)).symm.trans (start.symm.trans (all u (List.mem_range.2 hu)))
  refine ⟨_, (hexec _ _ _).trans (onPart_next.2 ⟨Bool.and_eq_true_iff.2 ⟨ha', hn⟩, rfl⟩), ?_, fun row hr k hk => ?_⟩
  · simpa [State.bu, hbus] using same.bu
  · rw [State.within_mem, State.within_mem]
    split
    · exact same.bank _ (rowAddr_div hr hk)
    · rfl

end Host
end Sys2Proof.Machine

namespace Sys2Proof.Claims

open Sys2Proof.Machine

/-- Settles O7: in the fold over a core's BUs each word is work of one BU alone, and so each BU ends as by its own word. -/
theorem broadcastIsEachBu : Obligations.BroadcastIsEachBu := by
  unfold Obligations.BroadcastIsEachBu
  simp only [Claims.hostRows, List.forall_mem_cons, List.not_mem_nil, false_implies, implies_true, and_true]
  exact ⟨eachBu_of_local opNop_local,
    eachBu_of_local opPlogic_local,
    eachBu_of_local opPadd_local,
    eachBu_of_local opPsub_local,
    eachBu_of_local opPcmp_local,
    eachBu_of_local opPflag_local,
    eachBu_of_local opPsel_local,
    eachBu_of_local opPshe_local,
    eachBu_of_local opPpop_local,
    eachBu_of_local opRowcp_local,
    eachBu_of_local opLookup_local,
    eachBu_of_local opMac16_local,
    eachBu_of_local opEscmac_local,
    eachBu_of_local opPreload_local,
    eachBu_of_local opCsel_local,
    eachBu_of_local opTbuild_local,
    eachBu_of_local opGopen_local,
    eachBu_of_local opGclose_local,
    eachBu_of_local opSset_local,
    eachBu_of_local opSadd_local⟩

end Sys2Proof.Claims
end

section
/-! SUPPORT. Rows in fields of one width, host words that write a row, and the settled statement RowWordsWrite. -/

namespace Sys2Proof.Machine

/-! ### Numbers in fields of one width -/

section Fields
variable {m n : Nat} {v : Nat → Nat}

/-- The number whose field `k`, of `m` bits, holds `v k`. -/
def fieldSum (m n : Nat) (v : Nat → Nat) : Nat := ((List.range n).map fun k => v k * 2 ^ (k * m)).sum

theorem fieldSum_succ (m n : Nat) (v : Nat → Nat) : fieldSum m (n + 1) v = fieldSum m n v + v n * 2 ^ (n * m) := by
  simp [fieldSum, List.range_succ]

theorem fieldSum_lt (hv : ∀ k < n, v k < 2 ^ m) : fieldSum m n v < 2 ^ (n * m) := by
  induction n with
  | zero => simp [fieldSum]
  | succ n ih =>
    have low := ih fun k hk => hv k (Nat.lt_succ_of_lt hk)
    rw [fieldSum_succ]
    calc fieldSum m n v + v n * 2 ^ (n * m) < (v n + 1) * 2 ^ (n * m) := by rw [Nat.succ_mul]; omega
      _ ≤ 2 ^ m * 2 ^ (n * m) := Nat.mul_le_mul_right _ (hv n n.lt_succ_self)
      _ = 2 ^ ((n + 1) * m) := by rw [← Nat.pow_add, Nat.succ_mul, Nat.add_comm]

theorem fieldSum_field (hv : ∀ k < n, v k < 2 ^ m) {k : Nat} (hk : k < n) : fieldSum m n v / 2 ^ (k * m) % 2 ^ m = v k := by
  induction n with
  | zero => cases hk
  | succ n ih =>
    have below : ∀ k < n, v k < 2 ^ m := fun k hk => hv k (Nat.lt_succ_of_lt hk)
    rw [fieldSum_succ]
    obtain hk | rfl := Nat.lt_succ_iff_lt_or_eq.1 hk
    · obtain ⟨d, rfl⟩ := Nat.exists_eq_add_of_lt hk
      have place : (k + d + 1) * m = d * m + m + k * m := by rw [Nat.succ_mul, Nat.add_mul]; omega
      have above : v (k + d + 1) * 2 ^ ((k + d + 1) * m) = v (k + d + 1) * 2 ^ (d * m) * 2 ^ m * 2 ^ (k * m) := by
        rw [place, Nat.pow_add, Nat.pow_add, Nat.mul_assoc, Nat.mul_assoc, Nat.mul_assoc]
      rw [above, Nat.add_mul_div_right _ _ (Nat.two_pow_pos _), Nat.add_mul_mod_self_right, ih below hk]
    · rw [Nat.add_mul_div_right _ _ (Nat.two_pow_pos _), Nat.div_eq_of_lt (fieldSum_lt below), Nat.zero_add,
        Nat.mod_eq_of_lt (hv k k.lt_succ_self)]

/-- A field within a field. -/
theorem div_mod_within {b l : Nat} (h : b + l ≤ m) (x a : Nat) :
    x / 2 ^ (a + b) % 2 ^ l = x / 2 ^ a % 2 ^ m / 2 ^ b % 2 ^ l := by
  obtain ⟨d, rfl⟩ := Nat.exists_eq_add_of_le h
  rw [Nat.pow_add 2 (b + l), Nat.pow_add 2 b, Nat.mul_assoc, Nat.mod_mul_right_div_self, Nat.mod_mul_right_mod, Nat.div_div_eq_div_mul,
    Nat.pow_add]

theorem ofNat_shiftLeft (W x i : Nat) : BitVec.ofNat W (x <<< i) = BitVec.ofNat W x <<< i := by
  apply BitVec.eq_of_toNat_eq
  simp [Nat.shiftLeft_eq]

/-- Fields laid side by side in a row. -/
theorem rowFields_eq (hv : ∀ l < n, v l < 2 ^ m) :
    (List.range n).foldl (fun (a : Row) l => a ||| (BitVec.ofNat 512 (v l) <<< (l * m))) 0 = BitVec.ofNat 512 (fieldSum m n v) := by
  induction n with
  | zero => rfl
  | succ n ih =>
    have below : ∀ k < n, v k < 2 ^ m := fun k hk => hv k (Nat.lt_succ_of_lt hk)
    have joined : fieldSum m n v ||| v n <<< (n * m) = fieldSum m (n + 1) v := by
      rw [fieldSum_succ, Nat.add_comm, Nat.mul_comm (v n), Nat.two_pow_add_eq_or_of_lt (fieldSum_lt below), Nat.or_comm,
        Nat.shiftLeft_eq, Nat.mul_comm (v n)]
    rw [List.range_succ, List.foldl_append, ih below, ← joined, BitVec.ofNat_or, ofNat_shiftLeft]
    rfl

end Fields

theorem fld_eq {W : Nat} (x : BitVec W) (lo n : Nat) : fld x lo n = x.toNat / 2 ^ lo % 2 ^ n := by
  rw [fld, BitVec.extractLsb'_toNat, Nat.shiftRight_eq_div_pow]

/-- A field of a bit vector is the sum of its bits. -/
theorem sum_bits_eq_fld {W : Nat} (x : BitVec W) (lo n : Nat) :
    ((List.range n).map fun k => if x.getLsbD (lo + k) then 2 ^ k else 0).sum = fld x lo n := by
  induction n with
  | zero => simp [fld_eq, Nat.mod_one]
  | succ n ih =>
    have bit : (if x.getLsbD (lo + n) then 2 ^ n else 0) = 2 ^ n * (x.toNat / 2 ^ lo / 2 ^ n % 2) := by
      rw [Nat.div_div_eq_div_mul, ← Nat.pow_add, ← Nat.toNat_testBit, BitVec.getLsbD]
      cases x.toNat.testBit (lo + n) <;> simp
    rw [List.range_succ, List.map_append, List.sum_append, ih, fld_eq, fld_eq, Nat.pow_succ, Nat.mod_mul]
    simp [bit]

/-- A field of a row made of fields. -/
theorem fld_rowFields {W m n : Nat} {v : Nat → Nat} (hv : ∀ l < n, v l < 2 ^ m) (hm : n * m ≤ W) {l : Nat} (hl : l < n) {b len : Nat}
    (hb : b + len ≤ m) : fld (BitVec.ofNat W (fieldSum m n v)) (l * m + b) len = v l / 2 ^ b % 2 ^ len := by
  have lt : fieldSum m n v < 2 ^ W := Nat.lt_of_lt_of_le (fieldSum_lt hv) (Nat.pow_le_pow_right Nat.two_pos hm)
  rw [fld_eq, BitVec.toNat_ofNat, Nat.mod_eq_of_lt lt, div_mod_within hb, fieldSum_field hv hl]

/-! ### Rows in memory -/

section Rows
variable {s : State} {f c u row : Nat} {x : Row}

/-- The eight words of a bank row hold these bits. -/
def State.RowHolds (s : State) (f c u row : Nat) (x : Row) : Prop :=
  ∀ k < 8, (s.mem.get (rowAddr f c u row + k)).data = x.extractLsb' (64 * k) 64

theorem State.RowHolds.rowBit (h : s.RowHolds f c u row x) {j : Nat} (hj : j < 512) : Claims.rowBit s f c u row j = x.getLsbD j := by
  rw [Claims.rowBit, h (j / 64) (by omega), BitVec.getLsbD_extractLsb', decide_eq_true (Nat.mod_lt j (by decide)), Bool.true_and,
    Nat.div_add_mod]

theorem State.RowHolds.rowNum (h : s.RowHolds f c u row x) {lo n : Nat} (hn : lo + n ≤ 512) :
    Claims.rowNum s f c u row lo n = fld x lo n := by
  rw [← sum_bits_eq_fld]
  refine congrArg List.sum (List.map_congr_left fun k hk => ?_)
  rw [h.rowBit (by have := List.mem_range.1 hk; omega)]

/-- The data of a bank row as one number of 512 bits. -/
def State.rowBits (s : State) (f c u row : Nat) : Row :=
  BitVec.ofNat 512 (fieldSum 64 8 fun k => (s.mem.get (rowAddr f c u row + k)).data.toNat)

theorem State.rowBits_holds (s : State) (f c u row : Nat) : s.RowHolds f c u row (s.rowBits f c u row) := by
  intro k hk
  apply BitVec.eq_of_toNat_eq
  have h := fld_rowFields (v := fun k => (s.mem.get (rowAddr f c u row + k)).data.toNat) (m := 64) (fun l _ => BitVec.isLt _)
    (Nat.le_refl 512) hk (b := 0) (len := 64) (Nat.le_refl 64)
  rw [Nat.add_zero, Nat.mul_comm k, Nat.pow_zero, Nat.div_one, Nat.mod_eq_of_lt (BitVec.isLt _)] at h
  exact h.symm

/-- Eight words without poison, as a row. -/
theorem rowOfWords_clean (v : Nat → Word) :
    rowOfWords ((List.range 8).map fun k => (v k, false)) = { bits := BitVec.ofNat 512 (fieldSum 64 8 fun k => (v k).toNat) } := by
  rw [← rowFields_eq (m := 64) (n := 8) (v := fun k => (v k).toNat) fun l _ => (v l).isLt]
  simp only [BitVec.ofNat_toNat]
  rfl

/-- A clean row reads as stored, and its read changes nothing (R76). -/
theorem State.bankRow_clean (h : Claims.rowClean s f c u row) (who : Who) :
    s.bankRow f c u row who = (s, { bits := s.rowBits f c u row }) := by
  simp only [State.bankRow, State.readWords_clean h, rowOfWords_clean, State.rowBits]

theorem State.readRow_clean {x : Ctx} (hx : x.serial = none) (h : Claims.rowClean s x.f x.c u row) :
    s.readRow x u row = (s, { bits := s.rowBits x.f x.c u row }) := by
  simp only [State.readRow, hx, heldFor]
  exact State.bankRow_clean h _

/-- A host word's row write goes to the bank (R101). -/
theorem State.putRow_host {x : Ctx} (hx : x.serial = none) (d : RowData) : s.putRow x u row d = s.setBankRow x.f x.c u row d := by
  rw [State.putRow, hx]
  cases x.held <;> rfl

theorem State.setBankRow_get (s : State) (d : RowData) {k : Nat} (hk : k < 8) :
    (s.setBankRow f c u row d).mem.get (rowAddr f c u row + k) =
      { data := d.bits.extractLsb' (64 * k) 64, good := d.bits.extractLsb' (64 * k) 64, poison := d.poison.getLsbD k } := by
  simp [State.setBankRow, State.writeWords_get, wordsOfRow, hk]

theorem State.setBankRow_only (s : State) (d : RowData) : Claims.OnlyRow s (s.setBankRow f c u row d) f c u row := by
  intro a ha
  rw [State.setBankRow, State.writeWords_get]
  obtain ha | ha := ha
  · rw [if_neg (by omega)]
  · rw [if_pos (by omega), List.getElem?_eq_none (by simp [wordsOfRow]; omega)]

/-- Writes change memory alone. -/
theorem State.writeWords_eq (s : State) (a : Nat) (ws : List (Word × Bool)) :
    s.writeWords a ws = { s with mem := (s.writeWords a ws).mem } := by
  induction ws generalizing s a with
  | nil => rfl
  | cons w ws ih => exact ih _ _
theorem State.setBankRow_eq (s : State) (f c u row : Nat) (d : RowData) :
    s.setBankRow f c u row d = { s with mem := (s.setBankRow f c u row d).mem } := s.writeWords_eq _ _

end Rows

/-! ### Host words that write a row -/

section RowWords
variable {s : State} {f c u row : Nat} {w : Word} {d : RowData}

/-- The core's front word leaves its FIFO. -/
def State.popWord (s : State) (f c : Nat) : State := s.setCore f c { s.core f c with fifo := (s.core f c).fifo.drop 1 }

theorem State.popWord_bu (s : State) (f c g d u : Nat) : (s.popWord f c).bu g d u = s.bu g d u := rfl
theorem State.popWord_rowBits (s : State) (f c g d u row : Nat) : (s.popWord f c).rowBits g d u row = s.rowBits g d u row := rfl

/-- A host word for one BU: it leaves its FIFO, and its operation runs in the BU, which counts it (R345). -/
theorem hostWord_one {op : Ctx → Nat → Word → State → State} (hop : HostLocal op) (h : Claims.HostFront s f c u w)
    (hg : ∀ b, groupOk b w = true) (ho : insOp w ≠ 0x21) :
    hostWord op ⟨f, c, some u⟩ w s =
      (op { f, c, event := (s.bu f c u).executed.toNat % 2 ^ 20 } u w (s.popWord f c)).updBu f c u
        fun b => { b with executed := b.executed + 1 } := by
  obtain ⟨hf, hc, hu, hl, he, q, rest, hq, hb, rfl⟩ := h
  obtain ⟨go, hw⟩ := hostWord_front (op := op) (a := ⟨f, c, some u⟩) hl hq hb
  have fields (e : Nat) (s : State) := ((hop { f, c, event := e } u q.w ⟨⟨hf, hc, hu⟩, rfl⟩).only s).fields
  rw [hw, State.popWord, hq]
  simp only [targets, List.foldl_cons, List.foldl_nil, State.hostStep, if_pos (hg _), State.hostDone, State.noteOpen, if_neg ho, ite_self,
    State.countIssue, Option.isNone_some, Bool.false_eq_true, if_false, List.drop_one, List.tail_cons]
  exact State.endCommands_not (by rw [State.field, State.updBu, State.setBu_fields, fields]; exact he)

/-- What a host word that writes a row makes of the unit. -/
def State.rowWritten (s : State) (f c u row : Nat) (d : RowData) : State := { s with
  cores := (s.popWord f c).cores
  bus := (s.updBu f c u fun b => { b with executed := b.executed + 1 }).bus
  mem := ((s.popWord f c).setBankRow f c u row d).mem }

theorem State.rowWritten_eq (s : State) (f c u row : Nat) (d : RowData) :
    ((s.popWord f c).setBankRow f c u row d).updBu f c u (fun b => { b with executed := b.executed + 1 }) = s.rowWritten f c u row d := by
  rw [State.setBankRow_eq, State.rowWritten]
  generalize ((s.popWord f c).setBankRow f c u row d).mem = m
  rfl

theorem State.rowWritten_bus (s : State) (f c u row : Nat) (d : RowData) :
    (s.rowWritten f c u row d).bus = (s.updBu f c u fun b => { b with executed := b.executed + 1 }).bus := rfl
theorem State.rowWritten_cores (s : State) (f c u row : Nat) (d : RowData) :
    (s.rowWritten f c u row d).cores = (s.popWord f c).cores := rfl
theorem State.rowWritten_mem (s : State) (f c u row : Nat) (d : RowData) :
    (s.rowWritten f c u row d).mem = ((s.popWord f c).setBankRow f c u row d).mem := rfl

/-- The parts of the state that a bank unit's words may change. -/
def rowParts : List Part := [.out, .mem, .bus, .cores, .fields, .ports, .log, .counters]

theorem State.rowWritten_within (s : State) (f c u row : Nat) (d : RowData) :
    s.within rowParts (s.rowWritten f c u row d) = s.rowWritten f c u row d := by
  simp only [State.within, rowParts, List.foldl_cons, List.foldl_nil, State.take, State.rowWritten]

theorem State.rowWritten_bu (s : State) (f c u row : Nat) (d : RowData) :
    (s.rowWritten f c u row d).bu f c u = { s.bu f c u with executed := (s.bu f c u).executed + 1 } := by
  rw [State.bu, State.rowWritten_bus]
  exact s.bu_setBu f c u _

theorem State.rowWritten_taken (hc : c < 8) (hu : u < 128) (row : Nat) (d : RowData) :
    Claims.Taken s (s.rowWritten f c u row d) f c u := by
  refine ⟨rfl, fun g e v he hv hne => ?_, fun g e he => ?_⟩
  · rw [State.bu, State.rowWritten_bus]
    exact s.bu_setBu_ne _ fun h => hne (buKey_inj he hv hc hu h)
  · rw [State.core, State.rowWritten_cores]
    split
    case isTrue h => obtain ⟨rfl, rfl⟩ := h; exact s.core_setCore g e _
    case isFalse h => exact s.core_setCore_ne _ (by omega)

theorem State.rowWritten_get (s : State) (d : RowData) {k : Nat} (hk : k < 8) :
    (s.rowWritten f c u row d).mem.get (rowAddr f c u row + k) =
      { data := d.bits.extractLsb' (64 * k) 64, good := d.bits.extractLsb' (64 * k) 64, poison := d.poison.getLsbD k } := by
  rw [State.rowWritten_mem]
  exact (s.popWord f c).setBankRow_get d hk

theorem State.rowWritten_holds (s : State) (d : RowData) : (s.rowWritten f c u row d).RowHolds f c u row d.bits :=
  fun _ hk => congrArg Stored.data (s.rowWritten_get d hk)

theorem State.rowWritten_only (s : State) (d : RowData) : Claims.OnlyRow s (s.rowWritten f c u row d) f c u row := by
  intro a ha
  rw [State.rowWritten_mem]
  exact (s.popWord f c).setBankRow_only d a ha

/-- A host word whose operation writes a row completes: it counts as executed in its BU, and beside that row no memory changes. -/
theorem goes_rowWord {i : Instr} {op : Ctx → Nat → Word → State → State} {n : Nat} (row : Nat) {p : State → Prop}
    (hi : exec i s = onPart rowParts (buOk ⟨f, c, some u⟩ w n) s (hostWord op ⟨f, c, some u⟩ w)) (hop : HostLocal op)
    (h : Claims.HostFront s f c u w) (ho : insOp w = n) (hn : n ≠ 0x21) (hg : ∀ b, groupOk b w = true)
    (hd : ∀ x : Ctx, x.f = f → x.c = c → x.serial = none →
      ∃ d, op x u w (s.popWord f c) = (s.popWord f c).setBankRow f c u row d ∧ p (s.rowWritten f c u row d)) :
    Claims.Goes i s fun t => Claims.Taken s t f c u ∧ t.bu f c u = { s.bu f c u with executed := (s.bu f c u).executed + 1 } ∧
      Claims.OnlyRow s t f c u row ∧ p t := by
  obtain ⟨d, hd, hp⟩ := hd { f, c, event := (s.bu f c u).executed.toNat % 2 ^ 20 } rfl rfl rfl
  have done : hostWord op ⟨f, c, some u⟩ w s = s.rowWritten f c u row d := by
    rw [hostWord_one hop h hg (ho ▸ hn), hd, State.rowWritten_eq]
  obtain ⟨hf, hc, hu, -⟩ := h
  refine ⟨_, hi.trans (onPart_next.2 ⟨?_, rfl⟩), ?_⟩
  · simp [buOk, buAtOk, hf, hc, hu, ho]
  · rw [done, State.rowWritten_within]
    exact ⟨State.rowWritten_taken hc hu row d, s.rowWritten_bu f c u row d, s.rowWritten_only d, hp⟩

end RowWords

/-! ### ROWCP (Table 4-8) -/

theorem Stored.eq_of_clean {x : Stored} (hp : x.poison = false) (hd : x.data = x.good) :
    { data := x.data, good := x.data, poison := false } = x := by
  cases x; cases hp; cases hd; rfl

section Rowcp
variable {s : State} {f c u : Nat} {w : Word}

theorem opRowcp_writes {x : Ctx} (hx : x.serial = none) (hr : Claims.rowClean s x.f x.c u (insRow w)) :
    opRowcp x u w s = s.setBankRow x.f x.c u (insDrow w) { bits := s.rowBits x.f x.c u (insRow w) } := by
  rw [opRowcp, State.readRow_clean hx hr]
  exact State.putRow_host hx _

theorem rowcp_copies (h : Claims.HostFront s f c u w) (ho : insOp w = 0x09) (hr : Claims.rowClean s f c u (insRow w)) :
    Claims.Goes (.rowcp ⟨f, c, some u⟩ .host w) s fun t =>
      Claims.Taken s t f c u ∧ t.bu f c u = { s.bu f c u with executed := (s.bu f c u).executed + 1 } ∧
      Claims.OnlyRow s t f c u (insDrow w) ∧
      ∀ k < 8, t.mem.get (rowAddr f c u (insDrow w) + k) = s.mem.get (rowAddr f c u (insRow w) + k) := by
  refine goes_rowWord (insDrow w) rfl opRowcp_local h ho (by decide) (fun b => by simp [groupOk, ho]) fun x hf hc hx => ?_
  subst hf hc
  refine ⟨_, opRowcp_writes hx hr, fun k hk => ?_⟩
  obtain ⟨clean, good⟩ := hr k hk
  rw [State.rowWritten_get _ _ hk, State.popWord_rowBits, ← s.rowBits_holds x.f x.c u (insRow w) k hk]
  simpa using Stored.eq_of_clean clean good

end Rowcp

/-! ### TBUILD (R58, R63, R95) -/

section Tbuild
variable {s : State} {f c u : Nat} {w : Word}

theorem sext_eq_signed {n : Nat} (hn : n ≠ 0) (x : Nat) : sext n x = Claims.signed n x := by
  simp only [sext, if_neg hn, Claims.signed, pow2]

theorem nbit_eq_testBit (x i : Nat) : nbit x i = x.testBit i := (Nat.testBit_eq_decide_div_mod_eq ..).symm

theorem lowBits_lt (n : Nat) (v : Int) : lowBits n v < 2 ^ n := by
  unfold lowBits pow2
  have := Nat.two_pow_pos n
  omega

theorem lowBits_cast (n : Nat) (v : Int) : ((lowBits n v : Nat) : Int) = v % (2 ^ n : Nat) :=
  Int.toNat_of_nonneg (Int.emod_nonneg _ (by have := Nat.two_pow_pos n; unfold pow2; omega))

/-- R95: value `i` of a lane, which the BU's plane registers hold. -/
def tableSource (b : Bu) (w : Word) (l i : Nat) : Int :=
  let x := ((b.plane (insPaB w + i)).bits.extractLsb' (16 * l) 16).toNat
  if (insMode w).testBit 0 then (x : Int) else Claims.signed 16 x

/-- R58: entry `k` of a lane's table, before it is cut to its width. -/
def tableEntry (b : Bu) (w : Word) (l k : Nat) : Int :=
  ((List.range (insG w - 1)).map fun i => if k.testBit i then tableSource b w l i else -(tableSource b w l i)).sum +
    tableSource b w l (insG w - 1)

theorem halfTableEntry_sources (b : Bu) (w : Word) (l k : Nat) :
    halfTableEntry ((List.range (insG w)).map (tableSource b w l)) k = tableEntry b w l k := by
  have value {i : Nat} (hi : i < insG w) : ((List.range (insG w)).map (tableSource b w l)).getD i 0 = tableSource b w l i := by
    simp [List.getD, hi]
  have pos : 0 < insG w := Nat.succ_pos _
  simp only [halfTableEntry, tableEntry, List.length_map, List.length_range, nbit_eq_testBit]
  rw [value (by omega)]
  refine congrArg (· + _) (congrArg List.sum (List.map_congr_left fun i hi => ?_))
  rw [value (by have := List.mem_range.1 hi; omega)]
  split <;> simp

/-- Bits of a lane's table. -/
def tableBits (w : Word) : Nat := 2 ^ (insG w - 1) * insE w

/-- R63: an entry's first bit is that of its lane's table, and of its place in it. -/
theorem entry_place (w : Word) (l k : Nat) :
    (l * 2 ^ (insG w - 1) + k) * insE w = l * tableBits w + k * insE w := by
  rw [tableBits, Nat.add_mul, Nat.mul_assoc]

theorem entry_within (w : Word) {k : Nat} (hk : k < 2 ^ (insG w - 1)) : k * insE w + insE w ≤ tableBits w := by
  rw [← Nat.succ_mul]; exact Nat.mul_le_mul_right _ hk

/-- What TBUILD leaves in a lane: its table, or the bits of the row as it was. -/
def tableWordOf (b : Bu) (w : Word) (old : Row) (l : Nat) : Nat :=
  if b.enabled (insLm w) l then buildWord (insE w) ((List.range (insG w)).map (tableSource b w l))
  else fld old (l * tableBits w) (tableBits w)

theorem buildWord_eq (b : Bu) (w : Word) (l : Nat) : buildWord (insE w) ((List.range (insG w)).map (tableSource b w l)) =
    fieldSum (insE w) (2 ^ (insG w - 1)) fun k => lowBits (insE w) (tableEntry b w l k) := by
  simp only [buildWord, halfTableEntry_sources, List.length_map, List.length_range, fieldSum]

theorem tableWordOf_lt (b : Bu) (w : Word) (old : Row) (l : Nat) : tableWordOf b w old l < 2 ^ tableBits w := by
  unfold tableWordOf
  split
  · rw [buildWord_eq]
    exact fieldSum_lt fun k _ => lowBits_lt _ _
  · exact fld_lt _ _ _

/-- Entry `k` of a lane that TBUILD built, or of one it kept. -/
theorem tableWordOf_entry (b : Bu) (w : Word) (old : Row) (l : Nat) {k : Nat} (hk : k < 2 ^ (insG w - 1)) :
    tableWordOf b w old l / 2 ^ (k * insE w) % 2 ^ insE w =
      if b.enabled (insLm w) l then lowBits (insE w) (tableEntry b w l k)
      else fld old (l * tableBits w + k * insE w) (insE w) := by
  unfold tableWordOf
  split
  · rw [buildWord_eq, fieldSum_field (fun k _ => lowBits_lt _ _) hk]
  · rw [fld_eq, fld_eq, ← div_mod_within (entry_within w hk)]

/-- The tables of a row fit in it (R63). -/
theorem lanes_fit (w : Word) : lanesOf (insG w) (insE w) * tableBits w ≤ 512 :=
  Nat.le_trans (Nat.mul_le_mul_right _ (Nat.min_le_right _ _)) (Nat.div_mul_le_self _ _)

/-- The row that TBUILD writes. -/
def tableRow (b : Bu) (w : Word) (old : Row) : Row :=
  BitVec.ofNat 512 (fieldSum (tableBits w) (lanesOf (insG w) (insE w)) (tableWordOf b w old))

theorem entry_fits (w : Word) {l k : Nat} (hl : l < lanesOf (insG w) (insE w)) (hk : k < 2 ^ (insG w - 1)) :
    (l * 2 ^ (insG w - 1) + k) * insE w + insE w ≤ 512 := by
  have lane := entry_within w hk
  have lanes : (l + 1) * tableBits w ≤ 512 := Nat.le_trans (Nat.mul_le_mul_right _ hl) (lanes_fit w)
  rw [Nat.succ_mul] at lanes
  rw [entry_place]
  omega

theorem tableRow_entry (b : Bu) (w : Word) (old : Row) {l k : Nat} (hl : l < lanesOf (insG w) (insE w)) (hk : k < 2 ^ (insG w - 1)) :
    fld (tableRow b w old) ((l * 2 ^ (insG w - 1) + k) * insE w) (insE w) =
      if b.enabled (insLm w) l then lowBits (insE w) (tableEntry b w l k)
      else fld old ((l * 2 ^ (insG w - 1) + k) * insE w) (insE w) := by
  rw [entry_place, tableRow, fld_rowFields (fun l _ => tableWordOf_lt b w old l) (lanes_fit w) hl (entry_within w hk),
    tableWordOf_entry b w old l hk]

theorem tableRow_above (b : Bu) (w : Word) (old : Row) {j : Nat} (hj : lanesOf (insG w) (insE w) * tableBits w ≤ j) :
    (tableRow b w old).getLsbD j = false := by
  have below := Nat.lt_of_lt_of_le (fieldSum_lt fun l _ => tableWordOf_lt b w old l) (Nat.pow_le_pow_right Nat.two_pos hj)
  rw [tableRow, BitVec.getLsbD_ofNat, Nat.testBit_lt_two_pow below, Bool.and_false]

/-- R82: only a lane mask holds a lane back. -/
theorem Bu.masked_of_not_enabled {b : Bu} {lm : Bool} {l : Nat} (h : ¬b.enabled lm l = true) : lm = true := by
  cases lm
  case false => exact absurd rfl h
  case true => rfl

theorem opTbuild_writes {x : Ctx} (hx : x.serial = none) (hr : insLm w = true → Claims.rowClean s x.f x.c u (insRow w)) :
    ∃ p, opTbuild x u w s = s.setBankRow x.f x.c u (insRow w) {
      bits := tableRow (s.bu x.f x.c u) w (if insLm w = true then s.rowBits x.f x.c u (insRow w) else 0), poison := p } := by
  have read : (if insLm w = true then s.readRow x u (insRow w) else (s, ({} : RowData))) =
      (s, { bits := if insLm w = true then s.rowBits x.f x.c u (insRow w) else 0 }) := by
    split
    case isTrue h => exact State.readRow_clean hx (hr h)
    case isFalse => rfl
  unfold opTbuild
  dsimp only
  rw [read, State.putRow_host hx]
  refine ⟨_, congrArg (s.setBankRow x.f x.c u (insRow w)) (congrArg (RowData.mk · _) ?_)⟩
  simp only [nbit_eq_testBit, sext_eq_signed (show 16 ≠ 0 by decide)]
  exact rowFields_eq fun l _ => tableWordOf_lt _ w _ l

theorem tbuild_builds (h : Claims.HostFront s f c u w) (ho : insOp w = 0x16) (hr : insLm w = true → Claims.rowClean s f c u (insRow w)) :
    Claims.Goes (.tbuild ⟨f, c, some u⟩ .host w) s fun t =>
      Claims.Taken s t f c u ∧ t.bu f c u = { s.bu f c u with executed := (s.bu f c u).executed + 1 } ∧
      Claims.OnlyRow s t f c u (insRow w) ∧
      (∀ l < lanesOf (insG w) (insE w), ∀ k < 2 ^ (insG w - 1),
        ((Claims.rowNum t f c u (insRow w) ((l * 2 ^ (insG w - 1) + k) * insE w) (insE w) : Nat) : Int) =
          if (s.bu f c u).enabled (insLm w) l then tableEntry (s.bu f c u) w l k % (2 ^ insE w : Nat)
          else Claims.rowNum s f c u (insRow w) ((l * 2 ^ (insG w - 1) + k) * insE w) (insE w)) ∧
      ∀ j, lanesOf (insG w) (insE w) * 2 ^ (insG w - 1) * insE w ≤ j → j < 512 → Claims.rowBit t f c u (insRow w) j = false := by
  refine goes_rowWord (insRow w) rfl opTbuild_local h ho (by decide) (fun b => by simp [groupOk, ho]) fun x hf hc hx => ?_
  subst hf hc
  obtain ⟨p, built⟩ := opTbuild_writes (s := s.popWord x.f x.c) (u := u) hx hr
  refine ⟨_, built, fun l hl k hk => ?_, fun j hlo hj => ?_⟩
  · rw [(s.rowWritten_holds _).rowNum (entry_fits w hl hk), tableRow_entry _ _ _ hl hk, State.popWord_bu]
    split
    case isTrue => exact lowBits_cast _ _
    case isFalse off =>
      have masked : insLm w = true := Bu.masked_of_not_enabled off
      rw [if_pos masked, State.popWord_rowBits, ← (s.rowBits_holds _ _ _ _).rowNum (entry_fits w hl hk)]
  · rw [(s.rowWritten_holds _).rowBit hj]
    exact tableRow_above _ _ _ (by rwa [tableBits, ← Nat.mul_assoc])

end Tbuild
end Sys2Proof.Machine

namespace Sys2Proof.Claims

open Sys2Proof.Machine

/-- Settles O3: a row is a number in fields, so what ROWCP and TBUILD write is read off field by field. -/
theorem rowWordsWrite : Obligations.RowWordsWrite :=
  fun _ _ _ _ _ h => ⟨rowcp_copies h, tbuild_builds h⟩

end Sys2Proof.Claims
end
